-- ==== Sys2Proof/Word.lean ====
section
/-! DEFINITION. The word types of Velix 1 and the one container all storage is held in (R5: little-endian,
bit 0 least significant). Bit-field helpers that a test could show wrong stand in Machine/Bits.lean. -/

namespace Sys2Proof

/-- A 64-bit value: uniform and mask registers, latches, device virtual addresses. -/
abbrev Word := BitVec 64

/-- A byte of memory. -/
abbrev Byte := BitVec 8

/-- A 9-bit operand code (R43). -/
abbrev Code := BitVec 9

/-- Storage by address: the pairs whose value is not zero, addresses strictly rising, so that equal contents
are equal data. An address that is not listed reads zero (R121, R399 stage 5: every scratchpad byte and every
tier page is zeroed before a program can reach it; R31, R54: every register reads zero at team start). -/
structure Sparse (w : Nat) where
  cells : List (Nat × BitVec w)
deriving DecidableEq, Repr

/-- Storage in which every address reads zero. -/
def Sparse.empty {w : Nat} : Sparse w := ⟨[]⟩

/-- The value at an address of a list of cells; zero when it is not listed. -/
def cellsGet {w : Nat} (k : Nat) : List (Nat × BitVec w) → BitVec w
  | [] => 0
  | (j, v) :: r => if j = k then v else cellsGet k r

/-- The cells after writing v at k: one entry for k, in address order, and none when v is zero. -/
def cellsSet {w : Nat} (k : Nat) (v : BitVec w) : List (Nat × BitVec w) → List (Nat × BitVec w)
  | [] => if v = 0 then [] else [(k, v)]
  | (j, x) :: r =>
    if j = k then (if v = 0 then r else (k, v) :: r)
    else if k < j then (if v = 0 then (j, x) :: r else (k, v) :: (j, x) :: r)
    else (j, x) :: cellsSet k v r

/-- The value that an address reads. -/
def Sparse.get {w : Nat} (m : Sparse w) (k : Nat) : BitVec w := cellsGet k m.cells

/-- The storage after one write. -/
def Sparse.set {w : Nat} (m : Sparse w) (k : Nat) (v : BitVec w) : Sparse w := ⟨cellsSet k v m.cells⟩

/-- Every address of [lo, hi) reads zero afterwards. -/
def Sparse.clear {w : Nat} (m : Sparse w) (lo hi : Nat) : Sparse w :=
  ⟨m.cells.filter (fun c => !(decide (lo ≤ c.1) && decide (c.1 < hi)))⟩

/-- Addresses strictly rising and no value zero: the canonical form. -/
def cellsWf {w : Nat} : List (Nat × BitVec w) → Bool
  | [] => true
  | (j, v) :: r => v != 0 && (match r with | [] => true | (k, _) :: _ => decide (j < k)) && cellsWf r

/-- The canonical form of one store. -/
def Sparse.wf {w : Nat} (m : Sparse w) : Bool := cellsWf m.cells

end Sys2Proof
end

