-- ==== Sys2Proof/Syntax.lean ====
section
/-! DEFINITION. The instructions and the steps of the device, one constructor per row of the opcode table: an
instruction word carries the fields of R41 and R42 (its major and minor opcode are the constructor), a step that no
instruction word names carries the names of what it acts on. -/

namespace Sys2Proof

/-- What follows the 64-bit base word (R42): nothing, IMM32, or bits [127:64] (IMM64 or the second operand block). -/
inductive Long where
  | none
  | imm32 (x : BitVec 32)
  | ext (x : BitVec 64)
deriving DecidableEq, Repr, Inhabited

/-- The fields of an instruction word other than MAJ and MIN (R41). LEN is the constructor of `long`. -/
structure Fields where
  mod : BitVec 6
  sc : Code
  sb : Code
  sa : Code
  dst : Code
  ws : Bool
  kn : Bool
  km : BitVec 4
  u : Bool
  ch : Bool
  long : Long
deriving DecidableEq, Repr, Inhabited

/-- A party of a team that executes instructions (R207): group g, or the bobbin. -/
inductive Who where
  | group (g : Nat)
  | bobbin
deriving DecidableEq, Repr, Inhabited

/-- One path of one party of one team (R97, R207): `pid` numbers the paths a group has had. -/
structure PathId where
  team : Nat
  who : Who
  pid : Nat
deriving DecidableEq, Repr, Inhabited

/-- An engine that holds a translation cache of its own (R232): a core, a copy engine, a matrix engine, a texel unit
or a die's raster front end. -/
inductive EngineId where
  | core (die core : Nat)
  | copy (die cluster n : Nat)
  | matrix (die cluster : Nat)
  | texel (die cluster : Nat)
  | raster (die : Nat)
deriving DecidableEq, Repr, Inhabited

/-- What a copy job does in one step: read source bytes, or land destination bytes, `n` from index `i` (R178). -/
inductive LandAct where
  | read (i n : Nat)
  | land (i n : Nat)
deriving DecidableEq, Repr, Inhabited

/-- How the host resumes a host-serviced team (R379). -/
inductive ResumeHow where
  | atPc
  | atNext
  | endContext
deriving DecidableEq, Repr, Inhabited

/-- A link that can retrain or fail: die boundary k (R391), or the fabric port of die d (R397). -/
inductive LinkId where
  | boundary (k : Nat)
  | fabric (d : Nat)
deriving DecidableEq, Repr, Inhabited

/-- The host's answer to an ATS translation request (R238): a translation (host address, log2 of its size,
write permission), no access, or a refusal (Unsupported Request or Completer Abort). -/
inductive AtsResult where
  | page (addr logSize : Nat) (write : Bool)
  | noAccess
  | refused
deriving DecidableEq, Repr, Inhabited

/-- The units that fail a bring-up (R391, R399), as the bits of FAILD, CHAN, LINK and STK, and the fabric ports
whose calibration fails; all zero when nothing fails. -/
structure BringupFail where
  dies : BitVec 8
  chans : BitVec 16
  links : BitVec 10
  stks : BitVec 16
  fabric : BitVec 8
deriving DecidableEq, Repr, Inhabited

/-- Why an encoding is not an instruction, in the order of R50: LEN, MAJ, MIN (R49). -/
inductive Reject where
  /-- LEN = 11. -/
  | badLen
  /-- MAJ 0x3C to 0x3F: permanently invalid. -/
  | invalidMajor
  /-- MAJ 0x28 to 0x3B: reserved for later generations. -/
  | reservedMajor
  /-- An assigned major with a minor that no entry names. -/
  | unnamedMinor
deriving DecidableEq, Repr, Inhabited

/-- One constructor per row of spec/opcode_table.json. -/
inductive Instr where
  /-- NOP (R106). -/
  | nop (f : Fields)
  /-- BRA (R106). -/
  | bra (f : Fields)
  /-- SPLIT (R107). -/
  | split (f : Fields)
  /-- JOIN (R108). -/
  | join (f : Fields)
  /-- BRK (R109). -/
  | brk (f : Fields)
  /-- CALL (R110). -/
  | call (f : Fields)
  /-- RET (R110). -/
  | ret (f : Fields)
  /-- EXIT (R112). -/
  | exit (f : Fields)
  /-- SETDMR (R116). -/
  | setdmr (f : Fields)
  /-- CALLV (R111). -/
  | callv (f : Fields)
  /-- CALLV_U (R111). -/
  | callvU (f : Fields)
  /-- SPUSH (R115). -/
  | spush (f : Fields)
  /-- SPOP (R115). -/
  | spop (f : Fields)
  /-- ADD (R18). -/
  | add (f : Fields)
  /-- SUB (R67). -/
  | sub (f : Fields)
  /-- MUL (R67). -/
  | mul (f : Fields)
  /-- MULHI (R67). -/
  | mulhi (f : Fields)
  /-- MAD (R67). -/
  | mad (f : Fields)
  /-- MIN (R67). -/
  | min (f : Fields)
  /-- MAX (R67). -/
  | max (f : Fields)
  /-- ABS (R67). -/
  | abs (f : Fields)
  /-- NEG (R67). -/
  | neg (f : Fields)
  /-- AND (R67). -/
  | and (f : Fields)
  /-- OR (R67). -/
  | or (f : Fields)
  /-- XOR (R67). -/
  | xor (f : Fields)
  /-- NOT (R67). -/
  | not (f : Fields)
  /-- SEL (R67). -/
  | sel (f : Fields)
  /-- MOV (R67). -/
  | mov (f : Fields)
  /-- LDI (R67). -/
  | ldi (f : Fields)
  /-- IOTA (R67). -/
  | iota (f : Fields)
  /-- SHL (R67). -/
  | shl (f : Fields)
  /-- SHR (R67). -/
  | shr (f : Fields)
  /-- SRA (R67). -/
  | sra (f : Fields)
  /-- ROT (R67). -/
  | rot (f : Fields)
  /-- BFE (R67). -/
  | bfe (f : Fields)
  /-- BFI (R67). -/
  | bfi (f : Fields)
  /-- POPC (R67). -/
  | popc (f : Fields)
  /-- CLZ (R67). -/
  | clz (f : Fields)
  /-- CTZ (R67). -/
  | ctz (f : Fields)
  /-- BREV (R67). -/
  | brev (f : Fields)
  /-- FADD (R71). -/
  | fadd (f : Fields)
  /-- FSUB (R71). -/
  | fsub (f : Fields)
  /-- FMUL (R71). -/
  | fmul (f : Fields)
  /-- FMA (R71). -/
  | fma (f : Fields)
  /-- FMIN (R71). -/
  | fmin (f : Fields)
  /-- FMAX (R71). -/
  | fmax (f : Fields)
  /-- FRND (R71). -/
  | frnd (f : Fields)
  /-- FCLASS (R72). -/
  | fclass (f : Fields)
  /-- FCMP (R72). -/
  | fcmp (f : Fields)
  /-- FDIV (R73). -/
  | fdiv (f : Fields)
  /-- FSQRT (R73). -/
  | fsqrt (f : Fields)
  /-- FRCP (R73). -/
  | frcp (f : Fields)
  /-- FRSQ (R73). -/
  | frsq (f : Fields)
  /-- FEX2 (R73). -/
  | fex2 (f : Fields)
  /-- FLG2 (R73). -/
  | flg2 (f : Fields)
  /-- FSIN (R73). -/
  | fsin (f : Fields)
  /-- FCOS (R73). -/
  | fcos (f : Fields)
  /-- CVT (R91). -/
  | cvt (f : Fields)
  /-- CVT_NARROW (R92). -/
  | cvtNarrow (f : Fields)
  /-- MXPK (R93). -/
  | mxpk (f : Fields)
  /-- MXUNPK (R93). -/
  | mxunpk (f : Fields)
  /-- VDOT (R94). -/
  | vdot (f : Fields)
  /-- GETFMT (R95). -/
  | getfmt (f : Fields)
  /-- SETFMT (R95). -/
  | setfmt (f : Fields)
  /-- SHUF (R75). -/
  | shuf (f : Fields)
  /-- LROT (R75). -/
  | lrot (f : Fields)
  /-- BCAST (R75). -/
  | bcast (f : Fields)
  /-- SCAN (R76). -/
  | scan (f : Fields)
  /-- REDW (R76). -/
  | redw (f : Fields)
  /-- SORTK (R75). -/
  | sortk (f : Fields)
  /-- BALLOT (R75). -/
  | ballot (f : Fields)
  /-- KAND (R77). -/
  | kand (f : Fields)
  /-- KOR (R77). -/
  | kor (f : Fields)
  /-- KXOR (R77). -/
  | kxor (f : Fields)
  /-- KANDN (R77). -/
  | kandn (f : Fields)
  /-- KNOT (R77). -/
  | knot (f : Fields)
  /-- KPOP (R77). -/
  | kpop (f : Fields)
  /-- KFIRST (R77). -/
  | kfirst (f : Fields)
  /-- KMOV (R77). -/
  | kmov (f : Fields)
  /-- CMP (R78). -/
  | cmp (f : Fields)
  /-- CSRR (R64). -/
  | csrr (f : Fields)
  /-- CLK (R64). -/
  | clk (f : Fields)
  /-- CSRW (R64). -/
  | csrw (f : Fields)
  /-- RGETI (R79). -/
  | rgeti (f : Fields)
  /-- RSETI (R79). -/
  | rseti (f : Fields)
  /-- LDS (R131). -/
  | lds (f : Fields)
  /-- STS (R131). -/
  | sts (f : Fields)
  /-- TMPROBE (R132). -/
  | tmprobe (f : Fields)
  /-- LDP (R131). -/
  | ldp (f : Fields)
  /-- STP (R131). -/
  | stp (f : Fields)
  /-- PALLOC (R133). -/
  | palloc (f : Fields)
  /-- PFREE (R134). -/
  | pfree (f : Fields)
  /-- ATMS (R131). -/
  | atms (op : BitVec 6) (f : Fields)
  /-- BARINIT (R146). -/
  | barinit (f : Fields)
  /-- ARRIVE (R147). -/
  | arrive (f : Fields)
  /-- ARRIVEX (R147). -/
  | arrivex (f : Fields)
  /-- WAIT (R148). -/
  | wait (f : Fields)
  /-- WAITC (R149). -/
  | waitc (f : Fields)
  /-- TRYW (R150). -/
  | tryw (f : Fields)
  /-- TRYW_C (R150). -/
  | trywC (f : Fields)
  /-- PHASE (R151). -/
  | phase (f : Fields)
  /-- BARINV (R152). -/
  | barinv (f : Fields)
  /-- LDG (R175). -/
  | ldg (f : Fields)
  /-- STG (R175). -/
  | stg (f : Fields)
  /-- GATHER_REPLY (R175). -/
  | gatherReply (id : Nat)
  /-- CPY (R182). -/
  | cpy (f : Fields)
  /-- SPAT (R184). -/
  | spat (f : Fields)
  /-- CPZ (R187). -/
  | cpz (f : Fields)
  /-- CPFILL (R185). -/
  | cpfill (f : Fields)
  /-- CPX (R186). -/
  | cpx (f : Fields)
  /-- COPY_ACCEPT (R216). -/
  | copyAccept (job : Nat)
  /-- COPY_BYTE_LAND (R178). -/
  | copyByteLand (job : Nat) (act : LandAct)
  /-- JOB_ERROR (R189). -/
  | jobError (job : Nat)
  /-- ATG (R198). -/
  | atg (op : BitVec 6) (f : Fields)
  /-- REDG (R198). -/
  | redg (op : BitVec 6) (f : Fields)
  /-- ATQ_PUSH (R200). -/
  | atqPush (f : Fields)
  /-- ATQ_POP (R200). -/
  | atqPop (f : Fields)
  /-- ATOMIC_SERVE (R195). -/
  | atomicServe (id : Nat)
  /-- ATOMIC_REPLY (R198). -/
  | atomicReply (id : Nat)
  /-- FENCE (R228). -/
  | fence (f : Fields)
  /-- FENCER (R228). -/
  | fencer (f : Fields)
  /-- TRIG (R229). -/
  | trig (f : Fields)
  /-- DRAIN (R212). -/
  | drain (id : Nat)
  /-- PORT_SERVE (R212). -/
  | portServe (cluster dest : Nat)
  /-- HINT (R171). -/
  | hint (f : Fields)
  /-- STEP (R171). -/
  | step (f : Fields)
  /-- EVICT (R171). -/
  | evict (f : Fields)
  /-- PIN (R171). -/
  | pin (f : Fields)
  /-- TIER_MOVE_START (R163). -/
  | tierMoveStart (stk : Nat)
  /-- TIER_MOVE_COMPLETE (R164). -/
  | tierMoveComplete (stk : Nat)
  /-- TILE_FILL (R251). -/
  | tileFill (tile slot : Nat)
  /-- TILE_WRITEBACK (R248). -/
  | tileWriteback (tile : Nat)
  /-- RESEAL_COMPLETE (R250). -/
  | resealComplete (group : Nat)
  /-- WRITE_QUEUE_DRAIN (R169). -/
  | writeQueueDrain (stk : Nat)
  /-- PATROL_SCRUB (R166). -/
  | patrolScrub (group : Nat)
  /-- PMAP (R240). -/
  | pmap (f : Fields)
  /-- TLBINV (R241). -/
  | tlbinv (f : Fields)
  /-- TPROBE (R242). -/
  | tprobe (f : Fields)
  /-- MIGR (R243). -/
  | migr (f : Fields)
  /-- MIGRATION_COMPLETE (R224). -/
  | migrationComplete (id : Nat)
  /-- PAGE_WALK (R235). -/
  | pageWalk (engine : EngineId) (rctx : Nat) (va : Word) (write : Bool)
  /-- PRI_RESPONSE (R238). -/
  | priResponse (rctx : Nat) (page : Nat) (ok : Bool)
  /-- ATS_INVALIDATION (R238). -/
  | atsInvalidation (rctx : Nat) (va len : Nat)
  /-- PFILL_DONE (R269). -/
  | pfillDone (f : Fields)
  /-- PFILL_FAIL (R269). -/
  | pfillFail (f : Fields)
  /-- PSTATE (R269). -/
  | pstate (f : Fields)
  /-- PRESET (R269). -/
  | preset (f : Fields)
  /-- GENERATOR_START (R262). -/
  | generatorStart (cont : Nat) (core : Nat) (unit : Option Nat)
  /-- RECRUIT (R281). -/
  | recruit (f : Fields)
  /-- HGET (R281). -/
  | hget (f : Fields)
  /-- HNEXT (R281). -/
  | hnext (f : Fields)
  /-- HRED (R281). -/
  | hred (f : Fields)
  /-- HJOIN (R281). -/
  | hjoin (f : Fields)
  /-- HQUIT (R281). -/
  | hquit (f : Fields)
  /-- HELPER_RELEASE (R278). -/
  | helperRelease (team group : Nat) (lanes : Word)
  /-- MSEND (R295). -/
  | msend (f : Fields)
  /-- MWAIT (R295). -/
  | mwait (f : Fields)
  /-- MACK (R295). -/
  | mack (f : Fields)
  /-- MACK_REG (R295). -/
  | mackReg (f : Fields)
  /-- MACK_DROP (R295). -/
  | mackDrop (f : Fields)
  /-- RING_APPEND (R291). -/
  | ringAppend (msg : Nat)
  /-- RING_RETURN (R292). -/
  | ringReturn (msg : Nat)
  /-- MMX (R311). -/
  | mmx (f : Fields)
  /-- MRING_OPEN (R312). -/
  | mringOpen (f : Fields)
  /-- MRING_CLOSE (R312). -/
  | mringClose (f : Fields)
  /-- EPI (R313). -/
  | epi (f : Fields)
  /-- MFENCE_OP (R314). -/
  | mfenceOp (f : Fields)
  /-- MPRIO (R315). -/
  | mprio (f : Fields)
  /-- MSTAT (R316). -/
  | mstat (f : Fields)
  /-- VXM (R317). -/
  | vxm (f : Fields)
  /-- MATRIX_GRANT (R305). -/
  | matrixGrant (engine : Nat)
  /-- PASS_END (R308). -/
  | passEnd (engine : Nat)
  /-- EPILOGUE_COMPLETE (R304). -/
  | epilogueComplete (engine : Nat)
  /-- SLEW_STEP (R307). -/
  | slewStep (die : Nat)
  /-- PRIM_OPEN (R335). -/
  | primOpen (f : Fields)
  /-- PRIM (R335). -/
  | prim (f : Fields)
  /-- PRIM_CLOSE (R335). -/
  | primClose (f : Fields)
  /-- PTILE_BIND (R335). -/
  | ptileBind (f : Fields)
  /-- PTILE (R335). -/
  | ptile (f : Fields)
  /-- PTILE_DONE (R335). -/
  | ptileDone (f : Fields)
  /-- PRIM_RECORD_SWEEP (R328). -/
  | primRecordSweep (die : Nat) (rctx stream : Nat)
  /-- EDGE (R337). -/
  | edge (f : Fields)
  /-- EDGEV (R337). -/
  | edgev (f : Fields)
  /-- VMASK (R337). -/
  | vmask (f : Fields)
  /-- VIMOV (R337). -/
  | vimov (f : Fields)
  /-- ZVIEW (R338). -/
  | zview (f : Fields)
  /-- ROP_W (R338). -/
  | ropW (f : Fields)
  /-- ROP_REL (R338). -/
  | ropRel (f : Fields)
  /-- RASTER_APPLY (R333). -/
  | rasterApply (id : Nat)
  /-- ROP_REL_SERVE (R338). -/
  | ropRelServe (id : Nat)
  /-- TEXQ (R347). -/
  | texq (f : Fields)
  /-- TEXQ_INV (R347). -/
  | texqInv (f : Fields)
  /-- TEXW (R349). -/
  | texw (f : Fields)
  /-- TEXS (R348). -/
  | texs (f : Fields)
  /-- MATEV (R352). -/
  | matev (f : Fields)
  /-- MATLD (R351). -/
  | matld (f : Fields)
  /-- VRATE (R350). -/
  | vrate (f : Fields)
  /-- SHADING_START (R344). -/
  | shadingStart (cont : Nat) (core : Nat) (unit : Option Nat)
  /-- TEXW_COMPLETE (R349). -/
  | texwComplete (id : Nat)
  /-- LAUNCH (R368). -/
  | launch (f : Fields)
  /-- CJOIN (R369). -/
  | cjoin (f : Fields)
  /-- TBSET (R370). -/
  | tbset (f : Fields)
  /-- TBCLR (R370). -/
  | tbclr (f : Fields)
  /-- YIELD (R371). -/
  | yield (f : Fields)
  /-- MORE_PUT (R372). -/
  | morePut (f : Fields)
  /-- MORE_GET (R372). -/
  | moreGet (f : Fields)
  /-- TEAM_CLAIM (R363). -/
  | teamClaim (die core : Nat) (grid : Nat)
  /-- TEAM_START (R31). -/
  | teamStart (team : Nat)
  /-- TEAM_RETIRE (R32). -/
  | teamRetire (team : Nat)
  /-- QUANTUM_EXPIRY (R365). -/
  | quantumExpiry (team : Nat)
  /-- CONTEXT_SAVE (R384). -/
  | contextSave (team : Nat)
  /-- CONTEXT_RESTORE (R384). -/
  | contextRestore (team core : Nat)
  /-- PARK_RESUME (R34). -/
  | parkResume (p : PathId)
  /-- TRAP (R382). -/
  | trap (f : Fields)
  /-- TRET (R382). -/
  | tret (f : Fields)
  /-- BRKPT (R382). -/
  | brkpt (f : Fields)
  /-- RDTF (R382). -/
  | rdtf (f : Fields)
  /-- WRTF (R382). -/
  | wrtf (f : Fields)
  /-- SFENCE (R382). -/
  | sfence (f : Fields)
  /-- MONSET (R402). -/
  | monset (f : Fields)
  /-- RDMON (R402). -/
  | rdmon (f : Fields)
  /-- RESERVED_ENCODING (R49). -/
  | reservedEncoding (bits : BitVec 128) (why : Reject)
  /-- CLOCK_GATE (R155). -/
  | clockGate (die core : Nat)
  /-- POWER_GATE (R155). -/
  | powerGate (die core : Nat)
  /-- CORE_WAKE (R155). -/
  | coreWake (die core : Nat)
  /-- HANG_WARNING (R156). -/
  | hangWarning (p : PathId)
  /-- HANG_REPORT (R156). -/
  | hangReport (p : PathId)
  /-- LOAD_KEY (R245). -/
  | loadKey (slot : Nat) (blob : List Byte)
  /-- ERASE_KEY (R245). -/
  | eraseKey (slot : Nat)
  /-- CREATE_CONTEXT (R393). -/
  | createContext (desc : List Word)
  /-- TEARDOWN_CONTEXT (R392). -/
  | teardownContext (rctx : Nat)
  /-- WRITE_TIER_ATTRIBUTES (R160). -/
  | writeTierAttributes (base len : Nat) (pri n : Nat) (owner : Option Nat)
  /-- DECLARE_RANGE (R257). -/
  | declareRange (rctx : Nat) (remove : Option Nat) (desc : List Word)
  /-- BREAK_WAIT (R157). -/
  | breakWait (team : Nat) (who : Who)
  /-- RESUME_HOST_SERVICED (R379). -/
  | resumeHostServiced (team : Nat) (how : ResumeHow)
  /-- ATTESTATION_REPORT (R254). -/
  | attestationReport (nonce : List Byte) (buf : Nat)
  /-- SET_POWER_STATE (R396). -/
  | setPowerState (target : Nat)
  /-- HOST_SUBMISSION (R394). -/
  | hostSubmission (rctx : Nat)
  /-- POWER_GOOD (R399). -/
  | powerGood (fails : BringupFail)
  /-- MONITOR_SAMPLE (R401). -/
  | monitorSample (die m : Nat)
  /-- ATS_TRANSLATION_COMPLETION (R238). -/
  | atsTranslationCompletion (rctx : Nat) (page : Nat) (res : AtsResult)
  /-- MAILBOX_COMMAND_COMPLETE (R392). -/
  | mailboxCommandComplete
  /-- MATERIAL_LOAD_COMPLETE (R351). -/
  | materialLoadComplete (id : Nat)
  /-- LOAD_REPLY_LAND (R115). -/
  | loadReplyLand (id : Nat)
  /-- SUBMISSION_DOORBELL (R394). -/
  | submissionDoorbell (rctx : Nat) (n : BitVec 32)
  /-- COMPLETION_DOORBELL (R394). -/
  | completionDoorbell (rctx : Nat) (n : BitVec 32)
  /-- FABRIC_BLOCK_WRITE (R398). -/
  | fabricBlockWrite (off : Nat) (value : Word)
  /-- DIE_LINK_MAP_WRITE (R400). -/
  | dieLinkMapWrite (die dest port : Nat)
  /-- HOST_REGISTER_WRITE (R395). -/
  | hostRegisterWrite (off : Nat) (value : Word)
  /-- CXL_MEM_READ (R223); slot: the key slot of its HDM decoder (R389). -/
  | cxlMemRead (addr len slot : Nat)
  /-- CXL_MEM_WRITE (R223); slot: as there. -/
  | cxlMemWrite (addr : Nat) (bytes : List Byte) (slot : Nat)
  /-- CXL_CACHE_SNOOP (R389). -/
  | cxlCacheSnoop (line : Nat)
  /-- LINK_RETRAIN (R288). -/
  | linkRetrain (link : LinkId)
  /-- LINK_FAIL (R398). -/
  | linkFail (link : LinkId) (rctx : Option Nat)
deriving DecidableEq, Repr

end Sys2Proof
end

