-- ==== Sys2Proof/Machine/State.lean ====
section
/-! DEFINITION. The whole state of the device as plain data. Bytes and registers lie in canonical stores at the top
level; everything else (teams, paths, queues, jobs, engines, host registers) is the record `Ctl`. -/

namespace Sys2Proof.Machine

/-- One byte store: device-memory, die-pool, team-memory or host bytes, in canonical form. -/
abbrev Memory := Sparse 8

/-- The canonical form of a memory. -/
abbrev Memory.wf (m : Memory) : Prop := Sparse.wf m = true

/-- The byte spaces: team windows (key uid * 2^32 + offset), die pools (die * 2^27 + offset, R122), device memory
(physical address, R158), host memory, another device's memory (device * 2^42 + address). -/
inductive Space where
  | tm | dp | dm | hm | rm
deriving DecidableEq, Repr, Inhabited

/-- A byte address in one space. -/
structure Loc where
  sp : Space
  key : Nat
deriving DecidableEq, Repr, Inhabited

/-- Where a result lands: a register code as lane `lane` writes it, at width w, extended by sign or by zeros. `vp`
is the party index of the lane registers, `wp` that of the uniform registers, `pl` the privilege level at issue (R56). -/
structure RegSink where
  vp : Nat
  wp : Nat
  pl : Nat
  code : Nat
  lane : Nat
  w : Nat
  sgn : Bool
deriving DecidableEq, Repr, Inhabited

/-- What an access does with the value it reads. `sb`: the destination is scoreboarded (R115, R198). -/
inductive Sink where
  | none
  | reg (r : RegSink) (sb : Bool)
deriving DecidableEq, Repr, Inhabited

/-- A trap to be taken (R375). addrs: the fault address of each lane; obj: HANG's object; step1: taken at step 1 of
R50; imp: deferred; party and mult: R189. -/
structure TrapReq where
  cause : Nat
  sub : Nat
  lanes : Word
  addrs : List (Nat × Word)
  imp : Bool
  party : Nat
  mult : Bool
  aux0 : Word
  aux1 : Word
  step1 : Bool
deriving DecidableEq, Repr, Inhabited

/-- What a path waits for (R34, R157). -/
inductive ParkKind where
  /-- A barrier phase: the word, the sequence s seen (R148). -/
  | barrier (w : Loc) (off : Nat) (s : Nat)
  /-- An arrival counter (R149). -/
  | counter (n : Nat) (t : Nat)
  | absent (uid line : Nat)
  | pinned (l : Loc)
  /-- A send credit, or messages in ring r (R292). -/
  | credit
  | ring (r : Nat)
  /-- Texel blocks that are not PRESENT yet; what a `texq.w` writes when they are (R347). -/
  | texel (cluster rctx desc : Nat) (keys : List Nat) (wr : Option (List (RegSink × Nat)))
  /-- Procedural blocks (range, block) (R260). -/
  | fill (blocks : List (Nat × Nat))
  | decision
deriving DecidableEq, Repr, Inhabited

/-- The instruction that a party is executing: its address, length in bytes, and bits. -/
structure Cur where
  p : PathId
  pc : Word
  len : Nat
  bits : BitVec 128
deriving DecidableEq, Repr, Inhabited

/-- A park: what for, since which cycle (R156), which reports were raised, the released phase of a wait, a trap that
ends the wait (R34), the address the object is reported with, the parked instruction and its executing lanes. -/
structure Park where
  kind : ParkKind
  since : Nat
  warned : Bool
  reported : Bool
  released : Bool
  doom : Option TrapReq
  obj : Word
  cur : Cur
  ex : Word
deriving DecidableEq, Repr, Inhabited

/-- An open chain (R45): head address and the position the next chain instruction takes. -/
structure Chain where
  head : Word
  pos : Nat
deriving DecidableEq, Repr, Inhabited

/-- The age of a park that a save has ended (R156): the address of its instruction, since when it had lasted and which
reports were raised; the park that the instruction takes when it is executed again is the same one. -/
structure ParkAge where
  pc : Word
  since : Nat
  warned : Bool
  reported : Bool
deriving DecidableEq, Repr, Inhabited

/-- How far an instruction has come that works through a list on its scoreboard (R171, R269): what it has counted, and what
is left. -/
structure Progress where
  count : Nat
  left : List (Nat × Nat)
deriving DecidableEq, Repr, Inhabited

/-- A live path (R97). lat: the latch vectors, newest first (N58). born: what the group issued before this number comes
before the path in program order, and its results are the group's (R97); fence: of that, what was issued before this number
is fenced from the path's entries (R215, R219). helper: the recruitment whose helper path this is (R273); hk its own mask
registers (R274). stalled: its last-only instruction waits at the helper unit (R279), or for a tile or credits (R335), outside the chain; age: R156; prog: its
instruction has done a part of its work. -/
structure Path where
  pid : Nat
  pc : Word
  act : Word
  fmt : Word
  chain : Option Chain
  lat : List (List Word)
  park : Option Park
  born : Nat
  fence : Nat
  helper : Option Nat
  hk : List Word
  stalled : Bool
  age : Option ParkAge
  prog : Option Progress
deriving DecidableEq, Repr, Inhabited

/-- KIND of a reconvergence entry (R98). -/
inductive RKind where
  | ser | dual | callv
deriving DecidableEq, Repr, Inhabited

/-- A reconvergence entry (R98). ppark: the wait of its pending arm that a trap has ended, which the arm takes when it starts
(R152, R157). -/
structure REnt where
  jpc : Word
  jmask : Word
  arr : Word
  ppc : Word
  pmask : Word
  pfmt : Word
  fcopy : Word
  kind : RKind
  ppark : Option Park
deriving DecidableEq, Repr, Inhabited

/-- A return-address entry (R110): the return PC with the CALLV flag in bit 0, and the depth at the call. -/
structure RAEnt where
  pc : Word
  depth : Nat
deriving DecidableEq, Repr, Inhabited

/-- Which stack a spilled control record belongs to; `dual` records the KIND it had when it was spilled, park its ppark. -/
inductive Spilled where
  | recon (dual : Bool) (park : Option Park)
  | ras
deriving DecidableEq, Repr, Inhabited

/-- A recorded transfer fault (R188): the fault of one lane. -/
structure Fault1 where
  lane : Nat
  cause : Nat
  sub : Nat
  party : Nat
  addr : Word
  mult : Bool
deriving DecidableEq, Repr, Inhabited

/-- A recorded GUARD hit of one lane (R128, R129): the record word; mult: subcause bit 0; copy: subcause bit 1. -/
structure Hit where
  lane : Nat
  word : Word
  mult : Bool
  copy : Bool
deriving DecidableEq, Repr, Inhabited

/-- A tile held by a group (R329): the stream's serial number and the tile's serial number. -/
structure TileRef where
  stream : Nat
  tile : Nat
deriving DecidableEq, Repr, Inhabited

/-- A group or the bobbin of a team: its control state (R97), trap state (R376) and recorded reports. The bobbin is a
party of width 1 (R35). recon and ras: newest first, the entries on chip; spilled: the control records in the spill
area, the i-th at spl - 64 (i + 1). held: in a trap, the lanes that the frame holds (R376); gone: the lanes that have
exited. dqRead: decision-queue entries read so far. opFence: the number that was next to be given out after its last `mfence.op`
(R217, R314). -/
structure Group where
  who : Who
  role : Nat
  width : Nat
  regs : Nat
  paths : List Path
  nextPid : Nat
  lastPid : Nat
  recon : List REnt
  ras : List RAEnt
  spilled : List Spilled
  dsp : Word
  inTrap : Bool
  held : Word
  gone : Word
  retired : Bool
  hits : List Hit
  faults : List Fault1
  triggered : Bool
  dqRead : Nat
  vsr : Nat
  tile : Option TileRef
  recruit : Option Nat
  opFence : Nat
deriving DecidableEq, Repr, Inhabited

/-- A role of a launch header (R27). -/
structure Role where
  entry : Word
  ngrp : Nat
  gwc : Nat
  regc : Nat
deriving DecidableEq, Repr, Inhabited

/-- A launch header (R26). -/
structure Header where
  aff : Nat
  nbar : Nat
  bob : Bool
  pair : Bool
  tmem : Nat
  bobEntry : Word
  dpool : Nat
  roles : List Role
deriving DecidableEq, Repr, Inhabited

/-- What started a team (R262, R344). -/
inductive Origin where
  | grid (rec : Nat)
  | fill (cont : Nat) (rctx range block depth : Nat)
  | shade (cont : Nat) (cluster desc key : Nat)
deriving DecidableEq, Repr, Inhabited

/-- The life of a team: claimed and waiting to start, running, being saved (issue stops at chain heads, R384), saved,
host-serviced (R379), retired and draining (R32). -/
inductive Phase where
  | claimed | running | saving | saved | serviced | retiring
deriving DecidableEq, Repr, Inhabited

/-- A report of a host-serviced trap (R379). -/
structure Service where
  who : Who
  pid : Nat
  cause : Nat
  sub : Nat
  pc : Word
  npc : Word
  insn : BitVec 128
  double : Bool
deriving DecidableEq, Repr, Inhabited

/-- A team. core is its even core when paired, barEven the barrier objects it takes there; slot its team slot; seg its spill segment (R364); unit the reserve
unit it holds (R263); resv its die-pool reservation's first data byte (R123). dq: all appended decision-queue entries
not yet freed, with dqBase the index of the first (R36). since and quant: when its quantum timer last restarted and the
quantum it then took, in cycles (R365); savedAt: when it was saved; drainTo: entries of an earlier number drain before
it issues (R225); code: the version of device memory at its start or restore (R226). -/
structure Team where
  uid : Nat
  rctx : Nat
  origin : Origin
  hdr : Header
  index : Nat
  ixbase : Nat
  ixcount : Nat
  prio : Nat
  frame : List Word
  die : Nat
  core : Nat
  slot : Nat
  seg : Nat
  unit : Option Nat
  barEven : Nat
  resv : Nat
  phase : Phase
  groups : List Group
  bobbin : Option Group
  dq : List Word
  dqBase : Nat
  signalled : Bool
  fillEnded : Bool
  mprio : Nat
  since : Nat
  savedAt : Nat
  drainTo : Nat
  code : Nat
  quant : Nat
  service : Option Service
deriving DecidableEq, Repr, Inhabited

/-- An atomic operation on memory (R131, R199, R200): the operation, its type and the queue forms. -/
inductive AtOp where
  | add | min | max | and | or | xor | exch | cas | fadd | fmin | fmax | push | pop
deriving DecidableEq, Repr, Inhabited

/-- A counting event charged to a party (R139), or a doubleword write. -/
inductive BarOp where
  | count (da db : Nat)
deriving DecidableEq, Repr, Inhabited

/-- A continuation record (R357), as it is kept once enqueued (R364): the translated addresses of its join counters, when
it became eligible, and since when it has waited for a claim (R362). -/
structure Rec where
  id : Nat
  rctx : Nat
  hdr : Header
  frame : List Word
  join : Option Nat
  waitj : Option Nat
  ixcount : Nat
  ixbase : Nat
  prio : Nat
  ins : List Nat
  outs : List Nat
  eligible : Bool
  eligAt : Nat
  waitAt : Nat
  claimed : Nat
  retired : Nat
deriving DecidableEq, Repr, Inhabited

/-- What happens when a release entry leaves its queue, or when its request is served. -/
inductive Fin where
  | nothing
  | trig
  | launch (r : Rec)
  | fillEnd (full : Bool) (reason : Nat)
  | tbset (i : Nat)
  | dropOperands
  | shootdown (va len : Nat)
  | send (msg : Nat)
deriving DecidableEq, Repr, Inhabited

/-- The range of a fencer (R228): space code, first byte, length. -/
structure Range1 where
  space : Nat
  lo : Nat
  len : Nat
deriving DecidableEq, Repr, Inhabited

/-- What an entry of a queue does (R208). -/
inductive Act where
  | read
  | write
  | atom (op : AtOp) (t : Nat)
  | fence (acq rel : Bool) (range : Option Range1)
  | bar (op : BarOp)
  | cjoin
  | join
  | fin (f : Fin)
  /-- A copy engine's read of device memory for a job (R216); the element's lane is the index of its byte. -/
  | jread (job : Nat)
deriving DecidableEq, Repr, Inhabited

/-- One element of an entry: a lane's bytes (R208), its address as the program names it (`va`, in space code `vs`,
R180), its data, and where its result lands. -/
structure Elem where
  lane : Nat
  loc : Loc
  n : Nat
  vs : Nat
  va : Nat
  data : Word
  data2 : Word
  sink : Sink
deriving DecidableEq, Repr, Inhabited

/-- Where an entry stands: in its pending queue, in a port queue, on the host link (R213), in a write queue (R169), in a
synchronisation engine's serial queue (R195). -/
inductive Stage where
  | pend | port | link | wq | sync
deriving DecidableEq, Repr, Inhabited

/-- An entry of the ordering machine (R208). ins numbers the instruction that issued it; queue (team, who, pid, and hl: the
helper's lane, R219); since and fence: the path's born and fence at issue (R215); cnt: the key of the gather's counter (R175);
poisoned: a lane of its gather has failed (R188); kslot: the bound key slot (R245); party: R189; home: the party charged, a
helper's being its recruiter; user: issued at user level (R236); born: the cycle of issue. -/
structure Entry where
  id : Nat
  ins : Nat
  team : Nat
  who : Who
  pid : Nat
  home : Nat
  cluster : Nat
  stage : Stage
  act : Act
  acq : Bool
  rel : Bool
  scope : Nat
  els : List Elem
  since : Nat
  fence : Nat
  cnt : Option Nat
  poisoned : Bool
  kslot : Nat
  user : Bool
  party : Nat
  flags : Bool
  hl : Option Nat
  born : Nat
deriving DecidableEq, Repr, Inhabited

/-- What kind of reply travels back (GATHER_REPLY, ATOMIC_REPLY, LOAD_REPLY_LAND). -/
inductive ReplyKind where
  | gather | atomic | load
deriving DecidableEq, Repr, Inhabited

/-- A reply on its way to its party: a lane's value, the flags it brings, its fault, the cycle its instruction
issued; way: where its bytes were served, and the die that it travels to (R288). -/
structure Reply where
  id : Nat
  kind : ReplyKind
  ins : Nat
  team : Nat
  who : Who
  pid : Nat
  home : Nat
  lane : Nat
  sink : Sink
  data : Word
  cnt : Option Nat
  poisoned : Bool
  flags : Nat
  addr : Nat
  fault : Option (Nat × Nat)
  acq : Bool
  hl : Option Nat
  born : Nat
  way : Option (Loc × Nat)
deriving DecidableEq, Repr, Inhabited

/-- The completion object of a job (R179). -/
inductive Compl where
  | none
  | barrier (l : Loc) (off : Nat)
  | counter (n : Nat)
deriving DecidableEq, Repr, Inhabited

/-- The pattern record of a `spat` (R183). -/
structure Spat where
  base : Nat
  isp : Nat
  isz : Nat
  idim : Nat
  ind : Bool
  elog : Nat
  space : Nat
  strs : List Int
  cnts : List Nat
  ibase : Nat
deriving DecidableEq, Repr, Inhabited

/-- What a job moves. -/
inductive JobKind where
  | cpy
  | fill (v : Word) (fb : Nat)
  | cpz (clen : Nat)
  | cpx (fa rows stride : Nat)
  | spat (scatter : Bool) (r : Spat)
  /-- An epilogue (R304): tile, scale, activation, output format, bytes of a row, row stride, bias, saturation. -/
  | epi (tile : Nat) (s : BitVec 32) (act out rb stride : Nat) (bias : Option (Nat × Nat)) (satc : Bool)
  /-- A `texw` (R349): the cache cluster, descriptor and key. -/
  | texw (cluster desc key : Nat)
  /-- A `matld` (R351): slot m, layers. -/
  | matld (m layers : Nat)
  /-- A `matev` (R352): slot, rate, per lane (lane, lo, hi, t0, dt), and its table once it is known (R351). -/
  | matev (m rate : Nat) (lanes : List (Nat × Nat × Nat × Nat × Int)) (tab : Option (List (List Word)))
deriving DecidableEq, Repr, Inhabited

/-- A job of a copy engine, the epilogue engine, a texel cache or a material evaluator (R177, R304, R349, R351,
R352). Source and destination are a space code of R180 and an address; size is the destination's bytes. home, pl, f: the
party whose uniform registers its operands lie in, the privilege level and the instruction's fields (R177); born: what its
party issued before this number in other paths comes before it; seq: its place in the order of acceptance. got: source bytes
read so far, by index; landed: index ranges landed; early: older accesses of its party, by number, that its bytes come
after (R178); earlyJobs: its party's earlier jobs. lost: its completion barrier was released while it was outstanding (R189).
guard: its GUARD hit has been recorded; err: the error that ends the job. -/
structure Job where
  id : Nat
  team : Nat
  who : Who
  pid : Nat
  lane : Nat
  die : Nat
  cluster : Nat
  engine : Nat
  user : Bool
  kslot : Nat
  rctx : Nat
  depth : Nat
  kind : JobKind
  dsp : Nat
  dst : Word
  ssp : Nat
  src : Word
  size : Nat
  compl : Compl
  home : Nat
  pl : Nat
  f : Fields
  born : Nat
  accepted : Bool
  acceptedAt : Nat
  seq : Nat
  got : List (Nat × List Byte)
  landed : List (Nat × Nat)
  early : List Nat
  earlyJobs : List Nat
  bound : Option (Nat × Nat)
  lost : Bool
  guard : Bool
  err : Option (Nat × Nat × Word)
deriving DecidableEq, Repr, Inhabited

/-- A bound barrier word (R137): its location, object number, the team it belongs to (team scope) or its context
(die scope). -/
structure Bar where
  loc : Loc
  obj : Nat
  team : Nat
  rctx : Nat
deriving DecidableEq, Repr, Inhabited

/-- A die-pool allocation (R133). base: the data base; size: data bytes; live: not yet freed (a freed region keeps
its granules until its transfers drain, R134); freedAt: the number given out last before the `pfree`. -/
structure Alloc where
  die : Nat
  base : Nat
  size : Nat
  rctx : Nat
  live : Bool
  freedAt : Nat
deriving DecidableEq, Repr, Inhabited

/-- A translation held by an engine's cache (R232). -/
structure Tlb where
  eng : EngineId
  rctx : Nat
  va : Nat
  log : Nat
  leaf : Word
deriving DecidableEq, Repr, Inhabited

/-- A translation that the host returned under ATS, cached as one translation (R238). -/
structure Atc where
  rctx : Nat
  va : Nat
  log : Nat
  addr : Nat
  write : Bool
deriving DecidableEq, Repr, Inhabited

/-- An ATS translation request, or a page request (pri), outstanding at the host for a 4 KiB page number; failed: the
host refused it (R238). -/
structure AtsReq where
  rctx : Nat
  page : Nat
  pri : Bool
  failed : Bool
deriving DecidableEq, Repr, Inhabited

/-- The tier map's record of a tier page (R160, R246): rctx: the context whose step counter its N is measured by;
fast: resident in the fast tier. -/
structure Page where
  pg : Nat
  rctx : Option Nat
  pri : Nat
  n : Nat
  pin : Option Nat
  owner : Option Nat
  fast : Bool
deriving DecidableEq, Repr, Inhabited

/-- A pending or running tier move of a stack (R163): promote page, demote page. -/
structure TierMove where
  stk : Nat
  pg : Nat
  promote : Bool
  asked : Bool
  running : Bool
  victim : Option Nat
deriving DecidableEq, Repr, Inhabited

/-- A tile at rest (R247, R248): its minor counter, the slot whose key sealed it, its ciphertext and its tag. -/
structure Tile where
  tile : Nat
  minor : Nat
  slot : Nat
  cipher : List Byte
  tag : BitVec 128
  quarantined : Bool
deriving DecidableEq, Repr, Inhabited

/-- A tile in a memory-side cache (R246): the slot under which it was filled. -/
structure Cached where
  tile : Nat
  slot : Nat
  dirty : Bool
deriving DecidableEq, Repr, Inhabited

/-- A seal group's major counter (R248) and the tag of its counter block (R249). While it is re-sealed, requests to it wait
(R250): resealing is the tile and slot whose write-back caused that, renewing says that tiles made virgin did (R248). -/
structure SealGroup where
  grp : Nat
  major : Word
  tag : BitVec 128
  resealing : Option (Nat × Nat)
  renewing : Bool
deriving DecidableEq, Repr, Inhabited

/-- A node of the integrity tree at level 1 or 2 (R249): its number over the device, its counters and its tag; renewing: its
children are being re-sealed, since one of its minor counters has overflowed, and requests below it wait (R249, R250). -/
structure TreeNode where
  level : Nat
  idx : Nat
  major : Word
  minors : List Nat
  tag : BitVec 128
  renewing : Bool
deriving DecidableEq, Repr, Inhabited

/-- A root counter of the integrity tree (R249), and the level-2 node that it covers. -/
structure TreeRoot where
  idx : Nat
  count : Word
deriving DecidableEq, Repr, Inhabited

/-- A procedural range (R256). -/
structure PRange where
  num : Nat
  base : Nat
  lim : Nat
  blog : Nat
  nblk : Nat
  ghdr : Word
  arg : Word
  fsa : Word
deriving DecidableEq, Repr, Inhabited

/-- What waits on a block (R206): a path, a job, or a shading continuation whose descriptor lies there (R342). -/
inductive Waiter where
  | path (p : PathId)
  | job (id : Nat)
  | cont (id : Nat)
deriving DecidableEq, Repr, Inhabited

/-- A waiter record (R206). die: the engine that holds it; sram: in its SRAM or in its range's overflow, and slot, its number
there; kind: KIND. -/
structure WaitRec where
  die : Nat
  sram : Bool
  slot : Nat
  kind : Nat
  rctx : Nat
  range : Nat
  block : Nat
  who : Waiter
  depth : Nat
  failed : Option (Nat × Nat)
deriving DecidableEq, Repr, Inhabited

/-- A generator or shading continuation (R262, R344). team: the team it started. -/
inductive ContKind where
  | fill (range block depth : Nat)
  | shade (cluster desc key : Nat)
deriving DecidableEq, Repr, Inhabited

/-- A continuation in the reserved level of a die's distributor. -/
structure Cont where
  id : Nat
  rctx : Nat
  die : Nat
  kind : ContKind
  hdr : Word
  arg : Word
  team : Option Nat
deriving DecidableEq, Repr, Inhabited

/-- A recruitment's reduction contribution (R277). -/
structure Contrib where
  iter : Nat
  slot : Nat
  op : Nat
  t : Nat
  val : BitVec 32
  flags : Nat
deriving DecidableEq, Repr, Inhabited

/-- A helper lane: the group that hosts it, its path and lane, the iteration it holds. -/
structure HelperLane where
  group : Nat
  pid : Nat
  lane : Nat
  iter : Option Nat
deriving DecidableEq, Repr, Inhabited

/-- A recruitment (R273 to R277). ops: per slot the operation and type fixed by its first committed contribution.
suspended: its path in the recruiter's group is a pending arm (R102); trapped: helper 0's trap is being handled (R283);
hk: that path's mask registers in either case; freed: lanes taken back whose iterations have still to be handed out again
(R219). -/
structure Recruit where
  id : Nat
  team : Nat
  group : Nat
  lane : Nat
  pid : Nat
  act : Word
  fmt : Word
  entry : Word
  lo : Nat
  hi : Nat
  next : Nat
  returned : List Nat
  committed : List Nat
  aborted : List Nat
  lanes : List HelperLane
  pending : List Contrib
  contribs : List Contrib
  ops : List (Nat × Nat × Nat)
  fault : Option (Nat × Nat × Nat × Word)
  hk : List Word
  suspended : Bool
  trapped : Bool
  freed : List HelperLane
deriving DecidableEq, Repr, Inhabited

/-- A registered ring (R289). -/
structure Ring where
  team : Nat
  r : Nat
  die : Nat
  loc : Loc
  log : Nat
  port : Nat
  domain : Nat
deriving DecidableEq, Repr, Inhabited

/-- A ring message (R290, R291): sent is false until a releasing send's release has left (R293); held: it lies in the inbox of
the ring's die; stored: its bytes lie in their entry, and TAIL has still to advance; dead: its ring was dropped while it was
held (R292); cluster: its source (R288). -/
structure Msg where
  id : Nat
  team : Nat
  who : Who
  lane : Nat
  domain : Nat
  dst : Word
  die : Nat
  cluster : Nat
  bytes : List Byte
  sent : Bool
  held : Bool
  stored : Bool
  dead : Bool
deriving DecidableEq, Repr, Inhabited

/-- State of a matrix tile (R298). -/
inductive TileState where
  | opened | draining | closing
deriving DecidableEq, Repr, Inhabited

/-- An open matrix tile: 4,096 elements, row by row (R298). -/
structure MTile where
  uid : Nat
  team : Nat
  num : Nat
  engine : Nat
  st : TileState
  int : Bool
  status : Nat
  fillv : BitVec 32
  els : List (BitVec 32)
deriving DecidableEq, Repr, Inhabited

/-- What a reservation-table entry runs (R303, R317). A: its operand A with its scales, B: as A; addresses are a space
code and an offset. -/
inductive PassKind where
  | mmx (tile : Nat) (tri : Bool) (doff : Int) (imm : BitVec 32) (bstr : Nat) (a b : Nat × Nat)
      (sa sb : Option (Nat × Nat))
  /-- rows: per executing lane (lane, row address, initial value). -/
  | vxm (rows : List (Nat × (Nat × Nat) × BitVec 32)) (vec : List (BitVec 32)) (sinks : List Sink)
deriving DecidableEq, Repr, Inhabited

/-- Bytes that a pass reads, in one piece: where they lie, how many, of which operand (0 A, 1 B, 2 and 3 their scales; the
rows of a `vxm`), and the first one's place in it. -/
structure PSpan where
  loc : Loc
  n : Nat
  op : Nat
  off : Nat
deriving DecidableEq, Repr, Inhabited

/-- A reservation-table entry (R297): formats, the bytes it reads (R301), whose lines are pinned until its last read of
them (R126), the operands as read (until the grant its lines, as read at acceptance, R217; none yet of an absent line), its
cycles and the unit-cycles received (R308). -/
structure Pass where
  id : Nat
  engine : Nat
  team : Nat
  who : Who
  pid : Nat
  prio : Nat
  acceptedAt : Nat
  granted : Bool
  fa : Nat
  fb : Nat
  kind : PassKind
  spans : List PSpan
  cycles : Nat
  got : Nat
  ops : List (List Byte)
deriving DecidableEq, Repr, Inhabited

/-- A value that a scratchpad byte held until a store wrote over it, when the number at_ was the next to be given out: an operand
buffer may still hold it (R217, R302). -/
structure OldByte where
  loc : Loc
  byte : Byte
  at_ : Nat
deriving DecidableEq, Repr, Inhabited

/-- A die's slew limiter (R306, R307). held: units of the 16 engines; stepAt: when the last step of the run began;
spare: per engine, unit-cycles left over by a pass that ended in a cycle (cluster, cycle, units); filler: cycles of filler
per engine since its last pass ended (R308, R401). -/
structure Slew where
  step : Nat
  rise : Nat
  fall : Nat
  cap : Nat
  held : List Nat
  pendingFall : Option Nat
  running : Bool
  stepAt : Nat
  spare : List (Nat × Nat × Nat)
  filler : List Nat
deriving DecidableEq, Repr, Inhabited

/-- A vertex of a primitive record (R325). -/
structure Vertex where
  x : Int
  y : Int
  d : Int
  z : BitVec 32
deriving DecidableEq, Repr, Inhabited

/-- A primitive of a stream: its record, sequence number, and the dies that have still to sweep it, with the
tiles each has emitted so far (R327, R328). -/
structure Prim where
  seq : Nat
  vs : List Vertex
  cull : Nat
  pid : BitVec 32
  dies : List (Nat × Nat)
deriving DecidableEq, Repr, Inhabited

/-- A raster stream (R326): panel, submitter, the end marker's sequence place, the dies that have still to pass it. -/
structure Stream where
  id : Nat
  rctx : Nat
  num : Nat
  team : Nat
  die : Nat
  w : Nat
  h : Nat
  nv : Nat
  fbo : Nat
  vbo : Nat
  nextSeq : Nat
  prims : List Prim
  closing : Bool
  markerDies : List Nat
deriving DecidableEq, Repr, Inhabited

/-- A consumer binding of a stream number on a die (R326). -/
structure Binding where
  rctx : Nat
  num : Nat
  die : Nat
  team : Nat
deriving DecidableEq, Repr, Inhabited

/-- Where a raster tile stands (R328, R329). -/
inductive RTileState where
  | queued | held | retired
deriving DecidableEq, Repr, Inhabited

/-- A tile of a primitive (R328), or a stream's end marker in a tile queue. -/
structure RTile where
  id : Nat
  stream : Nat
  rctx : Nat
  num : Nat
  die : Nat
  seq : Nat
  tx : Nat
  ty : Nat
  b : Nat
  marker : Bool
  vs : List Vertex
  cull : Nat
  pid : BitVec 32
  w : Nat
  h : Nat
  nv : Nat
  fbo : Nat
  vbo : Nat
  state : RTileState
deriving DecidableEq, Repr, Inhabited

/-- A `zview`, `rop.w` or `rop.rel` handed to a raster output (R338): lanes (lane, pixel, mask, colour, sink). -/
inductive ROp where
  | zview (op : Nat) (w : Bool)
  | ropw
  | rel (word : Loc) (off : Nat) (lane : Nat)
deriving DecidableEq, Repr, Inhabited

/-- A raster-output entry. -/
structure REntry where
  id : Nat
  die : Nat
  team : Nat
  who : Who
  pid : Nat
  tile : Nat
  op : ROp
  lanes : List (Nat × Nat × Word × BitVec 32 × Sink)
  waits : List Nat
deriving DecidableEq, Repr, Inhabited

/-- A block of a texel shading cache (R343), the least recently used first. bytes is none while PENDING. -/
structure TexBlock where
  cluster : Nat
  rctx : Nat
  desc : Nat
  key : Nat
  cont : Nat
  bytes : Option (List Byte)
deriving DecidableEq, Repr, Inhabited

/-- A material slot that is not empty (R351): layers of 256 texels, none while its load is in the queue; load: the job
that was accepted last. -/
structure Material where
  cluster : Nat
  m : Nat
  rctx : Nat
  load : Nat
  layers : Option (List (List Word))
deriving DecidableEq, Repr, Inhabited

/-- A monitor unit (R401). sampled: the 256-cycle period it was last sampled in. -/
structure Monitor where
  die : Nat
  m : Nat
  rctx : Option Nat
  cfg : Word
  count : Nat
  min : Nat
  max : Nat
  bins : List Nat
  sampled : Nat
deriving DecidableEq, Repr, Inhabited

/-- A resident context (R393), its step counter (R161), first-touch pool, tile buffers (R358) with the records whose outputs the
RESERVED ones are (R360), ranges, doorbells and queue of records. -/
structure Ctx where
  rctx : Nat
  root : Nat
  handler : Word
  subBase : Nat
  cplBase : Nat
  pasid : Nat
  kslot : Nat
  domain : Nat
  ringLog : Nat
  tbn : Nat
  nseg : Nat
  qdepth : Nat
  gsz : Nat
  dpQuota : Nat
  barQuota : Nat
  pinQuota : Nat
  mons : Word
  segbase : Word
  savebase : Nat
  desc : List Word
  stepc : Nat
  pool : List (Nat × Nat)
  tbs : List (Nat × Nat)
  tbOwn : List (Nat × Nat)
  ranges : List PRange
  subDoor : BitVec 32
  cplDoor : BitVec 32
  taken : BitVec 32
  recs : List Rec
deriving DecidableEq, Repr, Inhabited

/-- A gated core of a die: clock-gated, or power-gated as well (R155). -/
structure Gate where
  die : Nat
  core : Nat
  power : Bool
deriving DecidableEq, Repr, Inhabited

/-- What the device tells the host: hangs (R156; num: a barrier's object number), host-serviced traps with the frame of a
double trap (R379), integrity events (R251, R252), breaks not applied (R157), raster-link errors (R327), and the answers to
CXL requests: memory errors (R396), read data, snoops (R389). -/
inductive Report where
  | hang (rctx die core slot : Nat) (who : Who) (head : Word) (kind : Nat) (obj : Word) (num : Nat)
  | service (rctx die core slot team : Nat) (s : Service) (frame : List Word)
  | integrity (tile : Nat)
  | breakNotApplied (team : Nat) (who : Who)
  | rasterLink (link : LinkId) (rctx : Nat)
  | cxlError (addr : Nat)
  | cxlData (addr : Nat) (bytes : List Byte)
  | snoop (line : Nat) (hit : Bool)
deriving DecidableEq, Repr, Inhabited

/-- The mailbox (R392): arguments, buffer address, the command that runs, whether it has done its work, and what it will answer. -/
structure Mailbox where
  args : List Word
  buf : Word
  busy : Option Nat
  ran : Bool
  pendStatus : Nat
  pendResult : Word
  status : Nat
  result : Word
deriving DecidableEq, Repr, Inhabited

/-- The host window's registers and the device-wide host state (R390 to R401). routes: 64 doublewords; linkMap: (die,
destination, port) entries that differ from the default; meas: the 16 measurement registers; kslots: loaded key slots
and the key in use; recArea: bytes of each die's record area, and recNext of the next bring-up's (R193); units: per die, the
cores of its reserve units (R263); hdm: the 16 HDM decoders, each a first address, bytes and a key slot (R389); boots: how
often power has become good. -/
structure HostRegs where
  stage : Nat
  pstate : Nat
  devrdy : Bool
  faild : BitVec 8
  failx : Word
  quantum : Nat
  clockGate : Nat
  powerGate : Nat
  hangWarn : Nat
  hangReport : Nat
  scrub : Nat
  nres : Nat
  nresNow : Nat
  fvalid : Bool
  devid : BitVec 20
  linkup : BitVec 8
  routes : List Word
  linkMap : List (Nat × Nat × Nat)
  mailbox : Mailbox
  meas : List (List Byte)
  kslots : List (Nat × BitVec 256)
  msix : List Nat
  reports : List Report
  recArea : Nat
  recNext : Nat
  units : List (List Nat)
  hdm : List (Nat × Nat × Nat)
  boots : Nat
  hostLines : List Nat
  copies : List Nat
  unsealed : List Nat
deriving DecidableEq, Repr, Inhabited

/-- A migration of a page (R243): the page's address, log2 of its size, the leaf's entry, the old and the new run, and
where the result lands. -/
structure Migr where
  id : Nat
  team : Nat
  who : Who
  pid : Nat
  home : Nat
  sink : Sink
  rctx : Nat
  va : Nat
  log : Nat
  leaf : Word
  old : Nat
  new : Nat
deriving DecidableEq, Repr, Inhabited

/-- A move of the schedule: a party issues its next instruction (`back`: it fetches the bytes of so many versions of device
memory ago, R226), or a step that no instruction word names. dt: the cycles that pass. -/
inductive Move where
  | issue (p : PathId) (back : Nat) (dt : Nat)
  | event (i : Instr) (dt : Nat)
deriving DecidableEq, Repr

/-- Whose turn it was at a slot (0 to 3) of a core, or at its bobbin sequencers (4): the place of the party that issued
last (R33, R35). -/
structure SlotTurn where
  die : Nat
  core : Nat
  slot : Nat
  last : Nat
deriving DecidableEq, Repr, Inhabited

/-- When a core last issued, or was woken (R155). -/
structure CoreStamp where
  die : Nat
  core : Nat
  at_ : Nat
deriving DecidableEq, Repr, Inhabited

/-- An earlier version of the memories that code is fetched from: the device's, the host's, other devices' (R226). -/
structure Past where
  ver : Nat
  dm : Memory
  hm : Memory
  rm : Memory
deriving DecidableEq, Repr

/-- Everything but bytes and registers. cyc: CYC (R64). free: how many free values have been drawn (the model's own,
assumption 2). nextId numbers entries, jobs, messages and so on (the model's own). agenda: the schedule (the model's
own, assumption 3). held: paths whose last attempt to issue ended in a wait, since their slot last issued (R33, R100). ver and past: how often device memory has changed, and its versions since the resident teams started
(R226). tree and roots: what of the integrity tree has changed since bring-up (R249). vars: the lines that the synchronisation engines
hold, with their contexts, the one served least recently first (R192). turns: per die, the context that claimed last (R362). -/
structure Ctl where
  cyc : Nat
  free : Nat
  nextId : Nat
  nextUid : Nat
  agenda : List Move
  cur : Option Cur
  held : List PathId
  teams : List Team
  ctxs : List Ctx
  entries : List Entry
  replies : List Reply
  jobs : List Job
  bars : List Bar
  allocs : List Alloc
  tlbs : List Tlb
  ver : Nat
  past : List Past
  ats : List AtsReq
  atc : List Atc
  migrs : List Migr
  pages : List Page
  moves : List TierMove
  tiles : List Tile
  cached : List Cached
  groups : List SealGroup
  tree : List TreeNode
  roots : List TreeRoot
  vars : List (Nat × Nat)
  waits : List WaitRec
  conts : List Cont
  recruits : List Recruit
  rings : List Ring
  msgs : List Msg
  mtiles : List MTile
  passes : List Pass
  olds : List OldByte
  slews : List Slew
  streams : List Stream
  binds : List Binding
  rtiles : List RTile
  rents : List REntry
  tex : List TexBlock
  mats : List Material
  mons : List Monitor
  gates : List Gate
  turns : List (Nat × Nat)
  slotTurns : List SlotTurn
  stamps : List CoreStamp
  retrain : List LinkId
  host : HostRegs
deriving DecidableEq, Repr

/-- The whole machine. v, vi: lane and view-interval registers; w: uniform registers, both banks; k: mask registers;
a: arrival counters; csr: gst, tvec, tfa, spb, spl, ctx and prio (fmt is held per path, R101). The keys of the
register stores are those of Machine/Access.lean. -/
structure State where
  dm : Memory
  dp : Memory
  tm : Memory
  hm : Memory
  rm : Memory
  v : Sparse 32
  vi : Sparse 32
  a : Sparse 32
  w : Sparse 64
  k : Sparse 64
  csr : Sparse 64
  ctl : Ctl
deriving DecidableEq, Repr

/-- Why the machine stops. -/
inductive Fault where
  /-- An instruction is executed though no party is executing one. Raised by every instruction's meaning when `exec`
  is asked to run it in a state whose `cur` is empty; no step of the machine does this. Safe. -/
  | noParty
deriving DecidableEq, Repr

/-- Why an instruction has no meaning. -/
inductive Refusal where
  /-- The instruction has not been given its meaning yet. Raised by `exec`'s arm of that name. Safe. -/
  | notModelled (mnemonic : String)
deriving DecidableEq, Repr

/-- The default ramp table with no units held (R306). -/
def Slew.init : Slew :=
  { step := 4, rise := 2, fall := 4, cap := 256, held := List.replicate 16 0, pendingFall := none, running := false,
    stepAt := 0, spare := [], filler := List.replicate 16 0 }

/-- The host window at power-good (R391, R395, R398, R253). -/
def HostRegs.init : HostRegs :=
  { stage := 1, pstate := 3, devrdy := false, faild := 0, failx := 0, quantum := 250, clockGate := 4,
    powerGate := 200, hangWarn := 1000, hangReport := 8000, scrub := 24, nres := 8, nresNow := 8, fvalid := false,
    devid := 0, linkup := 0xFF, routes := List.replicate 64 0, linkMap := [],
    mailbox := { args := [0, 0, 0, 0], buf := 0, busy := none, ran := false, pendStatus := 0, pendResult := 0, status := 0,
                 result := 0 },
    meas := List.replicate 16 (List.replicate 64 0), kslots := [], msix := [], reports := [], recArea := 0x20000000,
    recNext := 0x20000000, units := [], hdm := List.replicate 16 (0, 0, 0), boots := 0, hostLines := [], copies := [], unsealed := [] }

/-- Control state at power-good: nothing resident. -/
def Ctl.init : Ctl :=
  { cyc := 0, free := 0, nextId := 0, nextUid := 0, agenda := [], cur := none, held := [], teams := [], ctxs := [],
    entries := [], replies := [], jobs := [], bars := [], allocs := [], tlbs := [], ver := 0, past := [], ats := [], atc := [], migrs := [],
    pages := [], moves := [], tiles := [], cached := [], groups := [], tree := [], roots := [], vars := [], waits := [], conts := [], recruits := [],
    rings := [], msgs := [], mtiles := [], passes := [], olds := [], slews := List.replicate 8 Slew.init,
    streams := [], binds := [], rtiles := [], rents := [], tex := [], mats := [], mons := [], gates := [], turns := [],
    slotTurns := [], stamps := [],
    retrain := [], host := HostRegs.init }

/-- The machine right after reset: power has become good and bring-up is at stage 1 (R399). -/
def State.reset : State :=
  { dm := Sparse.empty, dp := Sparse.empty, tm := Sparse.empty, hm := Sparse.empty, rm := Sparse.empty,
    v := Sparse.empty, vi := Sparse.empty, a := Sparse.empty, w := Sparse.empty, k := Sparse.empty,
    csr := Sparse.empty, ctl := Ctl.init }

end Sys2Proof.Machine
end

