-- ==== Sys2Proof/Machine/Bits.lean ====
section
/-! DEFINITION. Bit fields, sign extension, lane sets, byte order and PC arithmetic. -/

namespace Sys2Proof.Machine

/-- Bits [hi:lo] of a number. -/
def fld (x hi lo : Nat) : Nat := x / 2 ^ lo % 2 ^ (hi + 1 - lo)

/-- Bits [hi:lo] of a word. -/
def wfld (x : Word) (hi lo : Nat) : Nat := fld x.toNat hi lo

/-- Bit i of a number. -/
def bitOf (x i : Nat) : Bool := x / 2 ^ i % 2 == 1

/-- The w low bits of x read as a two's-complement number. -/
def sextNat (w x : Nat) : Int :=
  let y := x % 2 ^ w
  if w = 0 then 0 else if y < 2 ^ (w - 1) then (y : Int) else (y : Int) - (2 ^ w : Nat)

/-- x mod 2^w, as a number. -/
def wrapInt (w : Nat) (x : Int) : Nat := (x % ((2 ^ w : Nat) : Int)).toNat

/-- A word from a number, mod 2^64. -/
def wd (x : Nat) : Word := BitVec.ofNat 64 x

/-- All ones: what several instructions write for "none". -/
def allOnes : Word := BitVec.allOnes 64

/-- The set of the GW lowest lanes (N53). -/
def gwMask (gw : Nat) : Word := wd (2 ^ gw - 1)

/-- The lanes of m below gw, ascending (N54). -/
def lanesOf (m : Word) (gw : Nat) : List Nat := (List.range gw).filter (fun l => m.getLsbD l)

/-- The word with exactly these bits set. -/
def maskOf (ls : List Nat) : Word := ls.foldl (fun m l => m ||| wd (2 ^ l)) 0

/-- The number of set bits. -/
def popc (m : Word) : Nat := (lanesOf m 64).length

/-- The lowest set bit, if any. -/
def lowest (m : Word) : Option Nat := (lanesOf m 64).head?

/-- A PC at offset 28 of its 32-byte block is advanced to the next block (R39). -/
def advPc (pc : Word) : Word := if pc.toNat % 32 = 28 then pc + 4 else pc

/-- The address after an instruction of len bytes, advanced under R39. -/
def nextPc (pc : Word) (len : Nat) : Word := advPc (pc + wd len)

/-- n bytes of a word, lowest address first (R5). -/
def bytesOf (x n : Nat) : List Byte := (List.range n).map (fun i => BitVec.ofNat 8 (x / 256 ^ i))

/-- The number that bytes stand for, lowest address first. -/
def ofBytes : List Byte → Nat
  | [] => 0
  | b :: r => b.toNat + 256 * ofBytes r

/-- x reduced by the smallest and largest value. -/
def clampInt (x lo hi : Int) : Int := if x < lo then lo else if hi < x then hi else x

/-- Round x up to a multiple of m. -/
def roundUp (x m : Nat) : Nat := (x + m - 1) / m * m

/-- The integer logarithm: the position of the highest set bit; 0 for 0. -/
def ilog2 (x : Nat) : Nat := Nat.log2 x

/-- The positions of the set bits in the lowest n of x. -/
def bitsIn (x n : Nat) : List Nat := (List.range n).filter (bitOf x)

/-- The first n elements of a list, padded. -/
def padTo {α : Type} (n : Nat) (d : α) (l : List α) : List α := (l ++ List.replicate n d).take n

/-- Replace element i of a list. -/
def setAt {α : Type} (l : List α) (i : Nat) (x : α) : List α := l.set i x

/-- Insert x into a sorted list, after the elements it does not precede. -/
def insertBy {α : Type} (lt : α → α → Bool) (x : α) : List α → List α
  | [] => [x]
  | y :: r => if lt x y then x :: y :: r else y :: insertBy lt x r

/-- A list sorted by an order, equal elements in their old order. -/
def sortBy {α : Type} (lt : α → α → Bool) (l : List α) : List α := l.foldl (fun a x => insertBy lt x a) []

/-- Whether two byte intervals share a byte. -/
def overlap (a n b m : Nat) : Bool := decide (0 < n) && decide (0 < m) && decide (a < b + m) && decide (b < a + n)

/-- Whether [a, a+n) contains [b, b+m). -/
def covers (a n b m : Nat) : Bool := decide (a ≤ b) && decide (b + m ≤ a + n)

/-- Whether two locations of n and m bytes share a byte. -/
def Loc.touches (x : Loc) (n : Nat) (y : Loc) (m : Nat) : Bool := x.sp == y.sp && overlap x.key n y.key m

/-- Byte i of a location. -/
def Loc.plus (l : Loc) (i : Nat) : Loc := { l with key := l.key + i }

/-- Whether an operand code is uniform: no lane register, no latch (R44), and not `laneid`. -/
def uniformCode (c : Nat) : Bool := decide (256 ≤ c) && !(decide (320 ≤ c) && decide (c < 324)) && c != 325

end Sys2Proof.Machine

namespace Sys2Proof

/-- The party index of a group or the bobbin in the register stores; helper banks of group g are party 64 + g. -/
def Who.idx : Who → Nat
  | .group g => g
  | .bobbin => 63

/-- The immediate of a 96-bit form, else zero: IMM32 zero-extended. -/
def Fields.imm32 (f : Fields) : Word :=
  match f.long with
  | .imm32 x => BitVec.ofNat 64 x.toNat
  | _ => 0

/-- The upper 64 bits of a 128-bit form, else zero. -/
def Fields.ext64 (f : Fields) : Word :=
  match f.long with
  | .ext x => x
  | _ => 0

/-- LEN of the form. -/
def Fields.lenCode (f : Fields) : Nat :=
  match f.long with
  | .none => 0
  | .imm32 _ => 1
  | .ext _ => 2

/-- The fields of the second operand block (R42); without one, SD and SE are unused. -/
def Fields.sd (f : Fields) : Nat := if f.lenCode = 2 then Machine.wfld f.ext64 8 0 else 324
/-- SE (R42). -/
def Fields.se (f : Fields) : Nat := if f.lenCode = 2 then Machine.wfld f.ext64 17 9 else 324
/-- DST2 (R42). -/
def Fields.dst2 (f : Fields) : Nat := Machine.wfld f.ext64 26 18
/-- XMOD (R42). -/
def Fields.xmod (f : Fields) : Nat := Machine.wfld f.ext64 31 27
/-- IMM32B (R42). -/
def Fields.imm32b (f : Fields) : Nat := Machine.wfld f.ext64 63 32

end Sys2Proof
end

