-- ==== Sys2Proof/Machine/Opcodes.lean ====
section
/-! DEFINITION. The opcode map (R48): each instruction's major and minor opcode, the instruction an opcode names, and
which instructions are last-only. -/

namespace Sys2Proof

/-- The fields of an instruction word; none for a step that no instruction word names. -/
def Instr.fields : Instr → Option Fields
  | .nop f => some f
  | .bra f => some f
  | .split f => some f
  | .join f => some f
  | .brk f => some f
  | .call f => some f
  | .ret f => some f
  | .exit f => some f
  | .setdmr f => some f
  | .callv f => some f
  | .callvU f => some f
  | .spush f => some f
  | .spop f => some f
  | .add f => some f
  | .sub f => some f
  | .mul f => some f
  | .mulhi f => some f
  | .mad f => some f
  | .min f => some f
  | .max f => some f
  | .abs f => some f
  | .neg f => some f
  | .and f => some f
  | .or f => some f
  | .xor f => some f
  | .not f => some f
  | .sel f => some f
  | .mov f => some f
  | .ldi f => some f
  | .iota f => some f
  | .shl f => some f
  | .shr f => some f
  | .sra f => some f
  | .rot f => some f
  | .bfe f => some f
  | .bfi f => some f
  | .popc f => some f
  | .clz f => some f
  | .ctz f => some f
  | .brev f => some f
  | .fadd f => some f
  | .fsub f => some f
  | .fmul f => some f
  | .fma f => some f
  | .fmin f => some f
  | .fmax f => some f
  | .frnd f => some f
  | .fclass f => some f
  | .fcmp f => some f
  | .fdiv f => some f
  | .fsqrt f => some f
  | .frcp f => some f
  | .frsq f => some f
  | .fex2 f => some f
  | .flg2 f => some f
  | .fsin f => some f
  | .fcos f => some f
  | .cvt f => some f
  | .cvtNarrow f => some f
  | .mxpk f => some f
  | .mxunpk f => some f
  | .vdot f => some f
  | .getfmt f => some f
  | .setfmt f => some f
  | .shuf f => some f
  | .lrot f => some f
  | .bcast f => some f
  | .scan f => some f
  | .redw f => some f
  | .sortk f => some f
  | .ballot f => some f
  | .kand f => some f
  | .kor f => some f
  | .kxor f => some f
  | .kandn f => some f
  | .knot f => some f
  | .kpop f => some f
  | .kfirst f => some f
  | .kmov f => some f
  | .cmp f => some f
  | .csrr f => some f
  | .clk f => some f
  | .csrw f => some f
  | .rgeti f => some f
  | .rseti f => some f
  | .lds f => some f
  | .sts f => some f
  | .tmprobe f => some f
  | .ldp f => some f
  | .stp f => some f
  | .palloc f => some f
  | .pfree f => some f
  | .barinit f => some f
  | .arrive f => some f
  | .arrivex f => some f
  | .wait f => some f
  | .waitc f => some f
  | .tryw f => some f
  | .phase f => some f
  | .barinv f => some f
  | .trywC f => some f
  | .ldg f => some f
  | .stg f => some f
  | .cpy f => some f
  | .spat f => some f
  | .cpz f => some f
  | .cpfill f => some f
  | .cpx f => some f
  | .atqPush f => some f
  | .atqPop f => some f
  | .fence f => some f
  | .fencer f => some f
  | .trig f => some f
  | .hint f => some f
  | .step f => some f
  | .evict f => some f
  | .pin f => some f
  | .pmap f => some f
  | .tlbinv f => some f
  | .tprobe f => some f
  | .migr f => some f
  | .pfillDone f => some f
  | .pfillFail f => some f
  | .pstate f => some f
  | .preset f => some f
  | .recruit f => some f
  | .hget f => some f
  | .hnext f => some f
  | .hred f => some f
  | .hjoin f => some f
  | .hquit f => some f
  | .msend f => some f
  | .mwait f => some f
  | .mack f => some f
  | .mackReg f => some f
  | .mackDrop f => some f
  | .mmx f => some f
  | .mringOpen f => some f
  | .mringClose f => some f
  | .epi f => some f
  | .mfenceOp f => some f
  | .mprio f => some f
  | .mstat f => some f
  | .vxm f => some f
  | .primOpen f => some f
  | .prim f => some f
  | .primClose f => some f
  | .ptileBind f => some f
  | .ptile f => some f
  | .ptileDone f => some f
  | .edge f => some f
  | .edgev f => some f
  | .vmask f => some f
  | .vimov f => some f
  | .zview f => some f
  | .ropW f => some f
  | .ropRel f => some f
  | .texq f => some f
  | .texqInv f => some f
  | .texw f => some f
  | .texs f => some f
  | .matev f => some f
  | .matld f => some f
  | .vrate f => some f
  | .launch f => some f
  | .cjoin f => some f
  | .tbset f => some f
  | .tbclr f => some f
  | .yield f => some f
  | .morePut f => some f
  | .moreGet f => some f
  | .trap f => some f
  | .tret f => some f
  | .brkpt f => some f
  | .rdtf f => some f
  | .wrtf f => some f
  | .sfence f => some f
  | .monset f => some f
  | .rdmon f => some f
  | .atms _ f => some f
  | .atg _ f => some f
  | .redg _ f => some f
  | _ => none

/-- Major and minor opcode (R48 and the chapters it names); (64, 0) for a step that no instruction word names. The
minor of an atomic is its operation (R130, R196). -/
def Instr.opcode : Instr → Nat × Nat
  | .nop _ => (0x00, 0x00)
  | .bra _ => (0x00, 0x01)
  | .split _ => (0x00, 0x02)
  | .join _ => (0x00, 0x03)
  | .brk _ => (0x00, 0x04)
  | .call _ => (0x00, 0x05)
  | .ret _ => (0x00, 0x06)
  | .exit _ => (0x00, 0x07)
  | .setdmr _ => (0x00, 0x08)
  | .callv _ => (0x01, 0x00)
  | .callvU _ => (0x01, 0x01)
  | .spush _ => (0x27, 0x00)
  | .spop _ => (0x27, 0x01)
  | .add _ => (0x02, 0x00)
  | .sub _ => (0x02, 0x01)
  | .mul _ => (0x02, 0x02)
  | .mulhi _ => (0x02, 0x03)
  | .mad _ => (0x02, 0x04)
  | .min _ => (0x02, 0x05)
  | .max _ => (0x02, 0x06)
  | .abs _ => (0x02, 0x07)
  | .neg _ => (0x02, 0x08)
  | .and _ => (0x03, 0x00)
  | .or _ => (0x03, 0x01)
  | .xor _ => (0x03, 0x02)
  | .not _ => (0x03, 0x03)
  | .sel _ => (0x03, 0x04)
  | .mov _ => (0x03, 0x05)
  | .ldi _ => (0x03, 0x06)
  | .iota _ => (0x03, 0x07)
  | .shl _ => (0x04, 0x00)
  | .shr _ => (0x04, 0x01)
  | .sra _ => (0x04, 0x02)
  | .rot _ => (0x04, 0x03)
  | .bfe _ => (0x04, 0x04)
  | .bfi _ => (0x04, 0x05)
  | .popc _ => (0x05, 0x00)
  | .clz _ => (0x05, 0x01)
  | .ctz _ => (0x05, 0x02)
  | .brev _ => (0x05, 0x03)
  | .fadd _ => (0x06, 0x00)
  | .fsub _ => (0x06, 0x01)
  | .fmul _ => (0x06, 0x02)
  | .fma _ => (0x06, 0x03)
  | .fmin _ => (0x07, 0x00)
  | .fmax _ => (0x07, 0x01)
  | .frnd _ => (0x08, 0x00)
  | .fclass _ => (0x08, 0x01)
  | .fcmp _ => (0x09, 0x00)
  | .fdiv _ => (0x0A, 0x00)
  | .fsqrt _ => (0x0A, 0x01)
  | .frcp _ => (0x0A, 0x02)
  | .frsq _ => (0x0A, 0x03)
  | .fex2 _ => (0x0A, 0x04)
  | .flg2 _ => (0x0A, 0x05)
  | .fsin _ => (0x0A, 0x06)
  | .fcos _ => (0x0A, 0x07)
  | .cvt _ => (0x0B, 0x00)
  | .cvtNarrow _ => (0x0B, 0x01)
  | .mxpk _ => (0x0B, 0x02)
  | .mxunpk _ => (0x0B, 0x03)
  | .vdot _ => (0x0B, 0x04)
  | .getfmt _ => (0x0B, 0x05)
  | .setfmt _ => (0x0B, 0x06)
  | .shuf _ => (0x0C, 0x00)
  | .lrot _ => (0x0C, 0x01)
  | .bcast _ => (0x0C, 0x02)
  | .scan _ => (0x0C, 0x03)
  | .redw _ => (0x0C, 0x04)
  | .sortk _ => (0x0C, 0x05)
  | .ballot _ => (0x0C, 0x06)
  | .kand _ => (0x0D, 0x00)
  | .kor _ => (0x0D, 0x01)
  | .kxor _ => (0x0D, 0x02)
  | .kandn _ => (0x0D, 0x03)
  | .knot _ => (0x0D, 0x04)
  | .kpop _ => (0x0D, 0x05)
  | .kfirst _ => (0x0D, 0x06)
  | .kmov _ => (0x0D, 0x07)
  | .cmp _ => (0x0D, 0x08)
  | .csrr _ => (0x0E, 0x00)
  | .clk _ => (0x0E, 0x01)
  | .csrw _ => (0x0E, 0x02)
  | .rgeti _ => (0x0F, 0x00)
  | .rseti _ => (0x0F, 0x01)
  | .lds _ => (0x10, 0x00)
  | .sts _ => (0x10, 0x01)
  | .tmprobe _ => (0x10, 0x02)
  | .ldp _ => (0x11, 0x00)
  | .stp _ => (0x11, 0x01)
  | .palloc _ => (0x11, 0x02)
  | .pfree _ => (0x11, 0x03)
  | .barinit _ => (0x13, 0x00)
  | .arrive _ => (0x13, 0x01)
  | .arrivex _ => (0x13, 0x02)
  | .wait _ => (0x13, 0x03)
  | .waitc _ => (0x13, 0x04)
  | .tryw _ => (0x13, 0x05)
  | .phase _ => (0x13, 0x06)
  | .barinv _ => (0x13, 0x07)
  | .trywC _ => (0x13, 0x05)
  | .ldg _ => (0x14, 0x00)
  | .stg _ => (0x14, 0x01)
  | .cpy _ => (0x15, 0x00)
  | .spat _ => (0x15, 0x01)
  | .cpz _ => (0x16, 0x00)
  | .cpfill _ => (0x16, 0x01)
  | .cpx _ => (0x16, 0x02)
  | .atqPush _ => (0x17, 0x20)
  | .atqPop _ => (0x17, 0x21)
  | .fence _ => (0x18, 0x00)
  | .fencer _ => (0x18, 0x01)
  | .trig _ => (0x18, 0x02)
  | .hint _ => (0x19, 0x00)
  | .step _ => (0x19, 0x01)
  | .evict _ => (0x19, 0x02)
  | .pin _ => (0x19, 0x03)
  | .pmap _ => (0x1A, 0x00)
  | .tlbinv _ => (0x1A, 0x01)
  | .tprobe _ => (0x1A, 0x02)
  | .migr _ => (0x1A, 0x03)
  | .pfillDone _ => (0x1B, 0x00)
  | .pfillFail _ => (0x1B, 0x01)
  | .pstate _ => (0x1B, 0x02)
  | .preset _ => (0x1B, 0x03)
  | .recruit _ => (0x1C, 0x00)
  | .hget _ => (0x1C, 0x01)
  | .hnext _ => (0x1C, 0x02)
  | .hred _ => (0x1C, 0x03)
  | .hjoin _ => (0x1C, 0x04)
  | .hquit _ => (0x1C, 0x05)
  | .msend _ => (0x1D, 0x00)
  | .mwait _ => (0x1D, 0x01)
  | .mack _ => (0x1D, 0x02)
  | .mackReg _ => (0x1D, 0x03)
  | .mackDrop _ => (0x1D, 0x04)
  | .mmx _ => (0x1E, 0x00)
  | .mringOpen _ => (0x1E, 0x01)
  | .mringClose _ => (0x1E, 0x02)
  | .epi _ => (0x1E, 0x03)
  | .mfenceOp _ => (0x1E, 0x04)
  | .mprio _ => (0x1E, 0x05)
  | .mstat _ => (0x1E, 0x06)
  | .vxm _ => (0x1F, 0x00)
  | .primOpen _ => (0x20, 0x00)
  | .prim _ => (0x20, 0x01)
  | .primClose _ => (0x20, 0x02)
  | .ptileBind _ => (0x20, 0x03)
  | .ptile _ => (0x20, 0x04)
  | .ptileDone _ => (0x20, 0x05)
  | .edge _ => (0x21, 0x00)
  | .edgev _ => (0x21, 0x01)
  | .vmask _ => (0x21, 0x02)
  | .vimov _ => (0x21, 0x03)
  | .zview _ => (0x22, 0x00)
  | .ropW _ => (0x22, 0x01)
  | .ropRel _ => (0x22, 0x02)
  | .texq _ => (0x23, 0x00)
  | .texqInv _ => (0x23, 0x01)
  | .texw _ => (0x23, 0x02)
  | .texs _ => (0x23, 0x03)
  | .matev _ => (0x23, 0x04)
  | .matld _ => (0x23, 0x05)
  | .vrate _ => (0x23, 0x06)
  | .launch _ => (0x24, 0x00)
  | .cjoin _ => (0x24, 0x01)
  | .tbset _ => (0x24, 0x02)
  | .tbclr _ => (0x24, 0x03)
  | .yield _ => (0x24, 0x04)
  | .morePut _ => (0x24, 0x05)
  | .moreGet _ => (0x24, 0x06)
  | .trap _ => (0x25, 0x00)
  | .tret _ => (0x25, 0x01)
  | .brkpt _ => (0x25, 0x02)
  | .rdtf _ => (0x25, 0x03)
  | .wrtf _ => (0x25, 0x04)
  | .sfence _ => (0x25, 0x05)
  | .monset _ => (0x26, 0x00)
  | .rdmon _ => (0x26, 0x01)
  | .atms op _ => (0x12, op.toNat)
  | .atg op _ => (0x17, op.toNat)
  | .redg op _ => (0x17, op.toNat)
  | _ => (64, 0)

/-- Whether an instruction is last-only (R48). -/
def Instr.last : Instr → Bool
  | .nop _ => false
  | .add _ => false
  | .sub _ => false
  | .mul _ => false
  | .mulhi _ => false
  | .mad _ => false
  | .min _ => false
  | .max _ => false
  | .abs _ => false
  | .neg _ => false
  | .and _ => false
  | .or _ => false
  | .xor _ => false
  | .not _ => false
  | .sel _ => false
  | .mov _ => false
  | .ldi _ => false
  | .iota _ => false
  | .shl _ => false
  | .shr _ => false
  | .sra _ => false
  | .rot _ => false
  | .bfe _ => false
  | .bfi _ => false
  | .popc _ => false
  | .clz _ => false
  | .ctz _ => false
  | .brev _ => false
  | .fadd _ => false
  | .fsub _ => false
  | .fmul _ => false
  | .fma _ => false
  | .fmin _ => false
  | .fmax _ => false
  | .frnd _ => false
  | .fclass _ => false
  | .fcmp _ => false
  | .fdiv _ => false
  | .fsqrt _ => false
  | .frcp _ => false
  | .frsq _ => false
  | .fex2 _ => false
  | .flg2 _ => false
  | .fsin _ => false
  | .fcos _ => false
  | .cvt _ => false
  | .cvtNarrow _ => false
  | .mxpk _ => false
  | .mxunpk _ => false
  | .vdot _ => false
  | .getfmt _ => false
  | .shuf _ => false
  | .lrot _ => false
  | .bcast _ => false
  | .scan _ => false
  | .redw _ => false
  | .sortk _ => false
  | .ballot _ => false
  | .kand _ => false
  | .kor _ => false
  | .kxor _ => false
  | .kandn _ => false
  | .knot _ => false
  | .kpop _ => false
  | .kfirst _ => false
  | .kmov _ => false
  | .cmp _ => false
  | .csrr _ => false
  | .clk _ => false
  | .rgeti _ => false
  | .edge _ => false
  | .edgev _ => false
  | .vmask _ => false
  | .vimov _ => false
  | _ => true

/-- The instructions of major 0x00. -/
def ofMajor00 (mn : BitVec 6) (f : Fields) : Option Instr :=
  match mn.toNat with
  | 0x00 => some (.nop f)
  | 0x01 => some (.bra f)
  | 0x02 => some (.split f)
  | 0x03 => some (.join f)
  | 0x04 => some (.brk f)
  | 0x05 => some (.call f)
  | 0x06 => some (.ret f)
  | 0x07 => some (.exit f)
  | 0x08 => some (.setdmr f)
  | _ => none

/-- The instructions of major 0x01. -/
def ofMajor01 (mn : BitVec 6) (f : Fields) : Option Instr :=
  match mn.toNat with
  | 0x00 => some (.callv f)
  | 0x01 => some (.callvU f)
  | _ => none

/-- The instructions of major 0x02. -/
def ofMajor02 (mn : BitVec 6) (f : Fields) : Option Instr :=
  match mn.toNat with
  | 0x00 => some (.add f)
  | 0x01 => some (.sub f)
  | 0x02 => some (.mul f)
  | 0x03 => some (.mulhi f)
  | 0x04 => some (.mad f)
  | 0x05 => some (.min f)
  | 0x06 => some (.max f)
  | 0x07 => some (.abs f)
  | 0x08 => some (.neg f)
  | _ => none

/-- The instructions of major 0x03. -/
def ofMajor03 (mn : BitVec 6) (f : Fields) : Option Instr :=
  match mn.toNat with
  | 0x00 => some (.and f)
  | 0x01 => some (.or f)
  | 0x02 => some (.xor f)
  | 0x03 => some (.not f)
  | 0x04 => some (.sel f)
  | 0x05 => some (.mov f)
  | 0x06 => some (.ldi f)
  | 0x07 => some (.iota f)
  | _ => none

/-- The instructions of major 0x04. -/
def ofMajor04 (mn : BitVec 6) (f : Fields) : Option Instr :=
  match mn.toNat with
  | 0x00 => some (.shl f)
  | 0x01 => some (.shr f)
  | 0x02 => some (.sra f)
  | 0x03 => some (.rot f)
  | 0x04 => some (.bfe f)
  | 0x05 => some (.bfi f)
  | _ => none

/-- The instructions of major 0x05. -/
def ofMajor05 (mn : BitVec 6) (f : Fields) : Option Instr :=
  match mn.toNat with
  | 0x00 => some (.popc f)
  | 0x01 => some (.clz f)
  | 0x02 => some (.ctz f)
  | 0x03 => some (.brev f)
  | _ => none

/-- The instructions of major 0x06. -/
def ofMajor06 (mn : BitVec 6) (f : Fields) : Option Instr :=
  match mn.toNat with
  | 0x00 => some (.fadd f)
  | 0x01 => some (.fsub f)
  | 0x02 => some (.fmul f)
  | 0x03 => some (.fma f)
  | _ => none

/-- The instructions of major 0x07. -/
def ofMajor07 (mn : BitVec 6) (f : Fields) : Option Instr :=
  match mn.toNat with
  | 0x00 => some (.fmin f)
  | 0x01 => some (.fmax f)
  | _ => none

/-- The instructions of major 0x08. -/
def ofMajor08 (mn : BitVec 6) (f : Fields) : Option Instr :=
  match mn.toNat with
  | 0x00 => some (.frnd f)
  | 0x01 => some (.fclass f)
  | _ => none

/-- The instructions of major 0x09. -/
def ofMajor09 (mn : BitVec 6) (f : Fields) : Option Instr :=
  match mn.toNat with
  | 0x00 => some (.fcmp f)
  | _ => none

/-- The instructions of major 0x0A. -/
def ofMajor0A (mn : BitVec 6) (f : Fields) : Option Instr :=
  match mn.toNat with
  | 0x00 => some (.fdiv f)
  | 0x01 => some (.fsqrt f)
  | 0x02 => some (.frcp f)
  | 0x03 => some (.frsq f)
  | 0x04 => some (.fex2 f)
  | 0x05 => some (.flg2 f)
  | 0x06 => some (.fsin f)
  | 0x07 => some (.fcos f)
  | _ => none

/-- The instructions of major 0x0B. -/
def ofMajor0B (mn : BitVec 6) (f : Fields) : Option Instr :=
  match mn.toNat with
  | 0x00 => some (.cvt f)
  | 0x01 => some (.cvtNarrow f)
  | 0x02 => some (.mxpk f)
  | 0x03 => some (.mxunpk f)
  | 0x04 => some (.vdot f)
  | 0x05 => some (.getfmt f)
  | 0x06 => some (.setfmt f)
  | _ => none

/-- The instructions of major 0x0C. -/
def ofMajor0C (mn : BitVec 6) (f : Fields) : Option Instr :=
  match mn.toNat with
  | 0x00 => some (.shuf f)
  | 0x01 => some (.lrot f)
  | 0x02 => some (.bcast f)
  | 0x03 => some (.scan f)
  | 0x04 => some (.redw f)
  | 0x05 => some (.sortk f)
  | 0x06 => some (.ballot f)
  | _ => none

/-- The instructions of major 0x0D. -/
def ofMajor0D (mn : BitVec 6) (f : Fields) : Option Instr :=
  match mn.toNat with
  | 0x00 => some (.kand f)
  | 0x01 => some (.kor f)
  | 0x02 => some (.kxor f)
  | 0x03 => some (.kandn f)
  | 0x04 => some (.knot f)
  | 0x05 => some (.kpop f)
  | 0x06 => some (.kfirst f)
  | 0x07 => some (.kmov f)
  | 0x08 => some (.cmp f)
  | _ => none

/-- The instructions of major 0x0E. -/
def ofMajor0E (mn : BitVec 6) (f : Fields) : Option Instr :=
  match mn.toNat with
  | 0x00 => some (.csrr f)
  | 0x01 => some (.clk f)
  | 0x02 => some (.csrw f)
  | _ => none

/-- The instructions of major 0x0F. -/
def ofMajor0F (mn : BitVec 6) (f : Fields) : Option Instr :=
  match mn.toNat with
  | 0x00 => some (.rgeti f)
  | 0x01 => some (.rseti f)
  | _ => none

/-- The instructions of major 0x10. -/
def ofMajor10 (mn : BitVec 6) (f : Fields) : Option Instr :=
  match mn.toNat with
  | 0x00 => some (.lds f)
  | 0x01 => some (.sts f)
  | 0x02 => some (.tmprobe f)
  | _ => none

/-- The instructions of major 0x11. -/
def ofMajor11 (mn : BitVec 6) (f : Fields) : Option Instr :=
  match mn.toNat with
  | 0x00 => some (.ldp f)
  | 0x01 => some (.stp f)
  | 0x02 => some (.palloc f)
  | 0x03 => some (.pfree f)
  | _ => none

/-- The instructions of major 0x13. -/
def ofMajor13 (mn : BitVec 6) (f : Fields) : Option Instr :=
  match mn.toNat with
  | 0x00 => some (.barinit f)
  | 0x01 => some (.arrive f)
  | 0x02 => some (.arrivex f)
  | 0x03 => some (.wait f)
  | 0x04 => some (.waitc f)
  | 0x05 => if f.mod.getLsbD 2 then some (.trywC f) else some (.tryw f)
  | 0x06 => some (.phase f)
  | 0x07 => some (.barinv f)
  | _ => none

/-- The instructions of major 0x14. -/
def ofMajor14 (mn : BitVec 6) (f : Fields) : Option Instr :=
  match mn.toNat with
  | 0x00 => some (.ldg f)
  | 0x01 => some (.stg f)
  | _ => none

/-- The instructions of major 0x15. -/
def ofMajor15 (mn : BitVec 6) (f : Fields) : Option Instr :=
  match mn.toNat with
  | 0x00 => some (.cpy f)
  | 0x01 => some (.spat f)
  | _ => none

/-- The instructions of major 0x16. -/
def ofMajor16 (mn : BitVec 6) (f : Fields) : Option Instr :=
  match mn.toNat with
  | 0x00 => some (.cpz f)
  | 0x01 => some (.cpfill f)
  | 0x02 => some (.cpx f)
  | _ => none

/-- The instructions of major 0x17. -/
def ofMajor17 (mn : BitVec 6) (f : Fields) : Option Instr :=
  match mn.toNat with
  | 0x20 => some (.atqPush f)
  | 0x21 => some (.atqPop f)
  | x => if x ≤ 0x0A then some (.atg mn f)
    else if 0x10 ≤ x ∧ x ≤ 0x15 ∨ 0x18 ≤ x ∧ x ≤ 0x1A then some (.redg mn f) else none

/-- The instructions of major 0x18. -/
def ofMajor18 (mn : BitVec 6) (f : Fields) : Option Instr :=
  match mn.toNat with
  | 0x00 => some (.fence f)
  | 0x01 => some (.fencer f)
  | 0x02 => some (.trig f)
  | _ => none

/-- The instructions of major 0x19. -/
def ofMajor19 (mn : BitVec 6) (f : Fields) : Option Instr :=
  match mn.toNat with
  | 0x00 => some (.hint f)
  | 0x01 => some (.step f)
  | 0x02 => some (.evict f)
  | 0x03 => some (.pin f)
  | _ => none

/-- The instructions of major 0x1A. -/
def ofMajor1A (mn : BitVec 6) (f : Fields) : Option Instr :=
  match mn.toNat with
  | 0x00 => some (.pmap f)
  | 0x01 => some (.tlbinv f)
  | 0x02 => some (.tprobe f)
  | 0x03 => some (.migr f)
  | _ => none

/-- The instructions of major 0x1B. -/
def ofMajor1B (mn : BitVec 6) (f : Fields) : Option Instr :=
  match mn.toNat with
  | 0x00 => some (.pfillDone f)
  | 0x01 => some (.pfillFail f)
  | 0x02 => some (.pstate f)
  | 0x03 => some (.preset f)
  | _ => none

/-- The instructions of major 0x1C. -/
def ofMajor1C (mn : BitVec 6) (f : Fields) : Option Instr :=
  match mn.toNat with
  | 0x00 => some (.recruit f)
  | 0x01 => some (.hget f)
  | 0x02 => some (.hnext f)
  | 0x03 => some (.hred f)
  | 0x04 => some (.hjoin f)
  | 0x05 => some (.hquit f)
  | _ => none

/-- The instructions of major 0x1D. -/
def ofMajor1D (mn : BitVec 6) (f : Fields) : Option Instr :=
  match mn.toNat with
  | 0x00 => some (.msend f)
  | 0x01 => some (.mwait f)
  | 0x02 => some (.mack f)
  | 0x03 => some (.mackReg f)
  | 0x04 => some (.mackDrop f)
  | _ => none

/-- The instructions of major 0x1E. -/
def ofMajor1E (mn : BitVec 6) (f : Fields) : Option Instr :=
  match mn.toNat with
  | 0x00 => some (.mmx f)
  | 0x01 => some (.mringOpen f)
  | 0x02 => some (.mringClose f)
  | 0x03 => some (.epi f)
  | 0x04 => some (.mfenceOp f)
  | 0x05 => some (.mprio f)
  | 0x06 => some (.mstat f)
  | _ => none

/-- The instructions of major 0x1F. -/
def ofMajor1F (mn : BitVec 6) (f : Fields) : Option Instr :=
  match mn.toNat with
  | 0x00 => some (.vxm f)
  | _ => none

/-- The instructions of major 0x20. -/
def ofMajor20 (mn : BitVec 6) (f : Fields) : Option Instr :=
  match mn.toNat with
  | 0x00 => some (.primOpen f)
  | 0x01 => some (.prim f)
  | 0x02 => some (.primClose f)
  | 0x03 => some (.ptileBind f)
  | 0x04 => some (.ptile f)
  | 0x05 => some (.ptileDone f)
  | _ => none

/-- The instructions of major 0x21. -/
def ofMajor21 (mn : BitVec 6) (f : Fields) : Option Instr :=
  match mn.toNat with
  | 0x00 => some (.edge f)
  | 0x01 => some (.edgev f)
  | 0x02 => some (.vmask f)
  | 0x03 => some (.vimov f)
  | _ => none

/-- The instructions of major 0x22. -/
def ofMajor22 (mn : BitVec 6) (f : Fields) : Option Instr :=
  match mn.toNat with
  | 0x00 => some (.zview f)
  | 0x01 => some (.ropW f)
  | 0x02 => some (.ropRel f)
  | _ => none

/-- The instructions of major 0x23. -/
def ofMajor23 (mn : BitVec 6) (f : Fields) : Option Instr :=
  match mn.toNat with
  | 0x00 => some (.texq f)
  | 0x01 => some (.texqInv f)
  | 0x02 => some (.texw f)
  | 0x03 => some (.texs f)
  | 0x04 => some (.matev f)
  | 0x05 => some (.matld f)
  | 0x06 => some (.vrate f)
  | _ => none

/-- The instructions of major 0x24. -/
def ofMajor24 (mn : BitVec 6) (f : Fields) : Option Instr :=
  match mn.toNat with
  | 0x00 => some (.launch f)
  | 0x01 => some (.cjoin f)
  | 0x02 => some (.tbset f)
  | 0x03 => some (.tbclr f)
  | 0x04 => some (.yield f)
  | 0x05 => some (.morePut f)
  | 0x06 => some (.moreGet f)
  | _ => none

/-- The instructions of major 0x25. -/
def ofMajor25 (mn : BitVec 6) (f : Fields) : Option Instr :=
  match mn.toNat with
  | 0x00 => some (.trap f)
  | 0x01 => some (.tret f)
  | 0x02 => some (.brkpt f)
  | 0x03 => some (.rdtf f)
  | 0x04 => some (.wrtf f)
  | 0x05 => some (.sfence f)
  | _ => none

/-- The instructions of major 0x26. -/
def ofMajor26 (mn : BitVec 6) (f : Fields) : Option Instr :=
  match mn.toNat with
  | 0x00 => some (.monset f)
  | 0x01 => some (.rdmon f)
  | _ => none

/-- The instructions of major 0x27. -/
def ofMajor27 (mn : BitVec 6) (f : Fields) : Option Instr :=
  match mn.toNat with
  | 0x00 => some (.spush f)
  | 0x01 => some (.spop f)
  | _ => none

/-- The scratchpad atomics of major 0x12: the minor is the operation, 0 to 8 (R130, R136). -/
def ofMajor12 (mn : BitVec 6) (f : Fields) : Option Instr :=
  if mn.toNat ≤ 8 then some (.atms mn f) else none

/-- The instruction that an opcode names; none for a minor that no entry names. -/
def Instr.ofOpcode (mj mn : BitVec 6) (f : Fields) : Option Instr :=
  match mj.toNat with
  | 0x00 => ofMajor00 mn f
  | 0x01 => ofMajor01 mn f
  | 0x02 => ofMajor02 mn f
  | 0x03 => ofMajor03 mn f
  | 0x04 => ofMajor04 mn f
  | 0x05 => ofMajor05 mn f
  | 0x06 => ofMajor06 mn f
  | 0x07 => ofMajor07 mn f
  | 0x08 => ofMajor08 mn f
  | 0x09 => ofMajor09 mn f
  | 0x0A => ofMajor0A mn f
  | 0x0B => ofMajor0B mn f
  | 0x0C => ofMajor0C mn f
  | 0x0D => ofMajor0D mn f
  | 0x0E => ofMajor0E mn f
  | 0x0F => ofMajor0F mn f
  | 0x10 => ofMajor10 mn f
  | 0x11 => ofMajor11 mn f
  | 0x12 => ofMajor12 mn f
  | 0x13 => ofMajor13 mn f
  | 0x14 => ofMajor14 mn f
  | 0x15 => ofMajor15 mn f
  | 0x16 => ofMajor16 mn f
  | 0x17 => ofMajor17 mn f
  | 0x18 => ofMajor18 mn f
  | 0x19 => ofMajor19 mn f
  | 0x1A => ofMajor1A mn f
  | 0x1B => ofMajor1B mn f
  | 0x1C => ofMajor1C mn f
  | 0x1D => ofMajor1D mn f
  | 0x1E => ofMajor1E mn f
  | 0x1F => ofMajor1F mn f
  | 0x20 => ofMajor20 mn f
  | 0x21 => ofMajor21 mn f
  | 0x22 => ofMajor22 mn f
  | 0x23 => ofMajor23 mn f
  | 0x24 => ofMajor24 mn f
  | 0x25 => ofMajor25 mn f
  | 0x26 => ofMajor26 mn f
  | 0x27 => ofMajor27 mn f
  | _ => none

end Sys2Proof
end

