-- ==== Sys2Proof/Machine/Form.lean ====
section
/-! DEFINITION. What the encoding of each instruction must satisfy at steps 5 to 7 of R50, so far as the word alone
decides it: the reasons of R51 that apply, the operand codes it names, and who may execute it. -/

namespace Sys2Proof.Machine

/-- What the word alone decides. faults: the reasons of R51; srcs, dsts: operand codes with the number of lane
registers each spans; bob: allowed in bobbin code; sup: supervisor-only; helper: the PROT subcause in helper code. -/
structure Form where
  faults : List Nat
  srcs : List (Nat × Nat)
  dsts : List (Nat × Nat)
  bob : Bool
  sup : Bool
  helper : Option Nat
deriving DecidableEq, Repr

/-- A reason unless a condition holds. -/
def need (ok : Bool) (r : Nat) : List Nat := if ok then [] else [r]

/-- The span of an operand: a pair when wide. -/
def span (pair : Bool) : Nat := if pair then 2 else 1

/-- A general source (R43, R44): reserved codes 0x02, vi and counter codes 0x03, lane or latch in a uniform form 0x04,
an odd pair 0x08. -/
def srcForm (u : Bool) (c : Nat) (pair : Bool) : List Nat :=
  if c < 256 then need (!u) 4 ++ need (!(pair && c % 2 == 1)) 8
  else if c < 320 then []
  else if c < 324 then need (!u) 4
  else if c < 328 then []
  else if c < 352 then [3]
  else if c < 377 then []
  else [2]

/-- A general destination (R43, R44): a v register with U = 0, a w register with U = 1; with WS = 1 the code is 0. -/
def dstForm (f : Fields) (pair : Bool) : List Nat :=
  if f.ws then need (f.dst == 0) 7
  else
    let c := f.dst.toNat
    if c < 256 then need (!f.u) 4 ++ need (!(pair && c % 2 == 1)) 8
    else if c < 320 then need f.u 4
    else if c < 377 then [3]
    else [2]

/-- A v register as destination or source field that names nothing else. -/
def vForm (c : Nat) (pair : Bool) : List Nat :=
  if c < 256 then need (!(pair && c % 2 == 1)) 8 else if c < 377 then [3] else [2, 3]

/-- A lane register or a latch. -/
def laneCode (c : Nat) : Bool := decide (c < 256) || (decide (320 ≤ c) && decide (c < 324))

/-- A code of no operand (R43, R60). -/
def reservedCode (c : Nat) : Bool := decide (377 ≤ c)

/-- A w register in a uniform form, where the entry gives no reason for other classes: R51's own. -/
def wForm (c : Nat) : List Nat :=
  if 256 ≤ c ∧ c < 320 then [] else if laneCode c then [4] else if reservedCode c then [2] else [3]

/-- An operand of a class that the entry's table refuses with 0x03: a reserved code is also 0x02 (R51). -/
def badClass (c : Nat) : List Nat := if reservedCode c then [2, 3] else [3]

/-- A w register in a uniform form whose table refuses another class with 0x03 and a lane or latch with 0x04: every
reason that holds (R172, R191, R230, R244, R270, R296, R319, R340, R354, R373, R383). -/
def wTab (c : Nat) : List Nat :=
  if 256 ≤ c ∧ c < 320 then [] else badClass c ++ (if laneCode c then [4] else [])

/-- A w register where a lane form names one: any other class is not allowed. -/
def wOnly (c : Nat) : List Nat := if 256 ≤ c ∧ c < 320 then [] else badClass c

/-- The base address of a device-memory access (R174, R197): a w register; a lane or latch in a uniform form is a U mismatch
too (R191, R205). -/
def baseForm (u : Bool) (c : Nat) : List Nat := wOnly c ++ need (!(u && laneCode c)) 4

/-- A w register or 324. -/
def wImm (c : Nat) : List Nat := if c = 324 then [] else wForm c

/-- A w register or 324, by the entry's table. -/
def wTabImm (c : Nat) : List Nat := if c = 324 then [] else wTab c

/-- A w destination; with WS = 1 where it is allowed, the code is 0. -/
def dstW (f : Fields) (wsOk : Bool) : List Nat :=
  if f.ws then need (wsOk && f.dst == 0) 7
  else
    let c := f.dst.toNat
    if 256 ≤ c ∧ c < 320 then [] else if reservedCode c then [2] else [3]

/-- A w destination whose table refuses another class with 0x03 and a lane or latch with 0x04 (R154, R172, R244, R270,
R340, R354, R373). -/
def dstTab (f : Fields) (wsOk : Bool) : List Nat :=
  if f.ws then need (wsOk && f.dst == 0) 7 else wTab f.dst.toNat

/-- A w destination whose table names only lane and latch operands, with 0x04 (R296, R319, R402). -/
def dstLane (f : Fields) (wsOk : Bool) : List Nat :=
  if f.ws then need (wsOk && f.dst == 0) 7 else wForm f.dst.toNat

/-- No destination and no suppression. -/
def noDst (f : Fields) : List Nat := need (f.dst == 0 && !f.ws) 7

/-- A field that must hold 0. -/
def zero (c : Code) : List Nat := need (c == 0) 7

/-- Allowed lengths: none, IMM32, bits [127:64]; an immediate that no source names is left unused (assumption 94). -/
def lenForm (f : Fields) (l0 l1 l2 : Bool) : List Nat :=
  match f.long with
  | .none => need l0 7
  | .imm32 _ => need l1 7
  | .ext _ => need l2 7

/-- KM and KN must be 0. -/
def noMask (f : Fields) : List Nat := need (f.km == 0 && !f.kn) 7

/-- MOD [hi:lo] counted from bit 58. -/
def mfld (f : Fields) (hi lo : Nat) : Nat := fld f.mod.toNat hi lo

/-- A field of the SC block. -/
def scfld (f : Fields) (hi lo : Nat) : Nat := fld f.sc.toNat hi lo

/-- Width of an integer type code (R17). -/
def intWidth (t : Nat) : Nat := 8 * 2 ^ (t % 4)

/-- Whether an integer type code is signed (R17). -/
def intSigned (t : Nat) : Bool := decide (4 ≤ t)

/-- Width of a type code of R74. -/
def typeWidth (t : Nat) : Nat :=
  if t < 8 then intWidth t else if t = 9 then 64 else if t = 8 then 32 else 16

/-- Width of a float type code of R69. -/
def floatWidth (t : Nat) : Nat := if t = 1 then 64 else if t = 0 ∨ t = 4 then 32 else 16

/-- The immediate of a 16-bit float type has bits [31:16] zero (R42), when some source reads it. -/
def imm16Form (f : Fields) (cs : List Nat) : List Nat :=
  match f.long with
  | .imm32 x => need (!(cs.contains 324) || x.toNat < 65536) 7
  | _ => []

/-- A field that is read as `.n32` whatever the type cannot read IMM64 (R42, R67, R75, R79). -/
def no64 (f : Fields) (c : Code) : List Nat := need (!(f.lenCode == 2 && c == 324)) 7

/-- A form of the frame of R18: general sources, a general destination. -/
def arith (f : Fields) (faults : List Nat) (srcs : List (Nat × Bool)) (dpair bob : Bool) : Form :=
  { faults := faults ++ (srcs.map (fun c => srcForm f.u c.1 c.2)).flatten ++ dstForm f dpair,
    srcs := srcs.map (fun c => (c.1, span c.2)),
    dsts := if f.ws then [] else [(f.dst.toNat, span dpair)], bob := bob, sup := false, helper := none }

/-- An integer instruction (R66): n sources, whether SAT is allowed, which source is a count read as `.n32` (R67). -/
def intForm (f : Fields) (n : Nat) (sat : Bool) (cnt : Option Nat) (extra : List Nat) : Form :=
  let t := mfld f 3 0
  let pair := intWidth t == 64
  let cs := [f.sa.toNat, f.sb.toNat, f.sc.toNat].take n
  arith f
    (need (mfld f 5 5 == 0 && t < 8 && (sat || mfld f 4 4 == 0)) 7 ++ lenForm f true true pair ++
      (if n < 2 then zero f.sb else []) ++ (if n < 3 then zero f.sc else []) ++ extra)
    ((cs.zip (List.range n)).map (fun c => (c.1, pair && cnt != some c.2))) pair f.u

/-- A float instruction of majors 0x06 to 0x0A (R69). -/
def floatForm (f : Fields) (n : Nat) (rm0 : Bool) (types : List Nat) (extra : List Nat) : Form :=
  let t := mfld f 2 0
  let pair := floatWidth t == 64
  let cs := [f.sa.toNat, f.sb.toNat, f.sc.toNat].take n
  arith f
    (need (decide (mfld f 5 3 ≤ 4) && (!rm0 || mfld f 5 3 == 0) && types.contains t) 7 ++
      lenForm f true true pair ++ (if floatWidth t = 16 then imm16Form f cs else []) ++
      (if n < 2 then zero f.sb else []) ++ (if n < 3 then zero f.sc else []) ++ extra)
    (cs.map (fun c => (c, pair))) pair f.u

/-- The destination of a compare: a k register with U = 0, or a w register with U = 1 (R72). -/
def cmpDst (f : Fields) : List Nat :=
  if f.ws then need (f.dst == 0) 7
  else
    let c := f.dst.toNat
    if 352 ≤ c ∧ c < 368 then need (!f.u) 4 else if 256 ≤ c ∧ c < 320 then need f.u 4
    else if c < 377 then [3] else [2]

/-- A compare of sources of one width. -/
def cmpForm (f : Fields) (faults : List Nat) (pair : Bool) : Form :=
  { faults := faults ++ srcForm f.u f.sa.toNat pair ++ srcForm f.u f.sb.toNat pair ++ cmpDst f,
    srcs := [(f.sa.toNat, span pair), (f.sb.toNat, span pair)],
    dsts := if f.ws then [] else [(f.dst.toNat, 1)], bob := f.u, sup := false, helper := none }

/-- A control instruction (R105): the fields that are free are given, the rest are 0. -/
def ctlForm (f : Fields) (len : Nat) (u : Bool) (km : Bool) (faults : List Nat) (srcs : List (Nat × Nat)) (bob : Bool)
    (helper : Option Nat) : Form :=
  { faults := need (f.lenCode == len) 7 ++ need (f.u == u) 4 ++ (if km then [] else noMask f) ++ noDst f ++ zero f.sb ++
      faults,
    srcs := srcs, dsts := [], bob := bob, sup := false, helper := helper }

/-- A uniform-only, last-only form: U = 1, named sources and a w destination or none. -/
def uniForm (f : Fields) (l0 l1 l2 : Bool) (faults : List Nat) (dst : List Nat) (srcs : List Code) (bob sup : Bool)
    (helper : Option Nat) : Form :=
  { faults := need f.u 4 ++ lenForm f l0 l1 l2 ++ faults ++ dst,
    srcs := srcs.map (fun c => (c.toNat, 1)),
    dsts := if f.ws then [] else if 256 ≤ f.dst.toNat ∧ f.dst.toNat < 320 then [(f.dst.toNat, 1)] else [],
    bob := bob, sup := sup, helper := helper }

/-- A mask source: a k register, a w register or 324 (R77). -/
def kSrc (c : Nat) : List Nat :=
  if c < 256 then [4] else if c < 320 then [] else if c < 324 then [4] else if c = 324 then []
  else if 352 ≤ c ∧ c < 368 then [] else if c < 377 then [3] else [2]

/-- A mask instruction (R77). kd, wdst: the destinations it allows. -/
def maskForm (f : Fields) (n : Nat) (kd wdst : Bool) : Form :=
  let c := f.dst.toNat
  { faults := need f.u 4 ++ need (f.mod == 0) 7 ++ zero f.sc ++ kSrc f.sa.toNat ++
      (if n = 2 then kSrc f.sb.toNat else zero f.sb) ++
      (if f.ws then need (f.dst == 0) 7
       else if 352 ≤ c ∧ c < 368 then need kd 3 else if 256 ≤ c ∧ c < 320 then need wdst 3
       else if c < 377 then [3] else [2]),
    srcs := (if n = 2 then [(f.sa.toNat, 1), (f.sb.toNat, 1)] else [(f.sa.toNat, 1)]),
    dsts := if f.ws then [] else [(c, 1)], bob := false, sup := false, helper := none }

/-- A lane-movement instruction (R74, R75): idx: SB is a lane index read as `.n32`; uni: it must be uniform. -/
def laneForm (f : Fields) (idx uni : Bool) (extra : List Nat) (dst : List Nat) (dpair : Bool) : Form :=
  let t := mfld f 3 0
  let pair := typeWidth t == 64
  { faults := need (mfld f 5 4 == 0 && t < 12) 7 ++ need (!f.u) 4 ++ lenForm f true true pair ++
      (if t = 10 ∨ t = 11 then imm16Form f [f.sa.toNat] else []) ++
      srcForm false f.sa.toNat pair ++
      (if idx then srcForm false f.sb.toNat false ++ need (!uni || uniformCode f.sb.toNat) 3 ++ no64 f f.sb else zero f.sb) ++
      extra ++ dst,
    srcs := [(f.sa.toNat, span pair)] ++ (if idx then [(f.sb.toNat, 1)] else []),
    dsts := if f.ws then [] else [(f.dst.toNat, span dpair)], bob := false, sup := false, helper := none }

/-- A v destination of a lane form: a w register is a U mismatch (R74). -/
def laneDst (f : Fields) (pair : Bool) : List Nat :=
  if f.ws then need (f.dst == 0) 7
  else if 256 ≤ f.dst.toNat ∧ f.dst.toNat < 320 then [4]
  else if reservedCode f.dst.toNat then [2] else vForm f.dst.toNat pair

/-- A k destination (ballot). -/
def kDst (f : Fields) : List Nat :=
  if f.ws then need (f.dst == 0) 7
  else if 352 ≤ f.dst.toNat ∧ f.dst.toNat < 368 then []
  else if 256 ≤ f.dst.toNat ∧ f.dst.toNat < 320 then [4] else if f.dst.toNat < 377 then [3] else [2]

/-- A scratchpad address or data operand (R130): a v or w register, a latch, or 324. -/
def spSrc (u : Bool) (c : Nat) (pair : Bool) : List Nat :=
  if c < 325 then srcForm u c pair else if c < 377 then [3] else [2]

/-- A scratchpad access (R130). d: it has a destination; data: how many data operands. -/
def spForm (f : Fields) (w : Nat) (d : Bool) (data : List Nat) (faults : List Nat) : Form :=
  let pair := w == 64
  let uni := uniformCode f.sa.toNat && uniformCode f.sb.toNat && data.all uniformCode
  { faults := faults ++ spSrc f.u f.sa.toNat false ++ spSrc f.u f.sb.toNat false ++
      (data.map (fun c => spSrc f.u c pair)).flatten ++
      (if d then (if f.ws then need (f.dst == 0) 7 else dstForm f pair) else noDst f ++ need (f.u == uni) 4),
    srcs := [(f.sa.toNat, 1), (f.sb.toNat, 1)] ++ data.map (fun c => (c, span pair)),
    dsts := if d && !f.ws then [(f.dst.toNat, span pair)] else [], bob := false, sup := false, helper := none }

/-- A uniform scratchpad source: a w register or 324. -/
def spUni (c : Nat) : List Nat := if c = 324 then [] else if uniformCode c ∧ c < 320 then [] else wForm c

/-- In a 96-bit form exactly one of the fields holds 324 (R144, R170). -/
def oneImm (f : Fields) (cs : List Code) : List Nat :=
  match f.long with
  | .imm32 _ => need ((cs.filter (fun c => c == 324)).length == 1) 7
  | _ => []

/-- A barrier form (R144): SP, RES, the low MOD bits fixed. -/
def barForm (f : Fields) (modOk : Bool) (c : Bool) (dst : List Nat) (bob : Bool) : Form :=
  uniForm f true true false
    (need (modOk && !(f.mod.getLsbD 4 && !f.mod.getLsbD 5)) 7 ++ wForm f.sa.toNat ++ wImm f.sb.toNat ++
      (if c then wImm f.sc.toNat else zero f.sc) ++ oneImm f (if c then [f.sb, f.sc] else [f.sb]))
    dst (if c then [f.sa, f.sb, f.sc] else [f.sa, f.sb]) bob false (some 7)

/-- A counter code as SA (R144, R154). -/
def ctrForm (c : Nat) : List Nat :=
  if 336 ≤ c ∧ c < 352 then [] else badClass c ++ (if laneCode c then [4] else [])

/-- A completion operand of a job is the one that its CMPL asks for (R179). -/
def complOk (f : Fields) : Bool :=
  let c := f.xmod / 4
  if c = 0 then f.sd == 324 else if c = 4 then decide (336 ≤ f.sd) && decide (f.sd < 352)
  else decide (256 ≤ f.sd) && decide (f.sd < 320)

/-- Completion operand of a job (R179): matches CMPL; a lane or latch is a U mismatch too where the form is uniform (R191, R319,
R354). -/
def complForm (f : Fields) : List Nat :=
  if 5 ≤ f.xmod / 4 then [7]
  else if complOk f then []
  else badClass f.sd ++ need (!(f.u && laneCode f.sd)) 4

/-- A copy (R180, R191). -/
def copyForm (f : Fields) (modOk : Bool) (scImm seUsed : Bool) (xlow : Bool) (extra : List Nat) : Form :=
  { faults := need f.u 4 ++ lenForm f false false true ++ need (f.dst == 0 && !f.ws && f.dst2 == 0) 7 ++ need modOk 7 ++
      need (xlow || f.xmod % 4 == 0) 7 ++ wTab f.sa.toNat ++ wTab f.sb.toNat ++
      (if scImm then wTabImm f.sc.toNat else need (f.sc == 324 && f.imm32b == 0) 7) ++
      (if seUsed then wTabImm f.se ++ need (!(f.sc == 324 && f.se == 324)) 7 else need (f.se == 324) 7) ++
      need (f.imm32b == 0 || f.sc == 324 || (seUsed && f.se == 324)) 7 ++ complForm f ++ extra,
    srcs := [(f.sa.toNat, 1), (f.sb.toNat, 1), (f.sc.toNat, 1), (f.sd, 1), (f.se, 1)], dsts := [],
    bob := f.xmod / 4 != 4, sup := false, helper := some 7 }

/-- A device-memory access's offset b (R174): a v register, a w register, or 324. -/
def offForm (u : Bool) (c : Nat) : List Nat :=
  if c < 256 then need (!u) 4 else if c < 320 ∨ c = 324 then [] else if c < 324 then (if u then [4] else [3])
  else if c < 377 then [3] else [2]

/-- The type of an atomic by class (R196): integer, bits, float. -/
def atomClass (op : Nat) : Nat := if op % 8 < 6 ∧ op / 8 ≠ 1 ∧ op < 0x16 then 0 else if op = 6 ∨ op = 7 then 1 else 2

/-- Whether a type code is allowed for an operation of the synchronisation engine (R196). -/
def atomTypeOk (op t : Nat) : Bool :=
  if op < 6 ∨ (0x10 ≤ op ∧ op < 0x16) then decide (t < 4) else if op = 6 ∨ op = 7 then decide (t < 2) else decide (t < 3)

/-- The width in bits of an atomic's elements (R196). -/
def atomWidth (op t : Nat) : Nat :=
  if op < 6 ∨ (0x10 ≤ op ∧ op < 0x16) then (if t < 2 then 32 else 64)
  else if op = 6 ∨ op = 7 then (if t = 0 then 32 else 64)
  else if t = 1 then 64 else 32

/-- The destination d of `atg` and `atq` (R197): another class is not allowed (R205). -/
def atgDst (f : Fields) (pair : Bool) : List Nat :=
  if f.dst.toNat < 320 then dstForm f pair else badClass f.dst.toNat

/-- An atomic on device memory (R197, R205). -/
def atgForm (f : Fields) (op : Nat) (ret : Bool) : Form :=
  let t := mfld f 1 0
  let cas := ret && op == 7
  let pair := atomWidth op t == 64
  let srcs := [f.sb.toNat, f.sc.toNat] ++ (if cas then [f.sd] else [])
  { faults := need (atomTypeOk op t && !(!ret && (mfld f 5 4 == 1 || mfld f 5 4 == 3))) 7 ++
      lenForm f (!cas) (!cas) cas ++ baseForm f.u f.sa.toNat ++ offForm f.u f.sb.toNat ++ srcForm f.u f.sc.toNat pair ++
      (if cas then (if f.sd < 324 ∨ f.sd = 324 ∨ reservedCode f.sd then srcForm f.u f.sd pair ++
          need (!(decide (320 ≤ f.sd) && decide (f.sd < 324))) 3 else [3]) ++
        need (f.dst2 == 0 && f.xmod == 0 && f.se == 324 && (f.imm32b == 0 || srcs.contains 324)) 7 else []) ++
      (match f.long with
       | .none => []
       | _ => need (decide ((srcs.filter (fun c => c == 324)).length ≤ 1)) 7) ++
      (if ret then need (!f.ws) 7 ++ need (!f.u || srcs.all uniformCode) 4 ++ atgDst f pair
       else noDst f ++ need (f.u == (uniformCode f.sb.toNat && uniformCode f.sc.toNat)) 4),
    srcs := [(f.sa.toNat, 1), (f.sb.toNat, 1), (f.sc.toNat, span pair)] ++ (if cas then [(f.sd, span pair)] else []),
    dsts := if ret && !f.ws then [(f.dst.toNat, span pair)] else [], bob := f.u, sup := false, helper := none }

/-- A queue atomic (R196, R197, R200). -/
def atqForm (f : Fields) : Form :=
  { faults := need (mfld f 1 0 == 0) 7 ++ lenForm f true true false ++ zero f.sc ++ need (!f.ws) 7 ++
      baseForm f.u f.sa.toNat ++ offForm f.u f.sb.toNat ++ atgDst f true,
    srcs := [(f.sa.toNat, 1), (f.sb.toNat, 1)], dsts := [(f.dst.toNat, 2)], bob := f.u, sup := false, helper := none }

/-- A vi register. -/
def viForm (c : Nat) : List Nat := if 328 ≤ c ∧ c < 336 then [] else badClass c

/-- A pixel operand (R336): a v register or `laneid`. -/
def pixForm (c : Nat) : List Nat := if c < 256 ∨ c = 325 then [] else badClass c

/-- A lane form of U = 0 with given checks. -/
def lane0 (f : Fields) (faults : List Nat) (srcs dsts : List (Nat × Nat)) (helper : Option Nat) : Form :=
  { faults := need (!f.u) 4 ++ faults, srcs := srcs, dsts := if f.ws then [] else dsts, bob := false, sup := false,
    helper := helper }

/-- A v-register destination that may be suppressed. -/
def vDst (f : Fields) (pair : Bool) : List Nat := if f.ws then need (f.dst == 0) 7 else vForm f.dst.toNat pair

/-- A vi destination that may be suppressed. -/
def viDst (f : Fields) : List Nat := if f.ws then need (f.dst == 0) 7 else viForm f.dst.toNat

/-- A v or w register. -/
def vwForm (c : Nat) : List Nat := if c < 320 then [] else badClass c ++ (if laneCode c then [4] else [])

/-- A `setfmt` immediate that names a reserved value (R95): FS selects the field. -/
def fmtReserved (fs x : Nat) : Bool :=
  let bad5 (y : Nat) : Bool := decide (20 ≤ y % 32)
  let badR (y : Nat) : Bool := decide (5 ≤ y % 8)
  if fs = 0 then bad5 x || bad5 (x / 32) || badR (x / 1024) || bad5 (x / 16384)
  else if fs = 1 ∨ fs = 2 ∨ fs = 5 then bad5 x
  else if fs = 3 then badR x
  else false

/-- No form: a step that no instruction word names. -/
def Form.none : Form := { faults := [], srcs := [], dsts := [], bob := true, sup := false, helper := Option.none }

/-- Majors 0x00, 0x01, 0x27 (R105), and the integer majors (R66 to R68). A reserved code in the SC of `sel`
is reported as either rule says (assumption 106). -/
def formA : Instr → Form
  | .nop f => ctlForm f 0 false false (need (f.mod == 0 && f.sc == 0 && f.sa == 0 && !f.ch) 7) [] true none
  | .bra f => ctlForm f 1 true true
      (need (decide (mfld f 5 4 < 3) && mfld f 3 0 == 0 && f.sc == 0) 7 ++
        (if mfld f 5 4 = 0 then zero f.sa else wForm f.sa.toNat))
      (if mfld f 5 4 = 0 then [] else [(f.sa.toNat, 1)]) true none
  | .split f => ctlForm f 2 false false
      (need (f.mod == 0 && f.sc == 0) 7 ++ (if 352 ≤ f.sa.toNat ∧ f.sa.toNat < 368 then [] else
        if f.sa.toNat < 377 then [3] else [2])) [(f.sa.toNat, 1)] false (some 0x63)
  | .join f => ctlForm f 0 false false (need (f.mod == 0 && f.sc == 0 && f.sa == 0) 7) [] false (some 0x63)
  | .brk f => ctlForm f 0 false true (need (f.mod == 0 && scfld f 8 4 == 0 && f.sa == 0) 7) [] false (some 0x63)
  | .call f => ctlForm f 1 true false (need (f.mod == 0 && f.sc == 0 && f.sa == 0) 7) [] true (some 0x63)
  | .ret f => ctlForm f 0 true false (need (f.mod == 0 && f.sc == 0 && f.sa == 0) 7) [] true (some 0x63)
  | .exit f => ctlForm f 0 false true (need (f.mod == 0 && f.sc == 0 && f.sa == 0) 7) [] true none
  | .setdmr f => ctlForm f 0 true false (need (f.mod == 0 && scfld f 8 1 == 0 && f.sa == 0) 7) [] false none
  | .callv f => ctlForm f 0 false true (need (f.mod == 0 && f.sc == 0) 7 ++ vForm f.sa.toNat true)
      [(f.sa.toNat, 2)] false (some 0x63)
  | .callvU f => ctlForm f 0 true false (need (f.mod == 0 && f.sc == 0) 7 ++ wForm f.sa.toNat)
      [(f.sa.toNat, 1)] true (some 0x63)
  | .spush f =>
      let pair := mfld f 0 0 == 1
      { faults := need (f.lenCode == 0 && mfld f 5 1 == 0 && f.sb == 0 && f.sc == 0) 7 ++ noDst f ++
          (if f.sa.toNat < 256 then need (!f.u) 4 ++ vForm f.sa.toNat pair
           else if f.sa.toNat < 320 then need f.u 4 else if f.sa.toNat < 377 then [3] else [2]),
        srcs := [(f.sa.toNat, span pair)], dsts := [], bob := false, sup := false, helper := some 0x63 }
  | .spop f =>
      let pair := mfld f 0 0 == 1
      { faults := need (f.lenCode == 0 && mfld f 5 1 == 0 && f.sb == 0 && f.sc == 0 && f.sa == 0 && !f.ws) 7 ++
          dstForm f pair,
        srcs := [], dsts := [(f.dst.toNat, span pair)], bob := false, sup := false, helper := some 0x63 }
  | .add f => intForm f 2 true none (need (f.lenCode == 0 || f.sb == 324) 7)
  | .sub f => intForm f 2 true none []
  | .mul f => intForm f 2 true none []
  | .mulhi f => intForm f 2 false none []
  | .mad f => intForm f 3 true none []
  | .min f => intForm f 2 false none []
  | .max f => intForm f 2 false none []
  | .abs f => intForm f 1 true none (need (intSigned (mfld f 3 0)) 7)
  | .neg f => intForm f 1 true none []
  | .and f => intForm f 2 false none []
  | .or f => intForm f 2 false none []
  | .xor f => intForm f 2 false none []
  | .not f => intForm f 1 false none []
  | .sel f =>
      let g := intForm f 2 false none []
      { g with
        faults := (g.faults.filter (fun r => r != 7)) ++
          need (mfld f 5 5 == 0 && mfld f 3 0 < 8 && mfld f 4 4 == 0 && !(f.ws && f.dst != 0)) 7 ++
          lenForm f true true (intWidth (mfld f 3 0) == 64) ++
          (if 352 ≤ f.sc.toNat ∧ f.sc.toNat < 368 then [] else badClass f.sc.toNat),
        srcs := g.srcs ++ [(f.sc.toNat, 1)] }
  | .mov f => intForm f 1 false none []
  | .ldi f => intForm f 1 false none (need (f.sa == 324 && f.lenCode != 0) 7)
  | .iota f => { intForm f 2 false none (need (!f.u) 4) with bob := false }
  | .shl f => intForm f 2 false none []
  | .shr f => intForm f 2 false none []
  | .sra f => intForm f 2 false none []
  | .rot f => intForm f 2 false none []
  | .bfe f => intForm f 2 false (some 1) (no64 f f.sb)
  | .bfi f => intForm f 3 false (some 2) (no64 f f.sc)
  | .popc f => intForm f 1 false none []
  | .clz f => intForm f 1 false none []
  | .ctz f => intForm f 1 false none []
  | .brev f => intForm f 1 false none []
  | _ => Form.none

/-- The float majors (R69 to R73), conversions (R90 to R96), lane movement (R74 to R76), masks (R77, R78), system
registers (R64) and indirect access (R79, R80). -/
def formB : Instr → Form
  | .fadd f => floatForm f 2 false [0, 1, 2, 3, 4] []
  | .fsub f => floatForm f 2 false [0, 1, 2, 3, 4] []
  | .fmul f => floatForm f 2 false [0, 1, 2, 3, 4] []
  | .fma f => floatForm f 3 false [0, 1, 2, 3, 4] []
  | .fmin f => floatForm f 2 true [0, 1, 2, 3, 4] []
  | .fmax f => floatForm f 2 true [0, 1, 2, 3, 4] []
  | .frnd f => floatForm f 1 false [0, 1, 2, 3, 4] []
  | .fclass f =>
      let t := mfld f 2 0
      let pair := floatWidth t == 64
      let g := floatForm f 1 true [0, 1, 2, 3, 4] []
      { g with
        faults := need (mfld f 5 3 == 0 && decide (t < 5)) 7 ++ lenForm f true true pair ++
          (if floatWidth t = 16 then imm16Form f [f.sa.toNat] else []) ++ zero f.sb ++ zero f.sc ++
          srcForm f.u f.sa.toNat pair ++ dstForm f pair }
  | .fcmp f =>
      let t := mfld f 2 0
      cmpForm f (need (mfld f 5 3 == 0 && decide (t < 4) && scfld f 8 3 == 0) 7 ++
        lenForm f true true (floatWidth t == 64) ++
        (if floatWidth t = 16 then imm16Form f [f.sa.toNat, f.sb.toNat] else [])) (floatWidth t == 64)
  | .fdiv f => floatForm f 2 false [0, 1, 2, 3] []
  | .fsqrt f => floatForm f 1 false [0, 1, 2, 3] []
  | .frcp f => floatForm f 1 false [0, 1, 2, 3] []
  | .frsq f => floatForm f 1 false [0, 1, 2, 3] []
  | .fex2 f => floatForm f 1 false [0, 2, 3] []
  | .flg2 f => floatForm f 1 false [0, 2, 3] []
  | .fsin f => floatForm f 1 false [0, 2, 3] []
  | .fcos f => floatForm f 1 false [0, 2, 3] []
  | .cvt f =>
      let s := scfld f 7 4
      let d := scfld f 3 0
      let sp := typeWidth s == 64
      let dp := typeWidth d == 64
      { arith f (need (decide (mfld f 5 3 ≤ 5) && mfld f 1 0 == 0 && scfld f 8 8 == 0 && decide (s < 12) &&
          decide (d < 12)) 7 ++ lenForm f true true sp ++
          (if s = 10 ∨ s = 11 then imm16Form f [f.sa.toNat] else []) ++ zero f.sb) [(f.sa.toNat, sp)] dp f.u with
        srcs := [(f.sa.toNat, span sp)] }
  | .cvtNarrow f =>
      let n := scfld f 4 0
      arith f (need (!f.u) 4 ++ need (decide (mfld f 5 3 ≤ 5) && mfld f 1 0 == 0 && scfld f 8 6 == 0) 7 ++
        (if 20 ≤ n then [9] else need ((decide (3 ≤ n) && decide (n ≤ 7)) || decide (16 ≤ n)) 7) ++
        lenForm f true true false ++ zero f.sb) [(f.sa.toNat, false)] false false
  | .mxpk f =>
      let n := scfld f 4 0
      arith f (need (!f.u) 4 ++ need (decide (mfld f 5 3 ≤ 5) && mfld f 2 0 == 0 && scfld f 8 5 == 0) 7 ++
        (if 20 ≤ n then [9] else need (decide (8 ≤ n) && decide (n ≤ 13)) 7) ++
        lenForm f true true false ++ zero f.sb) [(f.sa.toNat, false)] false false
  | .mxunpk f =>
      let n := scfld f 4 0
      arith f (need (!f.u) 4 ++ need (decide (mfld f 5 3 ≤ 5) && mfld f 2 0 == 0 && scfld f 8 5 == 0) 7 ++
        (if 20 ≤ n then [9] else need (decide (8 ≤ n) && decide (n ≤ 13)) 7) ++
        lenForm f true true false ++ zero f.sb) [(f.sa.toNat, false)] false false
  | .vdot f =>
      let g := arith f (need (!f.u) 4 ++ need (f.mod == 0) 7 ++ lenForm f true true false ++
        (if f.sb.toNat < 256 then [] else badClass f.sb.toNat)) [(f.sa.toNat, false), (f.sc.toNat, false)] false false
      { g with srcs := g.srcs ++ (if f.sb.toNat < 256 then [(f.sb.toNat, 1)] else []) }
  | .getfmt f => uniForm f true false false
      (need (mfld f 5 4 == 0 && decide (mfld f 3 0 < 6)) 7 ++ zero f.sa ++ zero f.sb ++ zero f.sc) (dstW f true) []
      true false none
  | .setfmt f => uniForm f true true false
      (need (mfld f 5 4 == 0 && decide (mfld f 3 0 < 6)) 7 ++ wImm f.sa.toNat ++ zero f.sb ++ zero f.sc ++
      need (!(f.sa == 324 && fmtReserved (mfld f 3 0) f.imm32.toNat)) 9) (noDst f) [f.sa] true false none
  | .shuf f => laneForm f true false (zero f.sc) (laneDst f (typeWidth (mfld f 3 0) == 64))
      (typeWidth (mfld f 3 0) == 64)
  | .lrot f => laneForm f true true (zero f.sc) (laneDst f (typeWidth (mfld f 3 0) == 64))
      (typeWidth (mfld f 3 0) == 64)
  | .bcast f => laneForm f true true (zero f.sc) (laneDst f (typeWidth (mfld f 3 0) == 64))
      (typeWidth (mfld f 3 0) == 64)
  | .scan f => laneForm f false false
      (need (scfld f 8 4 == 0 && decide (scfld f 2 0 < 6) && (decide (mfld f 3 0 < 8) || decide (scfld f 2 0 < 3))) 7)
      (laneDst f (typeWidth (mfld f 3 0) == 64)) (typeWidth (mfld f 3 0) == 64)
  | .redw f => laneForm f false false
      (need (scfld f 8 3 == 0 && decide (scfld f 2 0 < 6) && (decide (mfld f 3 0 < 8) || decide (scfld f 2 0 < 3))) 7)
      (laneDst f (typeWidth (mfld f 3 0) == 64)) (typeWidth (mfld f 3 0) == 64)
  | .sortk f => laneForm f false false (zero f.sc ++ need (decide (mfld f 3 0 < 8)) 7) (laneDst f false) false
  | .ballot f => laneForm f false false (zero f.sc) (kDst f) false
  | .kand f => maskForm f 2 true false
  | .kor f => maskForm f 2 true false
  | .kxor f => maskForm f 2 true false
  | .kandn f => maskForm f 2 true false
  | .knot f => maskForm f 1 true false
  | .kpop f => maskForm f 1 false true
  | .kfirst f => maskForm f 1 false true
  | .kmov f => maskForm f 1 true true
  | .cmp f =>
      let t := mfld f 3 0
      { cmpForm f (need (mfld f 5 4 == 0 && decide (t < 8) && scfld f 8 3 == 0 && decide (scfld f 2 0 < 6)) 7 ++
          lenForm f true true (intWidth t == 64)) (intWidth t == 64) with bob := false }
  | .csrr f => uniForm f true false false (need (f.mod == 0) 7 ++ zero f.sa ++ zero f.sb ++
      need (decide (f.sc.toNat < 8)) 3) (dstW f true) [] true false none
  | .clk f => uniForm f true false false (need (f.mod == 0) 7 ++ zero f.sa ++ zero f.sb ++ zero f.sc) (dstW f true) []
      true false none
  | .csrw f => uniForm f true true true (need (f.mod == 0) 7 ++ wImm f.sa.toNat ++ zero f.sb ++
      need (decide (f.sc.toNat < 8)) 3) (noDst f) [f.sa] true false none
  | .rgeti f =>
      let d := mfld f 0 0 == 1
      { arith f (need (mfld f 4 1 == 0) 7 ++ lenForm f true true d ++ no64 f f.sa ++ no64 f f.sb ++ zero f.sc)
          [(f.sa.toNat, false), (f.sb.toNat, false)] d false with bob := false }
  | .rseti f =>
      let d := mfld f 0 0 == 1
      { faults := need (mfld f 4 1 == 0) 7 ++ need (!f.u) 4 ++ lenForm f true true d ++ no64 f f.sa ++ no64 f f.sb ++ noDst f ++
          srcForm false f.sa.toNat false ++ srcForm false f.sb.toNat false ++ srcForm false f.sc.toNat d,
        srcs := [(f.sa.toNat, 1), (f.sb.toNat, 1), (f.sc.toNat, span d)], dsts := [], bob := false, sup := false,
        helper := none }
  | _ => Form.none

/-- Scratchpads (R130, R136), barriers (R144, R154), gathers and copies (R174, R180, R191), atomics (R196, R205),
fences (R227, R230), hints (R170, R172), translation (R239, R244), procedural (R268, R270). -/
def formC : Instr → Form
  | .lds f => spForm f (intWidth (mfld f 3 0)) true [] (need (mfld f 5 4 == 0 && decide (mfld f 3 0 < 8)) 7 ++
      lenForm f true true false ++ zero f.sc)
  | .sts f => spForm f (intWidth (mfld f 3 0)) false [f.sc.toNat] (need (mfld f 5 4 == 0 && decide (mfld f 3 0 < 8)) 7 ++
      lenForm f true true false)
  | .tmprobe f => uniForm f true true false (need (mfld f 5 1 == 0) 7 ++ spUni f.sa.toNat ++ spUni f.sb.toNat ++
      zero f.sc) (dstW f true) [f.sa, f.sb] true false none
  | .ldp f => spForm f (intWidth (mfld f 3 0)) true [] (need (mfld f 4 4 == 0 && decide (mfld f 3 0 < 8)) 7 ++
      lenForm f true true false ++ zero f.sc)
  | .stp f => spForm f (intWidth (mfld f 3 0)) false [f.sc.toNat] (need (mfld f 4 4 == 0 && decide (mfld f 3 0 < 8)) 7 ++
      lenForm f true true false)
  | .palloc f => uniForm f true true false (need (mfld f 5 1 == 0) 7 ++
      (if mfld f 0 0 = 1 then zero f.sa else spUni f.sa.toNat) ++ zero f.sb ++ zero f.sc) (dstW f true)
      (if mfld f 0 0 = 1 then [] else [f.sa]) true false none
  | .pfree f => uniForm f true false false (need (f.mod == 0) 7 ++ spUni f.sa.toNat ++ zero f.sb ++ zero f.sc) (noDst f)
      [f.sa] true false none
  | .atms op f =>
      let t := mfld f 3 0
      let cas := op.toNat == 7
      spForm f (typeWidth t) true ([f.sc.toNat] ++ (if cas then [f.sd] else []))
        (need (!(mfld f 4 4 == 1 && mfld f 5 5 == 0)) 7 ++
          need ([2, 3, 6, 7, 8].contains t && (if op.toNat = 8 then t == 8
            else if op.toNat < 6 then decide (t < 8) else true)) 7 ++
          lenForm f (!cas) (!cas) cas ++
          (if cas then need (f.dst2 == 0 && f.xmod == 0 && f.se == 324 && f.imm32b == 0) 7 else []))
  | .barinit f => barForm f (mfld f 3 0 == 0) true (dstTab f false) true
  | .arrive f => barForm f (mfld f 3 0 == 0) false (noDst f) true
  | .arrivex f => barForm f (mfld f 3 0 == 0) true (noDst f) true
  | .wait f => barForm f (mfld f 3 2 == 0 && (if mfld f 1 1 = 1 then f.sc == 0 else mfld f 0 0 == 0))
      (mfld f 1 1 == 0) (noDst f) true
  | .waitc f => uniForm f true true false (need (mfld f 5 1 == 0) 7 ++ ctrForm f.sa.toNat ++ wImm f.sb.toNat ++ zero f.sc ++
      oneImm f [f.sb]) (noDst f) [f.sb] false false (some 7)
  | .tryw f => barForm f (mfld f 3 2 == 0 && (if mfld f 1 1 = 1 then f.sc == 0 else mfld f 0 0 == 0))
      (mfld f 1 1 == 0) (dstTab f false) true
  | .trywC f => uniForm f true true false (need (mfld f 5 3 == 0 && mfld f 2 2 == 1 && mfld f 1 0 == 0) 7 ++ ctrForm f.sa.toNat ++
      wImm f.sb.toNat ++ zero f.sc ++ oneImm f [f.sb]) (dstTab f false) [f.sb] false false (some 7)
  | .phase f => barForm f (mfld f 3 2 == 0) false (dstTab f false) true
  | .barinv f => barForm f (mfld f 3 0 == 0) false (noDst f) true
  | .ldg f =>
      let pair := intWidth (mfld f 3 0) == 64
      { faults := need (mfld f 5 4 == 0 && decide (mfld f 3 0 < 8)) 7 ++ lenForm f true true false ++ need (!f.ws) 7 ++
          baseForm f.u f.sa.toNat ++ offForm f.u f.sb.toNat ++ dstForm f pair ++
          (if 336 ≤ f.sc.toNat ∧ f.sc.toNat < 352 then [] else badClass f.sc.toNat) ++
          need (f.lenCode == 0 || f.sb == 324) 7,
        srcs := [(f.sa.toNat, 1), (f.sb.toNat, 1)], dsts := [(f.dst.toNat, span pair)], bob := false, sup := false,
        helper := none }
  | .stg f =>
      let pair := intWidth (mfld f 3 0) == 64
      { faults := need (mfld f 5 4 == 0 && decide (mfld f 3 0 < 8)) 7 ++ lenForm f true true false ++ noDst f ++
          baseForm f.u f.sa.toNat ++ offForm f.u f.sb.toNat ++ srcForm f.u f.sc.toNat pair ++
          need (f.u == (uniformCode f.sb.toNat && uniformCode f.sc.toNat)) 4 ++
          need (f.lenCode == 0 || f.sb == 324) 7,
        srcs := [(f.sa.toNat, 1), (f.sb.toNat, 1), (f.sc.toNat, span pair)], dsts := [], bob := false, sup := false,
        helper := none }
  | .cpy f => copyForm f (mfld f 1 0 == 0) true false false []
  | .spat f => copyForm f (mfld f 1 1 == 0) false false false []
  | .cpz f => copyForm f (mfld f 1 0 == 0) true true false []
  | .cpfill f => copyForm f (mfld f 3 0 == 0) true false true []
  | .cpx f => copyForm f (mfld f 5 4 == 1 && mfld f 1 0 == 0) true true false []
  | .atg op f => atgForm f op.toNat true
  | .redg op f => atgForm f op.toNat false
  | .atqPush f => atqForm f
  | .atqPop f => atqForm f
  | .fence f => uniForm f true false false (need (mfld f 5 4 != 0 && mfld f 3 1 != 7 && mfld f 0 0 == 0) 7 ++ zero f.sa ++
      zero f.sb ++ zero f.sc) (noDst f) [] true false none
  | .fencer f => uniForm f true true false (need (mfld f 5 4 != 0 && mfld f 3 1 != 7 && mfld f 0 0 == 0 &&
      scfld f 8 2 == 0) 7 ++ wTab f.sa.toNat ++ wTabImm f.sb.toNat ++ need (f.lenCode == 0 || f.sb == 324) 7) (noDst f)
      [f.sa, f.sb] true false none
  | .trig f => uniForm f true false false (need (f.mod == 0) 7 ++ zero f.sa ++ zero f.sb ++ zero f.sc) (noDst f) [] true
      false (some 7)
  | .hint f => uniForm f true true false (need (mfld f 5 4 == 0) 7 ++ wTab f.sa.toNat ++ wImm f.sb.toNat ++
      wImm f.sc.toNat ++ oneImm f [f.sb, f.sc]) (dstTab f true) [f.sa, f.sb, f.sc] true false none
  | .step f => uniForm f true true false (need (f.mod == 0) 7 ++ wImm f.sa.toNat ++ zero f.sb ++ zero f.sc ++
      oneImm f [f.sa]) (dstTab f true) [f.sa] true false (some 7)
  | .evict f => uniForm f true true false (need (f.mod == 0) 7 ++ wTab f.sa.toNat ++ wImm f.sb.toNat ++ zero f.sc ++
      oneImm f [f.sb]) (dstTab f true) [f.sa, f.sb] true false none
  | .pin f => uniForm f true true false (need (mfld f 5 1 == 0) 7 ++ wTab f.sa.toNat ++ wImm f.sb.toNat ++ zero f.sc ++
      oneImm f [f.sb]) (dstTab f true) [f.sa, f.sb] true false (some 7)
  | .pmap f => uniForm f true false false (need (mfld f 5 4 == 0 && mfld f 0 0 == 0 && scfld f 8 6 == 0 &&
      decide (12 ≤ scfld f 5 0) && decide (scfld f 5 0 ≤ 32)) 7 ++ wTab f.sa.toNat ++ zero f.sb) (dstTab f false) [f.sa]
      false true (some 7)
  | .tlbinv f => uniForm f true true false (need (f.mod == 0) 7 ++ wTab f.sa.toNat ++ wTabImm f.sb.toNat ++ zero f.sc ++
      need (f.lenCode == 0 || f.sb == 324) 7) (noDst f) [f.sa, f.sb] false true (some 7)
  | .tprobe f => uniForm f true false false (need (f.mod == 0) 7 ++ wTab f.sa.toNat ++ zero f.sb ++ zero f.sc)
      (dstTab f false) [f.sa] false true (some 7)
  | .migr f => uniForm f true true false (need (f.mod == 0) 7 ++ wTab f.sa.toNat ++ wTabImm f.sb.toNat ++ zero f.sc ++
      need (f.lenCode == 0 || f.sb == 324) 7) (dstTab f false) [f.sa, f.sb] false true (some 7)
  | .pfillDone f => uniForm f true false false (need (f.mod == 0) 7 ++ zero f.sa ++ zero f.sb ++ zero f.sc)
      (need (f.dst == 0) 7) [] true false (some 7)
  | .pfillFail f => uniForm f true false false (need (f.mod == 0 && scfld f 8 2 == 0 && scfld f 1 0 != 0 &&
      scfld f 1 0 != 3) 7 ++ zero f.sa ++ zero f.sb) (need (f.dst == 0) 7) [] true false (some 7)
  | .pstate f => uniForm f true false false (need (f.mod == 0) 7 ++ wTab f.sa.toNat ++ zero f.sb ++ zero f.sc)
      (dstTab f true) [f.sa] true false none
  | .preset f => uniForm f true true false (need (f.mod == 0) 7 ++ wTab f.sa.toNat ++ wTabImm f.sb.toNat ++ zero f.sc ++
      need (f.lenCode == 0 || f.sb == 324) 7) (dstTab f true) [f.sa, f.sb] true false (some 7)
  | _ => Form.none

/-- Helpers (R280, R284), rings (R294, R296), matrix (R309, R319), raster (R334, R336, R340), shading (R346, R354),
scheduling (R367, R373), traps (R381, R383), monitors (R402). -/
def formD : Instr → Form
  | .recruit f => lane0 f (need (f.lenCode == 2 && f.mod == 0 && !f.ws && f.xmod == 0 && f.dst2 == 0 && f.se == 324 &&
      f.sd == 324) 7 ++ vForm f.dst.toNat false ++ vwForm f.sa.toNat ++ vwForm f.sb.toNat ++
      (if f.sc = 324 then [] else vwForm f.sc.toNat)) [(f.sa.toNat, 1), (f.sb.toNat, 1), (f.sc.toNat, 1)]
      [(f.dst.toNat, 1)] none
  | .hget f => lane0 f (need (f.lenCode == 0 && mfld f 5 1 == 0 && !f.ws) 7 ++ zero f.sb ++ zero f.sc ++
      vForm f.dst.toNat (mfld f 0 0 == 1) ++
      need (!(decide (16 < f.dst.toNat + span (mfld f 0 0 == 1)) && decide (f.dst.toNat < 256))) 3 ++ vForm f.sa.toNat (mfld f 0 0 == 1)) [] [(f.dst.toNat, span (mfld f 0 0 == 1))]
      none
  | .hnext f => lane0 f (need (f.lenCode == 0 && f.mod == 0 && !f.ws) 7 ++ zero f.sa ++ zero f.sb ++ zero f.sc ++
      vForm f.dst.toNat false ++ need (!(decide (16 ≤ f.dst.toNat) && decide (f.dst.toNat < 256))) 3) [] [(f.dst.toNat, 1)] none
  | .hred f =>
      let op := mfld f 5 2
      let t := mfld f 1 0
      lane0 f (need (f.lenCode == 0 && decide (op ≤ 8) && decide (t < 3) && (decide (op ≤ 5) == decide (t < 2)) &&
        scfld f 8 2 == 0) 7 ++ noDst f ++ zero f.sb ++ srcForm false f.sa.toNat false) [(f.sa.toNat, 1)] [] none
  | .hjoin f => lane0 f (need (f.lenCode == 0 && f.mod == 0 && !f.ws && scfld f 8 3 == 0 && decide (scfld f 2 0 ≤ 4) &&
      (scfld f 2 0 != 0 || f.dst == 0)) 7 ++ zero f.sa ++ zero f.sb ++ vForm f.dst.toNat false) [] [] none
  | .hquit f => lane0 f (need (f.lenCode == 0 && f.mod == 0) 7 ++ noDst f ++ zero f.sa ++ zero f.sb ++ zero f.sc) [] [] none
  | .msend f => { uniForm f true false false (need (mfld f 4 0 == 0) 7 ++ wTab f.sa.toNat ++ wTab f.sb.toNat ++
      need (!(decide (312 < f.sb.toNat) && decide (f.sb.toNat < 320))) 3 ++ zero f.sc) (noDst f) [f.sa, f.sb] true false
      (some 7) with srcs := [(f.sa.toNat, 1), (f.sb.toNat, 8)] }
  | .mwait f => uniForm f true false false (need (f.mod == 0 && scfld f 8 4 == 0) 7 ++ zero f.sa ++ zero f.sb)
      (dstLane f true) [] true false none
  | .mack f => uniForm f true true false (need (f.mod == 0 && scfld f 8 4 == 0) 7 ++ zero f.sa ++ wTabImm f.sb.toNat ++
      need (f.lenCode == 0 || f.sb == 324) 7) (dstLane f true) [f.sb] true false none
  | .mackReg f => uniForm f true false false (need (mfld f 3 0 == 0 && mfld f 5 4 != 0) 7 ++ wTab f.sa.toNat ++
      wTab f.sb.toNat ++ zero f.sc) (dstLane f false) [f.sa, f.sb] true false none
  | .mackDrop f => uniForm f true false false (need (f.mod == 0 && scfld f 8 4 == 0) 7 ++ zero f.sa ++ zero f.sb) (noDst f)
      [] true false (some 7)
  | .mmx f => uniForm f false false true (need (mfld f 5 4 != 0 && mfld f 3 2 != 0 && mfld f 0 0 == 0 && f.xmod == 0 &&
      f.dst2 == 0 && (mfld f 1 1 == 1 || f.imm32b == 0)) 7 ++ wTab f.sa.toNat ++ wTab f.sb.toNat ++ wTab f.sc.toNat ++
      wTabImm f.sd ++
      wTabImm f.se)
      (noDst f) [f.sa, f.sb, f.sc, BitVec.ofNat 9 f.sd, BitVec.ofNat 9 f.se] true false (some 7)
  | .mringOpen f => uniForm f true true false (need (mfld f 5 1 == 0) 7 ++ wTabImm f.sa.toNat ++ zero f.sb ++ zero f.sc ++
      need (f.lenCode == 0 || f.sa == 324) 7) (dstLane f true) [f.sa] true false (some 7)
  | .mringClose f => uniForm f true true false (need (f.mod == 0) 7 ++ wTabImm f.sa.toNat ++ zero f.sb ++ zero f.sc ++
      need (f.lenCode == 0 || f.sa == 324) 7) (noDst f) [f.sa] true false (some 7)
  | .epi f => uniForm f false false true (need (mfld f 1 0 == 0 && f.xmod % 4 == 0 && f.dst2 == 0 && f.se == 324) 7 ++
      wTab f.sa.toNat ++ wTabImm f.sb.toNat ++ wTab f.sc.toNat ++ wTabImm f.se ++ complForm f) (noDst f) [f.sa, f.sb, f.sc, BitVec.ofNat 9 f.sd]
      true false (some 7)
  | .mfenceOp f => uniForm f true false false (need (f.mod == 0) 7 ++ zero f.sa ++ zero f.sb ++ zero f.sc) (noDst f) []
      true false (some 7)
  | .mprio f => uniForm f true true false (need (f.mod == 0) 7 ++ wTabImm f.sa.toNat ++ zero f.sb ++ zero f.sc ++
      need (f.lenCode == 0 || f.sa == 324) 7) (noDst f) [f.sa] true false (some 7)
  | .mstat f => uniForm f true true false (need (mfld f 5 1 == 0) 7 ++
      (if mfld f 0 0 = 1 then zero f.sa else wTabImm f.sa.toNat) ++ zero f.sb ++ zero f.sc ++
      need (f.lenCode == 0 || f.sa == 324) 7) (dstLane f true) (if mfld f 0 0 = 1 then [] else [f.sa]) true false none
  | .vxm f => lane0 f (need (mfld f 5 4 != 0 && mfld f 2 0 == 0 && !f.ws) 7 ++ lenForm f true true false ++
      need (f.lenCode == 0 || f.sc == 324) 7 ++
      (if mfld f 3 3 = 1 then vForm f.sa.toNat false else wOnly f.sa.toNat) ++ vForm f.sb.toNat false ++
      (if f.sc.toNat < 320 ∨ f.sc = 324 then [] else badClass f.sc.toNat) ++ vForm f.dst.toNat false)
      [(f.sa.toNat, 1), (f.sb.toNat, 1), (f.sc.toNat, 1)] [(f.dst.toNat, 1)] (some 7)
  | .primOpen f => uniForm f true false false (need (f.mod == 0 && scfld f 8 2 == 0) 7 ++ wTab f.sa.toNat ++ zero f.sb)
      (dstTab f true) [f.sa] true false (some 7)
  | .prim f => uniForm f true false false (need (f.mod == 0 && scfld f 8 2 == 0) 7 ++ wTab f.sa.toNat ++ zero f.sb)
      (dstTab f true) [f.sa] true false (some 7)
  | .primClose f => uniForm f true false false (need (f.mod == 0 && scfld f 8 2 == 0) 7 ++ zero f.sa ++ zero f.sb) (noDst f)
      [] true false (some 7)
  | .ptileBind f => uniForm f true false false (need (f.mod == 0 && scfld f 8 2 == 0) 7 ++ zero f.sa ++ zero f.sb)
      (dstTab f true) [] true false (some 7)
  | .ptile f => uniForm f true false false (need (f.mod == 0 && scfld f 8 2 == 0) 7 ++ zero f.sa ++ zero f.sb)
      (dstTab f true) [] false false (some 7)
  | .ptileDone f => uniForm f true false false (need (f.mod == 0) 7 ++ zero f.sa ++ zero f.sb ++ zero f.sc) (noDst f) []
      false false (some 7)
  | .edge f => lane0 f (need (f.lenCode == 0 && mfld f 5 2 == 0) 7 ++ vDst f true ++ pixForm f.sa.toNat ++
      vForm f.sb.toNat false ++ zero f.sc) [(f.sa.toNat, 1), (f.sb.toNat, 1)] [(f.dst.toNat, 2)] (some 7)
  | .edgev f => lane0 f (need (f.lenCode == 0 && mfld f 5 1 == 0) 7 ++ viDst f ++ pixForm f.sa.toNat ++ zero f.sb ++
      zero f.sc) [(f.sa.toNat, 1)] [] (some 7)
  | .vmask f => lane0 f (need (f.lenCode == 0 && f.mod == 0) 7 ++ vDst f true ++ viForm f.sa.toNat ++ zero f.sb ++ zero f.sc)
      [] [(f.dst.toNat, 2)] (some 7)
  | .vimov f => lane0 f (need (f.lenCode == 0 && mfld f 5 1 == 0) 7 ++ zero f.sb ++ zero f.sc ++
      (if mfld f 0 0 = 0 then vDst f false ++ viForm f.sa.toNat else viDst f ++ vForm f.sa.toNat false))
      (if mfld f 0 0 = 0 then [] else [(f.sa.toNat, 1)]) (if mfld f 0 0 = 0 then [(f.dst.toNat, 1)] else []) (some 7)
  | .zview f => lane0 f (need (f.lenCode == 0 && mfld f 5 4 != 3 && mfld f 2 0 == 0) 7 ++ vDst f true ++
      pixForm f.sa.toNat ++ vForm f.sb.toNat true ++ zero f.sc) [(f.sa.toNat, 1), (f.sb.toNat, 2)] [(f.dst.toNat, 2)]
      (some 7)
  | .ropW f => lane0 f (need (f.lenCode == 0 && f.mod == 0) 7 ++ noDst f ++ pixForm f.sa.toNat ++ vForm f.sb.toNat true ++
      srcForm false f.sc.toNat false) [(f.sa.toNat, 1), (f.sb.toNat, 2), (f.sc.toNat, 1)] [] (some 7)
  | .ropRel f => uniForm f true false false (need (mfld f 3 0 == 0 && !(mfld f 4 4 == 1 && mfld f 5 5 == 0)) 7 ++
      wTab f.sa.toNat ++ wTabImm f.sb.toNat ++ zero f.sc) (noDst f) [f.sa, f.sb] true false (some 7)
  | .texq f => lane0 f (need (f.lenCode == 0 && mfld f 5 1 == 0) 7 ++ vDst f false ++ wOnly f.sa.toNat ++
      vForm f.sb.toNat false ++ zero f.sc) [(f.sa.toNat, 1), (f.sb.toNat, 1)] [(f.dst.toNat, 1)] (some 7)
  | .texqInv f => uniForm f true false false (need (f.mod == 0) 7 ++ wTab f.sa.toNat ++ zero f.sb ++ zero f.sc) (noDst f)
      [f.sa] true false (some 7)
  | .texw f => uniForm f true false false (need (mfld f 5 2 == 0 && mfld f 1 0 != 0) 7 ++ wTab f.sa.toNat ++
      wTab f.sb.toNat ++ wTab f.sc.toNat) (noDst f) [f.sa, f.sb, f.sc] true false (some 7)
  | .texs f => lane0 f (need (f.mod == 0) 7 ++ lenForm f true true false ++ need (f.lenCode == 0 || f.sc == 324) 7 ++
      vDst f true ++ wOnly f.sa.toNat ++ vForm f.sb.toNat true ++
      (if f.sc.toNat < 320 ∨ f.sc = 324 then [] else badClass f.sc.toNat))
      [(f.sa.toNat, 1), (f.sb.toNat, 2), (f.sc.toNat, 1)] [(f.dst.toNat, 2)] (some 7)
  | .matev f => lane0 f (need (f.lenCode == 2 && mfld f 5 2 == 0 && mfld f 1 0 != 0 && decide (f.imm32b < 16) &&
      f.xmod % 4 == 0 && f.dst2 == 0 && f.se == 324) 7 ++ noDst f ++ wOnly f.sa.toNat ++ viForm f.sb.toNat ++
      vForm f.sc.toNat false ++ complForm f) [(f.sa.toNat, 1), (f.sc.toNat, 1), (f.sd, 1)] [] (some 7)
  | .matld f => uniForm f true true false (need (f.mod == 0 && scfld f 8 4 == 0) 7 ++ wTab f.sa.toNat ++ wTabImm f.sb.toNat ++
      need (f.lenCode == 0 || f.sb == 324) 7) (noDst f) [f.sa, f.sb] true false (some 7)
  | .vrate f => uniForm f true false false (need (f.mod == 0 && scfld f 8 2 == 0) 7 ++ zero f.sa ++ zero f.sb) (dstTab f true)
      [] true false (some 7)
  | .launch f => uniForm f true false false (need (f.mod == 0) 7 ++ wTab f.sa.toNat ++ zero f.sb ++ zero f.sc)
      (dstTab f true) [f.sa] true false (some 7)
  | .cjoin f => uniForm f true true false (need (f.mod == 0) 7 ++ wTab f.sa.toNat ++ wTabImm f.sb.toNat ++ zero f.sc ++
      need (f.lenCode == 0 || f.sb == 324) 7) (dstTab f true) [f.sa, f.sb] true false (some 7)
  | .tbset f => uniForm f true true false (need (f.mod == 0) 7 ++ wTabImm f.sa.toNat ++ zero f.sb ++ zero f.sc ++
      need (f.lenCode == 0 || f.sa == 324) 7) (noDst f) [f.sa] true false (some 7)
  | .tbclr f => uniForm f true true false (need (f.mod == 0) 7 ++ wTabImm f.sa.toNat ++ zero f.sb ++ zero f.sc ++
      need (f.lenCode == 0 || f.sa == 324) 7) (noDst f) [f.sa] true false (some 7)
  | .yield f => uniForm f true false false (need (f.mod == 0) 7 ++ zero f.sa ++ zero f.sb ++ zero f.sc) (noDst f) [] true
      false (some 7)
  | .morePut f => uniForm f true false false (need (f.mod == 0) 7 ++ wTab f.sa.toNat ++ zero f.sb ++ zero f.sc) (noDst f)
      [f.sa] true false (some 7)
  | .moreGet f => uniForm f true false false (need (f.mod == 0) 7 ++ zero f.sa ++ zero f.sb ++ zero f.sc) (dstTab f true) []
      false false (some 7)
  | .trap f => uniForm f true false false (need (f.mod == 0 && scfld f 8 8 == 0) 7 ++ zero f.sa ++ zero f.sb) (noDst f) []
      false false (some 7)
  | .tret f => uniForm f true false false (need (mfld f 5 1 == 0) 7 ++ noMask f ++ zero f.sa ++ zero f.sb ++ zero f.sc)
      (noDst f) [] false true (some 7)
  | .brkpt f => uniForm f true false false (need (f.mod == 0) 7 ++ zero f.sa ++ zero f.sb ++ zero f.sc) (noDst f) [] true
      false (some 7)
  | .rdtf f =>
      if mfld f 0 0 = 0 then uniForm f true false false (need (mfld f 5 1 == 0) 7 ++ noMask f ++ zero f.sa ++
        wTabImm f.sb.toNat) (dstW f false) [f.sb] false true (some 7)
      else { lane0 f (need (f.lenCode == 0 && mfld f 5 1 == 0 && f.sb == 324 && !f.ws) 7 ++ noMask f ++ zero f.sa ++
        vForm f.dst.toNat true) [] [(f.dst.toNat, 2)] (some 7) with sup := true }
  | .wrtf f =>
      if mfld f 0 0 = 0 then uniForm f true false false (need (mfld f 5 1 == 0) 7 ++ noMask f ++ wTab f.sa.toNat ++
        wTabImm f.sb.toNat) (noDst f) [f.sa, f.sb] false true (some 7)
      else { lane0 f (need (f.lenCode == 0 && mfld f 5 1 == 0 && f.sb == 324) 7 ++ noMask f ++ noDst f ++
        vForm f.sa.toNat true) [(f.sa.toNat, 2)] [] (some 7) with sup := true }
  | .sfence f => uniForm f true false false (need (f.mod == 0) 7 ++ noMask f ++ zero f.sa ++ zero f.sb ++ zero f.sc)
      (noDst f) [] true false (some 7)
  | .monset f => uniForm f true false false (need (f.mod == 0 && scfld f 8 6 == 0) 7 ++ wForm f.sa.toNat ++ zero f.sb)
      (noDst f) [f.sa] true false (some 7)
  | .rdmon f => uniForm f true false false (need (scfld f 8 6 == 0) 7 ++ zero f.sa ++ zero f.sb) (dstLane f false) [] true false
      (some 7)
  | _ => Form.none

/-- The form of an instruction. The two copies of major 0x16 take their own space rules from R180. -/
def formOf (i : Instr) : Form :=
  match i.opcode.1 with
  | 0x00 | 0x01 | 0x02 | 0x03 | 0x04 | 0x05 | 0x27 => formA i
  | 0x06 | 0x07 | 0x08 | 0x09 | 0x0A | 0x0B | 0x0C | 0x0D | 0x0E | 0x0F => formB i
  | 0x10 | 0x11 | 0x12 | 0x13 | 0x14 | 0x15 | 0x16 | 0x17 | 0x18 | 0x19 | 0x1A | 0x1B => formC i
  | _ => formD i

end Sys2Proof.Machine
end

