-- ==== Sys2Proof/WellFormed.lean ====
section
/-! DEFINITION. Which instructions are well formed: those whose encoding breaks no rule that the word alone decides
(R49, step 6 of R50). The checks that depend on the machine (REGS, latches, bobbin code, privilege) are made when the
instruction issues. -/

namespace Sys2Proof

/-- The minor opcode that an atomic carries names one of its operations (R141, R196, R205), and the counter form of `tryw` is the
one whose bit C is set (R144). -/
def Instr.opNamed : Instr → Bool
  | .atms op _ => decide (op ≤ 0x08)
  | .atg op _ => decide (op ≤ 0x0A)
  | .redg op _ => (decide (0x10 ≤ op) && decide (op ≤ 0x15)) || (decide (0x18 ≤ op) && decide (op ≤ 0x1A))
  | .tryw f => !f.mod.getLsbD 2
  | .trywC f => f.mod.getLsbD 2
  | _ => true

/-- A well-formed instruction, decided: its opcode names it, and no reason of R51 applies to its word. -/
def Instr.wfb (i : Instr) : Bool := i.opNamed && (Machine.formOf i).faults.isEmpty

/-- A well-formed instruction. -/
def Instr.wf (i : Instr) : Prop := i.wfb = true

end Sys2Proof
end

