-- ==== Sys2Proof/Decode.lean ====
section
/-! DEFINITION. From words to instructions and back (R41, R42, R48). Decoding is total and rejects by name; the encoder
after it is written from the same tables. -/

namespace Sys2Proof

/-- Bits [lo+n-1:lo] of a base word. -/
def field (w : Word) (lo n : Nat) : BitVec n := w.extractLsb' lo n

/-- The fields of a base word (R41) with what follows it. -/
def unpack (w : Word) (long : Long) : Fields :=
  { mod := field w 58 6, sc := field w 49 9, sb := field w 40 9, sa := field w 31 9, dst := field w 22 9,
    ws := w.getLsbD 21, kn := w.getLsbD 20, km := field w 16 4, u := w.getLsbD 3, ch := w.getLsbD 2, long := long }

/-- LEN of a form. -/
def Long.len : Long → BitVec 2
  | .none => 0
  | .imm32 _ => 1
  | .ext _ => 2

/-- The base word of an instruction's fields (R41). -/
def pack (mj mn : BitVec 6) (f : Fields) : Word :=
  f.mod ++ f.sc ++ f.sb ++ f.sa ++ f.dst ++ BitVec.ofBool f.ws ++ BitVec.ofBool f.kn ++ f.km ++ mn ++ mj ++
    BitVec.ofBool f.u ++ BitVec.ofBool f.ch ++ f.long.len

/-- What follows a base word, from LEN and the next 64 bits; none for LEN = 11. -/
def longOf (len : BitVec 2) (upper : Word) : Option Long :=
  if len = 0 then some .none
  else if len = 1 then some (.imm32 (upper.setWidth 32))
  else if len = 2 then some (.ext upper)
  else none

/-- Why an opcode names no instruction (R49): majors 0x3C to 0x3F, majors 0x28 to 0x3B, an unnamed minor. -/
def rejectOf (mj : BitVec 6) : Reject :=
  if 0x3C ≤ mj.toNat then .invalidMajor else if 0x28 ≤ mj.toNat then .reservedMajor else .unnamedMinor

/-- The instruction that a base word and the 64 bits after it stand for, or why they stand for none, in the order of
R50. -/
def decodeWords (w upper : Word) : Except Reject Instr :=
  match longOf (field w 0 2) upper with
  | none => .error .badLen
  | some long =>
    match Instr.ofOpcode (field w 4 6) (field w 10 6) (unpack w long) with
    | some i => .ok i
    | none => .error (rejectOf (field w 4 6))

/-- Length in bytes that LEN gives; 8 for LEN = 11 (R40). -/
def lenBytes (len : BitVec 2) : Nat := if len = 1 then 12 else if len = 2 then 16 else 8

/-- Why bytes are not an instruction: too few of them, or a rejected encoding. -/
inductive DecodeError where
  | tooShort
  | rejected (r : Reject)
deriving DecidableEq, Repr

/-- A little-endian number of bytes (R5). -/
def leNat : List Byte → Nat
  | [] => 0
  | b :: r => b.toNat + 256 * leNat r

/-- The first instruction of a list of bytes, and the bytes after it. -/
def decode (bs : List Byte) : Except DecodeError (Instr × List Byte) :=
  if bs.length < 8 then .error .tooShort
  else
    let w : Word := BitVec.ofNat 64 (leNat (bs.take 8))
    let n := lenBytes (field w 0 2)
    if bs.length < n then .error .tooShort
    else
      match decodeWords w (BitVec.ofNat 64 (leNat ((bs.drop 8).take (n - 8)))) with
      | .ok i => .ok (i, bs.drop n)
      | .error r => .error (.rejected r)

/-- The base word and the upper bits of an instruction; none for a step that no instruction word names. -/
def encodeWords (i : Instr) : Option (Word × Word) :=
  match i.fields with
  | none => none
  | some f =>
    let op := i.opcode
    some (pack (BitVec.ofNat 6 op.1) (BitVec.ofNat 6 op.2) f,
      match f.long with
      | .none => 0
      | .imm32 x => x.setWidth 64
      | .ext x => x)

/-- n bytes of a number, lowest first (R5). -/
def leBytes (x : Nat) : Nat → List Byte
  | 0 => []
  | n + 1 => BitVec.ofNat 8 x :: leBytes (x / 256) n

/-- The bytes of an instruction, lowest address first. -/
def encode (i : Instr) : List Byte :=
  match i.fields, encodeWords i with
  | some f, some (w, u) => leBytes w.toNat 8 ++ leBytes u.toNat (lenBytes f.long.len - 8)
  | _, _ => []

/-- What the decoder reads from an instruction whose bits are w, all bits above nbits zero. -/
def decodeTableWord (nbits w : Nat) : Option Instr :=
  match decode (leBytes (w % 2 ^ nbits) 16) with
  | .ok (i, _) => some i
  | .error _ => none

end Sys2Proof
end

