-- ==== Sys2Proof/Config.lean ====
section
/-! DEFINITION. What the manual leaves open as a VALUE: constants with no body, so that nothing can be proved of
the value they hold, and the functions of FIPS and RFC algorithms the manual names and does not define (R247, R253
to R255), which the model uses as uninterpreted functions. -/

namespace Sys2Proof.Config

/-- A free value: the n-th value drawn by the machine where the manual fixes none (assumption 2). -/
opaque freeBits : Nat → Word

/-- The ciphertext of AES-256-GCM under a key and an IV (R247). -/
opaque gcmCipher : BitVec 256 → BitVec 128 → List Byte → List Byte

/-- The tag of AES-256-GCM over a ciphertext, under a key and an IV (R247). -/
opaque gcmTag : BitVec 256 → BitVec 128 → List Byte → BitVec 128

/-- What AES-256-GCM deciphers a ciphertext to, under a key and an IV (R247). -/
opaque gcmPlain : BitVec 256 → BitVec 128 → List Byte → List Byte

/-- Bytes of the cells of a virgin tile, which the manual leaves open, by a free value drawn for the tile (R248; assumption 148). -/
opaque virginCell : Word → Nat → Byte

/-- Byte n of a save record, by a free value drawn for the save: no layout of the record is stated (R384; assumption 64). -/
opaque saveByte : Word → Nat → Byte

/-- The tag of an integrity-tree node under the device's internal key of a power-good (R249): of its level and number, its
parent's counter for it (MAJOR and MINOR), and its contents. -/
opaque nodeTag : Nat → Nat → Nat → Nat × Nat → Nat → BitVec 128

/-- ML-KEM-1024 decapsulation (FIPS 203) with the device's key of a power-good: the shared secret (R255). -/
opaque mlkemDecaps : Nat → List Byte → Option (List Byte)

/-- AES Key Wrap's unwrapping (RFC 3394) under a wrapping key; none where its check fails (R255). -/
opaque keyUnwrap : BitVec 256 → List Byte → Option (BitVec 256)

/-- SHAKE256 of some bytes, with an output of so many bytes (R253, R255). -/
opaque shake256 : List Byte → Nat → List Byte

/-- The 32 bytes drawn from the device's random source at a power-good (R255). -/
opaque powerRandom : Nat → List Byte

/-- The device's ML-KEM-1024 encapsulation key of a power-good (R254). -/
opaque encapKey : Nat → List Byte

/-- The device's attestation public key, generated at its first bring-up (R254). -/
opaque attestPublic : List Byte

/-- The SLH-DSA-SHAKE-256s signature over a report body (R254). -/
opaque attestSign : List Byte → List Byte

/-- Whether the firmware image of a die verifies (R253), by power-good and die: compute dies 0 to 7, then the memory base
dies. -/
opaque firmwareOk : Nat → Nat → Bool

/-- The firmware image of a die, by power-good and die (R253). -/
opaque firmwareImage : Nat → Nat → List Byte

/-- A number's bytes, lowest first. -/
def numBytes : Nat → Nat → List Byte
  | _, 0 => []
  | x, n + 1 => BitVec.ofNat 8 x :: numBytes (x / 256) n

/-- The number of some bytes, lowest first. -/
def bytesNum : List Byte → Nat
  | [] => 0
  | b :: r => b.toNat + 256 * bytesNum r

/-- SHAKE256 truncated to 256 bits. -/
def shakeKey (x : List Byte) : BitVec 256 := BitVec.ofNat 256 (bytesNum (shake256 x 32))

/-- SHAKE256 with a 512-bit output (R253). -/
def shake512 (x : List Byte) : List Byte := shake256 x 64

/-- The key that an import carries for a slot (R255): a 1,568-byte ciphertext, then a 40-byte wrapped key, whose wrapping
key is SHAKE256 of the shared secret and the slot number; none where a check fails. -/
def importKey (boots slot : Nat) (blob : List Byte) : Option (BitVec 256) :=
  if blob.length = 1608 then
    (mlkemDecaps boots (blob.take 1568)).bind (fun ss => keyUnwrap (shakeKey (ss ++ numBytes slot 1)) (blob.drop 1568))
  else none

/-- The key in use (R255): SHAKE256 of the imported key, the slot number and the power-good's random value. -/
def sealKey (boots slot : Nat) (k : BitVec 256) : BitVec 256 :=
  shakeKey (numBytes k.toNat 32 ++ numBytes slot 1 ++ powerRandom boots)

/-- What mask register n of the bobbin reads, which has none (R56, R81). -/
opaque bobbinMask : Nat → Word

/-- Whether `fma` of 0 and ∞ with a quiet NaN raises NV: IEEE 754 leaves it to each implementation (R70, R71). -/
opaque fmaNanInvalid : Bool

end Sys2Proof.Config
end

