-- ==== Sys2Proof/Machine/Upd.lean ====
section
/-! DEFINITION. The primitive updates every step of the machine is made of, and the monad that meanings are written
in: it reads the state and records updates, and the next state is the recorded updates applied in order. -/

namespace Sys2Proof.Machine

/-- The register stores of 32 bits. -/
inductive Bank32 where
  | v | vi | a
deriving DecidableEq, Repr

/-- The register stores of 64 bits, other than the group registers. -/
inductive Bank64 where
  | w | k
deriving DecidableEq, Repr

/-- A primitive update. -/
inductive Upd where
  | byte (sp : Space) (key : Nat) (x : Byte)
  | wipe (sp : Space) (lo hi : Nat)
  | reg32 (b : Bank32) (key : Nat) (x : BitVec 32)
  | reg64 (b : Bank64) (key : Nat) (x : Word)
  | csr (key : Nat) (x : Word)
  | wipeRegs (uid : Nat)
  | ctl (c : Ctl)
deriving DecidableEq, Repr

/-- The bits of a group register that are not reserved (R62, R63); number 1, `fmt`, is held per path. -/
def csrLayout (n : Nat) : Word :=
  if n = 0 then 0x377F
  else if n = 2 then 0xFFFFFFFFFFFFFFE0
  else if n = 3 then 0xFFFFFFFFFFFFF000
  else if n = 4 then 0xFFFFFFFFFFFFFFC0
  else if n = 5 then 0xFFFFFFFFFFFFFFC0
  else if n = 6 then 0xFFFF
  else if n = 7 then 0xF
  else 0

/-- The store of a space. -/
def State.mem (s : State) : Space → Memory
  | .tm => s.tm
  | .dp => s.dp
  | .dm => s.dm
  | .hm => s.hm
  | .rm => s.rm

/-- The state with another store for a space. -/
def State.setMem (s : State) (sp : Space) (m : Memory) : State :=
  match sp with
  | .tm => { s with tm := m }
  | .dp => { s with dp := m }
  | .dm => { s with dm := m }
  | .hm => { s with hm := m }
  | .rm => { s with rm := m }

/-- A team's keys in a register store are the span from uid * span (Machine/Access.lean). -/
def wipeTeam (uid span : Nat) {w : Nat} (m : Sparse w) : Sparse w := m.clear (uid * span) ((uid + 1) * span)

/-- The state after one primitive update. A group register keeps its reserved bits zero, whatever is written. -/
def applyUpd (s : State) : Upd → State
  | .byte sp key x => s.setMem sp ((s.mem sp).set key x)
  | .wipe sp lo hi => s.setMem sp ((s.mem sp).clear lo hi)
  | .reg32 .v key x => { s with v := s.v.set key x }
  | .reg32 .vi key x => { s with vi := s.vi.set key x }
  | .reg32 .a key x => { s with a := s.a.set key x }
  | .reg64 .w key x => { s with w := s.w.set key x }
  | .reg64 .k key x => { s with k := s.k.set key x }
  | .csr key x => { s with csr := s.csr.set key (x &&& csrLayout (key % 8)) }
  | .wipeRegs uid =>
    { s with v := wipeTeam uid (2 ^ 21) s.v, vi := wipeTeam uid (2 ^ 16) s.vi, a := wipeTeam uid (2 ^ 11) s.a,
             w := wipeTeam uid (2 ^ 14) s.w, k := wipeTeam uid (2 ^ 11) s.k, csr := wipeTeam uid (2 ^ 10) s.csr }
  | .ctl c => { s with ctl := c }

/-- The state after a list of updates. -/
def applyAll (s : State) : List Upd → State
  | [] => s
  | u :: r => applyAll (applyUpd s u) r

/-- The state as a meaning sees it, and the updates it has recorded, newest first. -/
structure Run where
  st : State
  log : List Upd

/-- A meaning: it reads the state and records updates. -/
abbrev M (α : Type) : Type := StateM Run α

/-- The state as it stands. -/
def getS : M State := do return (← get).st

/-- Record one update. -/
def emit (u : Upd) : M Unit := modify fun r => { st := applyUpd r.st u, log := u :: r.log }

/-- Record several updates in order. -/
def emits : List Upd → M Unit
  | [] => pure ()
  | u :: r => do emit u; emits r

/-- The updates that a meaning records, in order. -/
def updatesOf {α : Type} (m : M α) (s : State) : List Upd := (m { st := s, log := [] }).2.log.reverse

/-- What a meaning answers. -/
def valueOf {α : Type} (m : M α) (s : State) : α := (m { st := s, log := [] }).1

/-- The next state of a step whose updates a meaning records. -/
def runM (m : M Unit) (s : State) : Host.Outcome State Fault Refusal := .next (applyAll s (updatesOf m s))

/-- The control state. -/
def getC : M Ctl := do return (← getS).ctl

/-- Replace the control state. -/
def setC (c : Ctl) : M Unit := emit (.ctl c)

/-- Change the control state. -/
def modC (f : Ctl → Ctl) : M Unit := do setC (f (← getC))

/-- Run a meaning for each element. -/
def forEach {α : Type} : List α → (α → M Unit) → M Unit
  | [], _ => pure ()
  | x :: r, f => do f x; forEach r f

/-- Run a meaning for each element and collect the answers. -/
def forMap {α β : Type} : List α → (α → M β) → M (List β)
  | [], _ => pure []
  | x :: r, f => do
    let y ← f x
    let ys ← forMap r f
    return y :: ys

/-- Run a meaning when a condition holds. -/
def onlyIf (c : Bool) (m : M Unit) : M Unit := if c then m else pure ()

/-- A fresh number for an entry, a job, a message and so on. -/
def freshId : M Nat := do
  let c ← getC
  setC { c with nextId := c.nextId + 1 }
  return c.nextId

/-- A free value (assumption 2): nothing constrains it. -/
def drawFree : M Word := do
  let c ← getC
  setC { c with free := c.free + 1 }
  return Config.freeBits c.free

/-- A free choice among n alternatives (the first when there is only one). -/
def drawBelow (n : Nat) : M Nat := do
  if n ≤ 1 then return 0
  let x ← drawFree
  return x.toNat % n

end Sys2Proof.Machine
end

