-- ==== Sys2Proof/Machine/JobBytes.lean ====
section
/-! DEFINITION. Where the bytes of a job's source and destination lie (R180 to R187, R304, R352), and which of them have
been read and have landed. -/

namespace Sys2Proof.Machine

/-- Bits that an element of a format takes (R85). -/
def container (c : Nat) : Nat :=
  if c = 0 then 32 else if c ≤ 2 then 16 else if c = 7 ∨ c = 12 ∨ c = 16 then 4
  else if c = 17 ∨ c = 18 then 2 else if c = 19 then 1 else 8

/-- The bit planes of a format as operand A (R85). -/
def planes (c : Nat) : Nat :=
  if c = 0 then 16 else if c ≤ 2 then 8 else if c = 5 ∨ c = 6 ∨ c = 10 ∨ c = 11 then 3
  else if c = 7 ∨ c = 12 ∨ c = 16 then 2 else if 17 ≤ c then 1 else 4

/-- Elements of a row of operand A (R85). -/
def kOf (fa : Nat) : Nat := 4096 / container fa

/-- Bytes of one plane row of `cpx` (R186). -/
def planeBytes (fa : Nat) : Nat := if container fa = 1 then 512 else 2 * (4096 / container fa) / 8

/-- The lane, view and byte of the view that byte k of a `matev` belongs to. -/
def viewAt : List (Nat × Nat × Nat × Nat × Int) → Nat → Option ((Nat × Nat × Nat × Nat × Int) × Nat × Nat)
  | [], _ => none
  | x :: r, k =>
    let n := 8 * (x.2.2.1 + 1 - x.2.1)
    if k < n then some (x, x.2.1 + k / 8, k % 8) else viewAt r (k - n)

/-- An address of a space code (R180), wrapped. -/
def wrapSp (sp x : Nat) : Nat := if sp = 0 then x % 2 ^ 64 else x % 2 ^ 32

/-- Elements of a pattern (R183). -/
def Spat.count (r : Spat) : Nat := r.cnts.foldl (· * ·) 1

/-- Bytes of an element. -/
def Spat.es (r : Spat) : Nat := 2 ^ r.elog

/-- Bytes of an index. -/
def Spat.isz8 (r : Spat) : Nat := if r.isz < 2 then 4 else 8

/-- The index of element e in each dimension, dimension 0 innermost (R184). -/
def Spat.indexes (r : Spat) (e : Nat) : List Nat :=
  let c (i : Nat) : Nat := r.cnts.getD i 1
  [e % c 0, e / c 0 % c 1, e / (c 0 * c 1) % c 2, e / (c 0 * c 1 * c 2) % c 3]

/-- The address of element e, when its index is known (R184). -/
def Spat.elemAt (r : Spat) (idx : Nat → Option Int) (e : Nat) : Option Nat :=
  let is := r.indexes e
  let term (d : Nat) : Option Int :=
    (if r.ind && d == r.idim then idx (is.getD d 0) else some ((is.getD d 0 : Nat) : Int)).map (· * r.strs.getD d 0)
  match term 0, term 1, term 2, term 3 with
  | some a, some b, some c, some d =>
    some (wrapInt (if r.space = 0 then 64 else 32) ((r.base : Int) + a + b + c + d))
  | _, _, _, _ => none

/-- A source byte that the job has read. -/
def Job.gotByte (j : Job) (i : Nat) : Option Byte :=
  match j.got.find? (fun g => decide (g.1 ≤ i) && decide (i < g.1 + g.2.length)) with
  | some g => g.2[i - g.1]?
  | none => none

/-- n source bytes from index i as a number, when all have been read. -/
def Job.gotNat (j : Job) (i : Nat) : Nat → Option Nat
  | 0 => some 0
  | n + 1 =>
    match j.gotByte i, j.gotNat (i + 1) n with
    | some b, some r => some (b.toNat + 256 * r)
    | _, _ => none

/-- The source bytes read so far from index 0 on. -/
def Job.known (j : Job) : Nat → Nat → List Byte
  | 0, _ => []
  | n + 1, i =>
    match j.gotByte i with
    | some b => b :: j.known n (i + 1)
    | none => []

/-- Index t of an indirect pattern, as read by ISZ (R184); the table's bytes are source bytes from j.size on. -/
def Job.index (j : Job) (r : Spat) (t : Nat) : Option Int :=
  (j.gotNat (j.size + t * r.isz8) r.isz8).map (fun x =>
    if r.isz % 2 = 1 then sextNat (8 * r.isz8) x else ((x : Nat) : Int))

/-- The space and address of byte k of a pattern, and the element's address. -/
def Job.patternAt (j : Job) (r : Spat) (k : Nat) : Option (Nat × Nat × Nat) :=
  (r.elemAt (j.index r) (k / r.es)).map (fun p => (r.space, wrapSp r.space (p + k % r.es), p))

/-- Where byte k of a job's source lies. -/
def Job.srcAt (j : Job) (k : Nat) : Option (Nat × Nat) :=
  match j.kind with
  | .spat sc r =>
    if j.size ≤ k then some (r.isp, wrapSp r.isp (r.ibase + (k - j.size)))
    else if sc then some (j.ssp, wrapSp j.ssp (j.src.toNat + k))
    else (j.patternAt r k).map (fun x => (x.1, x.2.1))
  | .cpx _ _ st => some (j.ssp, wrapSp j.ssp (j.src.toNat + k / 512 * st + k % 512))
  | .fill _ _ | .matev .. => none
  | _ => some (j.ssp, wrapSp j.ssp (j.src.toNat + k))

/-- Where byte k of a job's destination lies. -/
def Job.dstAt (j : Job) (k : Nat) : Option (Nat × Nat) :=
  match j.kind with
  | .spat true r => (j.patternAt r k).map (fun x => (x.1, x.2.1))
  | .epi _ _ _ _ rb st _ _ => some (j.dsp, wrapSp j.dsp (j.dst.toNat + k / rb * st + k % rb))
  | .texw .. | .matld .. => none
  | .matev _ _ ls _ => (viewAt ls k).map (fun x => (j.dsp, wrapSp j.dsp (j.dst.toNat + (64 * x.1.1 + x.2.1) * 8 + x.2.2)))
  | _ => some (j.dsp, wrapSp j.dsp (j.dst.toNat + k))

/-- Bytes of a job's source, its index table included. -/
def Job.srcLen (j : Job) : Nat :=
  match j.kind with
  | .cpz clen => clen
  | .cpx _ rows _ => rows * 512
  | .fill _ _ | .matev .. => 0
  | .spat _ r => j.size + (if r.ind then r.cnts.getD r.idim 1 * r.isz8 else 0)
  | _ => j.size

/-- The smallest element address of a direct pattern, and how far the elements span (R184). -/
def Spat.range (r : Spat) : Nat × Nat :=
  let term (d : Nat) : Int := ((r.cnts.getD d 1 : Nat) - 1 : Int) * r.strs.getD d 0
  let lo := ((List.range 4).map (fun d => min 0 (term d))).sum
  let hi := ((List.range 4).map (fun d => max 0 (term d))).sum
  (wrapInt (if r.space = 0 then 64 else 32) ((r.base : Int) + lo), (hi - lo).toNat + r.es)

/-- Bytes of [lo, hi) that a job has landed. -/
def landedIn (j : Job) (lo hi : Nat) : Nat :=
  (j.landed.map (fun r => min (r.1 + r.2) hi - max r.1 lo)).sum

/-- A range of a 32-bit space, cut where it wraps: (address, bytes, index of the first). -/
def cutRange (a n i : Nat) : List (Nat × Nat × Nat) :=
  let x := a % 2 ^ 32
  if x + n ≤ 2 ^ 32 then [(x, n, i)] else [(x, 2 ^ 32 - x, i), (0, x + n - 2 ^ 32, i + 2 ^ 32 - x)]

/-- The destination ranges of a `matev` (R352). -/
def viewRanges (a : Nat) : List (Nat × Nat × Nat × Nat × Int) → Nat → List (Nat × Nat × Nat)
  | [], _ => []
  | (l, lo, hi, _) :: r, i =>
    let n := 8 * (hi + 1 - lo)
    cutRange (a + (64 * l + lo) * 8) n i ++ viewRanges a r (i + n)

/-- The destination ranges of a job: (address, bytes, index of the first). -/
def Job.ranges (j : Job) : List (Nat × Nat × Nat) :=
  match j.kind with
  | .epi _ _ _ _ rb st _ _ => ((List.range 64).map (fun i => cutRange (j.dst.toNat + i * st) rb (i * rb))).flatten
  | .texw .. | .matld .. => []
  | .matev _ _ ls _ => viewRanges j.dst.toNat ls 0
  | _ => cutRange j.dst.toNat j.size 0

/-- A job of the copy engines. -/
def Job.isCopy (j : Job) : Bool :=
  match j.kind with
  | .cpy | .fill _ _ | .cpz _ | .cpx _ _ _ | .spat _ _ => true
  | _ => false

/-- Every range that a job reads or writes: (space, address, bytes); an indirect pattern is not among them. -/
def Job.spans (j : Job) : List (Nat × Nat × Nat) :=
  j.ranges.map (fun r => (j.dsp, r.1, r.2.1)) ++
    (match j.kind with
     | .fill _ _ | .matev .. => []
     | .cpz clen => [(j.ssp, j.src.toNat, clen)]
     | .cpx _ rows st => (List.range rows).map (fun i => (j.ssp, wrapSp j.ssp (j.src.toNat + i * st), 512))
     | .epi _ _ _ _ _ _ bias _ => bias.toList.map (fun b => (b.1, b.2, 256))
     | .spat _ r =>
       [(j.ssp, j.src.toNat, j.size)] ++
         (if r.ind then [(r.isp, r.ibase, r.cnts.getD r.idim 1 * r.isz8)] else [(r.space, r.range.1, r.range.2)])
     | _ => [(j.ssp, j.src.toNat, j.size)])

/-- An indirect pattern of a space: which bytes it touches is known only as its table is read. -/
def Job.roams (j : Job) (sp : Nat) : Bool :=
  match j.kind with
  | .spat _ r => r.ind && r.space == sp
  | _ => false

/-- Whether destination byte k has landed. -/
def Job.landedAt (j : Job) (k : Nat) : Bool := j.landed.any (fun r => decide (r.1 ≤ k) && decide (k < r.1 + r.2))

/-- Bytes landed so far. -/
def Job.done (j : Job) : Nat := (j.landed.map (·.2)).sum

end Sys2Proof.Machine
end

