-- ==== Sys2Proof/Machine/Access.lean ====
section
/-! DEFINITION. Where each register lies, the lookups of teams, groups and paths, and the accessors through which
every read and write of a register goes (R54 to R64). -/

namespace Sys2Proof.Machine

/-- Key of lane register n in lane `lane` of party p of team uid; helper banks are parties 64 + g (R274). -/
def vKey (uid p lane n : Nat) : Nat := ((uid * 128 + p) * 64 + lane) * 256 + n

/-- Key of view-interval register n. -/
def viKey (uid p lane n : Nat) : Nat := ((uid * 128 + p) * 64 + lane) * 8 + n

/-- Key of arrival counter n. -/
def aKey (uid p n : Nat) : Nat := (uid * 128 + p) * 16 + n

/-- Key of uniform register n; 64 to 71 are the supervisor bank of w56 to w63 (R56). -/
def wKey (uid p n : Nat) : Nat := (uid * 128 + p) * 128 + n

/-- Key of mask register n. -/
def kKey (uid p n : Nat) : Nat := (uid * 128 + p) * 16 + n

/-- Key of group register n (R61). -/
def csrKey (uid p n : Nat) : Nat := (uid * 128 + p) * 8 + n

/-- The team of a number. -/
def Ctl.team (c : Ctl) (uid : Nat) : Team := (c.teams.find? (fun t => t.uid == uid)).getD default

/-- Whether there is a team of that number. -/
def Ctl.hasTeam (c : Ctl) (uid : Nat) : Bool := c.teams.any (fun t => t.uid == uid)

/-- The context of a number. -/
def Ctl.ctx (c : Ctl) (r : Nat) : Ctx := (c.ctxs.find? (fun x => x.rctx == r)).getD default

/-- A party of a team: a group or the bobbin. -/
def Team.party (t : Team) (who : Who) : Group :=
  match who with
  | .bobbin => t.bobbin.getD default
  | .group _ => (t.groups.find? (fun g => g.who == who)).getD default

/-- All parties of a team. -/
def Team.parties (t : Team) : List Group := t.groups ++ t.bobbin.toList

/-- The path of a number in a group. -/
def Group.path (g : Group) (pid : Nat) : Path := (g.paths.find? (fun p => p.pid == pid)).getD default

/-- The live paths of R97: of helper paths only the recruiter's own is one (R273). -/
def Group.live (g : Group) : List Path := g.paths.filter (fun p => p.helper.isNone || p.helper == g.recruit)

/-- Change a team. -/
def Ctl.updTeam (c : Ctl) (uid : Nat) (f : Team → Team) : Ctl :=
  { c with teams := c.teams.map (fun t => if t.uid == uid then f t else t) }

/-- Change a party of a team. -/
def Team.updParty (t : Team) (who : Who) (f : Group → Group) : Team :=
  match who with
  | .bobbin => { t with bobbin := t.bobbin.map f }
  | .group _ => { t with groups := t.groups.map (fun g => if g.who == who then f g else g) }

/-- Change a path of a group. -/
def Group.updPath (g : Group) (pid : Nat) (f : Path → Path) : Group :=
  { g with paths := g.paths.map (fun p => if p.pid == pid then f p else p) }

/-- Change a context. -/
def Ctl.updCtx (c : Ctl) (r : Nat) (f : Ctx → Ctx) : Ctl :=
  { c with ctxs := c.ctxs.map (fun x => if x.rctx == r then f x else x) }

/-- Change a team of the machine. -/
def modTeam (uid : Nat) (f : Team → Team) : M Unit := modC (fun c => c.updTeam uid f)

/-- Change a party of the machine. -/
def modGroup (uid : Nat) (who : Who) (f : Group → Group) : M Unit := modTeam uid (fun t => t.updParty who f)

/-- Change a path of the machine. -/
def modPath (p : PathId) (f : Path → Path) : M Unit := modGroup p.team p.who (fun g => g.updPath p.pid f)

/-- Change the host window. -/
def modHost (f : HostRegs → HostRegs) : M Unit := modC (fun c => { c with host := f c.host })

/-- Bring-up runs, and nothing has failed (R399). -/
def HostRegs.bringing (h : HostRegs) : Bool :=
  h.pstate == 3 && !h.devrdy && decide (h.stage < 7) && h.faild == 0 && h.failx == 0

/-- Report to the host. -/
def report (r : Report) : M Unit := modHost (fun h => { h with reports := h.reports ++ [r] })

/-- Group register n of a party. -/
def State.csrOf (s : State) (uid p n : Nat) : Word := s.csr.get (csrKey uid p n)

/-- The privilege level of a party: bits [13:12] of gst (R62). -/
def State.pl (s : State) (uid p : Nat) : Nat := wfld (s.csrOf uid p 0) 13 12

/-- Uniform register n as privilege level pl names it (R56). -/
def wIndex (n pl : Nat) : Nat := if 56 ≤ n ∧ pl = 1 then n + 8 else n

/-- Uniform register n of a party. -/
def State.wreg (s : State) (uid p n pl : Nat) : Word := s.w.get (wKey uid p (wIndex n pl))

/-- The update that writes uniform register n. -/
def updW (uid p n pl : Nat) (x : Word) : Upd := .reg64 .w (wKey uid p (wIndex n pl)) x

/-- The update that writes lane register n. -/
def updV (uid p lane n : Nat) (x : Nat) : Upd := .reg32 .v (vKey uid p lane n) (BitVec.ofNat 32 x)

/-- The updates that write an even pair (N46). -/
def updPair (uid p lane n : Nat) (x : Word) : List Upd :=
  [updV uid p lane n (x.toNat % 2 ^ 32), updV uid p lane (n + 1) (x.toNat / 2 ^ 32)]

/-- The update that sets the bits of m in a party's gst. -/
def updGst (s : State) (uid p : Nat) (m : Nat) : List Upd :=
  if m = 0 then [] else [.csr (csrKey uid p 0) (s.csrOf uid p 0 ||| wd m)]

/-- The updates of a result that lands in a register: extended to the destination's width (R18). -/
def updSink (uid : Nat) (r : RegSink) (x : Word) : List Upd :=
  let y : Nat := if r.sgn then wrapInt 64 (sextNat r.w x.toNat) else x.toNat % 2 ^ r.w
  if r.code < 256 then
    if r.w = 64 then updPair uid r.vp r.lane r.code (wd y) else [updV uid r.vp r.lane r.code (y % 2 ^ 32)]
  else [updW uid r.wp (r.code - 256) r.pl (wd y)]

/-- Everything an instruction's meaning looks at: the state at issue, the party and path that execute it, its fields,
and the lanes that execute (N41). -/
structure Env where
  s : State
  cur : Cur
  t : Team
  g : Group
  p : Path
  f : Fields
  ex : Word

/-- The team's number. -/
def Env.uid (e : Env) : Nat := e.t.uid

/-- The recruitment whose helper code this is, if any. -/
def Env.rec? (e : Env) : Option Recruit :=
  match e.p.helper with
  | none => none
  | some r => e.s.ctl.recruits.find? (fun x => x.id == r)

/-- The party whose uniform registers, counters and gst the path uses: the recruiter's in helper code (R274). -/
def Env.home (e : Env) : Nat :=
  match e.rec? with
  | some r => r.group
  | none => e.g.who.idx

/-- The party index of the path's lane registers. -/
def Env.vp (e : Env) : Nat := if e.p.helper.isSome then 64 + e.g.who.idx else e.g.who.idx

/-- Registers per lane: 16 in helper code (R55). -/
def Env.regs (e : Env) : Nat := if e.p.helper.isSome then 16 else e.g.regs

/-- The bobbin executes this. -/
def Env.bob (e : Env) : Bool := e.g.who == .bobbin

/-- The group's width. -/
def Env.gw (e : Env) : Nat := e.g.width

/-- The privilege level. -/
def Env.pl (e : Env) : Nat := e.s.pl e.uid e.home

/-- HST as the path reads it (R62, R274). -/
def Env.hst (e : Env) : Nat :=
  if e.p.helper.isSome then 2 else if e.g.recruit.isSome then 1 else 0

/-- gst as the path reads it. -/
def Env.gst (e : Env) : Word := (e.s.csrOf e.uid e.home 0 &&& ~~~(0x600 : Word)) ||| wd (e.hst * 512)

/-- Mask register n as data (R44, R57, R274). The bobbin has none (R56): what it reads there is open (assumption 114). -/
def Env.k (e : Env) (n : Nat) : Word :=
  if n = 0 then e.p.act
  else if e.bob then Config.bobbinMask n
  else if e.p.helper.isSome then e.p.hk.getD n 0 &&& gwMask e.gw
  else e.s.k.get (kKey e.uid e.g.who.idx n) &&& gwMask e.gw

/-- Lane register n of lane L. -/
def Env.v (e : Env) (n lane : Nat) : Nat := (e.s.v.get (vKey e.uid e.vp lane n)).toNat

/-- Uniform register n. -/
def Env.w (e : Env) (n : Nat) : Word := e.s.wreg e.uid e.home n e.pl

/-- Arrival counter n. -/
def Env.a (e : Env) (n : Nat) : Nat := (e.s.a.get (aKey e.uid e.home n)).toNat

/-- Latch bN of lane L (R58). -/
def Env.latch (e : Env) (n lane : Nat) : Word := (e.p.lat.getD n []).getD lane 0

/-- The slot a group lies in (R28, R60). -/
def Team.slotOf (t : Team) (g : Nat) : Nat := if t.hdr.pair then g % 8 else g % 4

/-- The read-only values (R7, R60). -/
def Env.readOnly (e : Env) (code lane : Nat) : Word :=
  if code = 325 then wd lane
  else if code = 326 then wd e.gw
  else if code = 327 then wd e.g.who.idx
  else if code = 368 then wd e.t.index
  else if code = 369 then wd e.t.ixbase
  else if code = 370 then wd (e.s.ctl.ctx e.t.rctx).stepc
  else if code = 371 then wd (e.s.ctl.cyc % 2 ^ 32)
  else if code = 372 then wd e.t.ixcount
  else if code = 373 then wd e.t.die
  else if code = 374 then wd e.t.core
  else if code = 375 then wd (e.t.slotOf e.g.who.idx)
  else if code = 376 then wd e.s.ctl.host.devid.toNat
  else 0

/-- Operand code c as lane L reads it (N55): a v register gives 32 bits, or the pair when `pair`; imm is what code
324 reads. -/
def Env.opnd (e : Env) (code lane : Nat) (pair : Bool) (imm : Word) : Word :=
  if code < 256 then
    if pair then wd (e.v code lane + 2 ^ 32 * e.v (code + 1) lane) else wd (e.v code lane)
  else if code < 320 then e.w (code - 256)
  else if code < 324 then e.latch (code - 320) lane
  else if code = 324 then imm
  else if 352 ≤ code ∧ code < 368 then e.k (code - 352)
  else e.readOnly code lane

/-- A w register or 324 as a uniform source: 324 reads IMM32 zero-extended, or zero in the 64-bit form. -/
def Env.usrc (e : Env) (code : Nat) : Word := e.opnd code 0 false e.f.imm32

/-- The uniform source of a 128-bit form: 324 reads IMM32B zero-extended (R180). -/
def Env.usrcB (e : Env) (code : Nat) : Word := e.opnd code 0 false (wd e.f.imm32b)

end Sys2Proof.Machine
end

