-- ==== Sys2Proof/Machine/Recording.lean ====
section
/-! DEFINITION. Monitor units and the recording of a value (R401). -/

namespace Sys2Proof.Machine

/-- The monitor m of a die; one that nothing has configured counts nothing (R401). -/
def Ctl.monitor (c : Ctl) (die m : Nat) : Monitor :=
  (c.mons.find? (fun x => x.die == die && x.m == m)).getD
    { die := die, m := m, rctx := none, cfg := 0, count := 0, min := 2 ^ 32 - 1, max := 0, bins := List.replicate 32 0, sampled := 0 }

/-- Replace a monitor. -/
def Ctl.setMonitor (c : Ctl) (x : Monitor) : Ctl :=
  { c with mons := x :: c.mons.filter (fun y => !(y.die == x.die && y.m == x.m)) }

/-- The configuration word without its reserved bits (R401). -/
def monCfg (x : Word) : Word := x &&& 0xFFFFFFFF001F80FF

/-- A monitor configured afresh (R402). -/
def Monitor.configure (x : Monitor) (rctx : Option Nat) (cfg : Word) : Monitor :=
  { x with rctx := rctx, cfg := monCfg cfg, count := 0, min := 2 ^ 32 - 1, max := 0, bins := List.replicate 32 0 }

/-- The bin of a value (R401). -/
def Monitor.bin (x : Monitor) (v : Nat) : Nat :=
  let base := wfld x.cfg 63 32
  if x.cfg.getLsbD 15 then (if v ≤ base then 0 else Nat.min 31 ((v - base) / 2 ^ wfld x.cfg 20 16))
  else if v = 0 then 0 else Nat.min 31 (ilog2 v + 1)

/-- A counter one higher; it stops at 2^32 - 1. -/
def bump (x : Nat) : Nat := min (x + 1) (2 ^ 32 - 1)

/-- One recording step (R401). -/
def Monitor.record (x : Monitor) (v : Nat) : Monitor :=
  let w := Nat.min v (2 ^ 32 - 1)
  let b := x.bin v
  { x with count := bump x.count, min := Nat.min x.min w, max := Nat.max x.max w, bins := x.bins.set b (bump (x.bins.getD b 0)) }

/-- Sources that are not of one context (R401). -/
def hostSource (src : Nat) : Bool := src == 5 || src == 6 || src == 7

/-- Every monitor of the die that observes the source records a value (R401). -/
def recordMon (die : Nat) (rctx : Option Nat) (src v : Nat) : M Unit := modC fun c =>
  { c with mons := c.mons.map (fun x =>
      if x.die == die && wfld x.cfg 7 0 == src && (hostSource src || (x.rctx.isSome && x.rctx == rctx)) then x.record v
      else x) }

end Sys2Proof.Machine
end

