-- ==== Sys2Proof/Machine/Seal.lean ====
section
/-! DEFINITION. Device memory below the programs: bytes at their point of coherence (R209), the memory-side cache (R168), the
sealed tiles (R245 to R252) and the integrity tree over their counters (R249), with its re-seals (R250). A node of the tree is
written back as soon as it changes (assumption 119); the cells of the array hold what was written, so that a second read of a
tile that fails gives what the first gave (R251; assumption 120). -/

namespace Sys2Proof.Machine

/-- n bytes at a location, as a number; the value at the point of coherence (R209). -/
def State.load (s : State) (l : Loc) : Nat → Nat
  | 0 => 0
  | n + 1 => ((s.mem l.sp).get l.key).toNat + 256 * s.load (l.plus 1) n

/-- n bytes at a location, lowest address first. -/
def State.loadBytes (s : State) (l : Loc) (n : Nat) : List Byte :=
  (List.range n).map (fun i => (s.mem l.sp).get (l.key + i))

/-- The updates that store bytes at a location. -/
def updBytes (l : Loc) : List Byte → List Upd
  | [] => []
  | b :: r => .byte l.sp l.key b :: updBytes (l.plus 1) r

/-- The updates that store the n low bytes of x at a location. -/
def updStore (l : Loc) (x n : Nat) : List Upd := updBytes l (bytesOf x n)

/-- Store the n low bytes of x. -/
def storeN (l : Loc) (x n : Nat) : M Unit := emits (updStore l x n)

/-- Store bytes. -/
def storeBytes (l : Loc) (bs : List Byte) : M Unit := emits (updBytes l bs)

/-- A device-memory location. -/
def dmLoc (pa : Nat) : Loc := { sp := .dm, key := pa }

/-- The stack of a device physical address (R158). -/
def stkOf (pa : Nat) : Nat := fld pa 41 38

/-- Whether OFF of a device physical address is below 0x2F_E000_0000 (R158). -/
def offOk (pa : Nat) : Bool := decide (fld pa 37 0 < 0x2FE0000000)

/-- The tile of an address (R247), its seal group and its number in the group. -/
def tileOf (pa : Nat) : Nat := pa / 1024
/-- The seal group, that is the tier page, of a tile (R247). -/
def groupOfTile (t : Nat) : Nat := t / 64

/-- The record of a tile; a tile that is not listed is virgin (R248). -/
def Ctl.tile (c : Ctl) (t : Nat) : Tile :=
  (c.tiles.find? (fun x => x.tile == t)).getD { tile := t, minor := 0, slot := 0, cipher := [], tag := 0, quarantined := false }

/-- Replace the record of a tile. -/
def Ctl.setTile (c : Ctl) (x : Tile) : Ctl :=
  { c with tiles := if x.minor == 0 && !x.quarantined then c.tiles.filter (fun y => y.tile != x.tile)
                    else x :: c.tiles.filter (fun y => y.tile != x.tile) }

/-- The major counter of a seal group. -/
def Ctl.sealGroup (c : Ctl) (g : Nat) : SealGroup :=
  (c.groups.find? (fun x => x.grp == g)).getD { grp := g, major := 0, tag := 0, resealing := none, renewing := false }

/-- Replace a seal group's record. -/
def Ctl.setGroup (c : Ctl) (x : SealGroup) : Ctl :=
  { c with groups := x :: c.groups.filter (fun y => y.grp != x.grp) }

/-- Whether the host declared the address unsealed for firmware (R167, R246). -/
def Ctl.unsealedAt (c : Ctl) (pa : Nat) : Bool :=
  c.host.unsealed.contains (pa / 65536)

/-- A node of the tree lies above a seal group (R249). -/
def TreeNode.covers (n : TreeNode) (g : Nat) : Bool :=
  (n.level == 1 && n.idx == g / 64) || (n.level == 2 && n.idx == g / 4096)

/-- Whether a seal group is being re-sealed, or a node above it re-seals its children (R249, R250). -/
def Ctl.groupResealing (c : Ctl) (g : Nat) : Bool :=
  (c.sealGroup g).resealing.isSome || (c.sealGroup g).renewing || c.tree.any (fun n => n.renewing && n.covers g)

/-- Whether a request to the tile waits for a re-seal (R250). -/
def Ctl.resealing (c : Ctl) (pa : Nat) : Bool := c.groupResealing (groupOfTile (tileOf pa))

/-- Tier pages of a stack's fast tier, and of a stack in all (R159). -/
def fastPages : Nat := 1020 * 1024
/-- Tier pages of a stack. -/
def stackPages : Nat := 3064 * 1024

/-- Tier pages that a die's record area takes on each of its two stacks (R193). -/
def Ctl.recPages (c : Ctl) : Nat := c.host.recArea / 131072

/-- A tier page of a record area: the last ones of each stack (assumption 121). No context reaches it (R193). -/
def Ctl.recordPage (c : Ctl) (pg : Nat) : Bool := decide (stackPages - c.recPages ≤ pg % 2 ^ 22)

/-- The 512 bits of a counter block, or of a node of the same layout (R248). -/
def counterBlock (major : Word) (minors : List Nat) : Nat :=
  major.toNat * 2 ^ 448 + ((List.range 64).map (fun t => minors.getD t 0 * 2 ^ (7 * t))).sum

/-- The minor counters of a seal group. -/
def Ctl.groupMinors (c : Ctl) (g : Nat) : List Nat := (List.range 64).map (fun i => (c.tile (64 * g + i)).minor)

/-- A node of level 1 or 2 of the integrity tree; one that is not listed is as bring-up wrote it (R249, R399). -/
def Ctl.node (c : Ctl) (level idx : Nat) : TreeNode :=
  (c.tree.find? (fun n => n.level == level && n.idx == idx)).getD
    { level := level, idx := idx, major := 0, minors := List.replicate 64 0, tag := 0, renewing := false }

/-- Replace a node. -/
def Ctl.setNode (c : Ctl) (n : TreeNode) : Ctl :=
  { c with tree := n :: c.tree.filter (fun x => !(x.level == n.level && x.idx == n.idx)) }

/-- A root counter. -/
def Ctl.rootCount (c : Ctl) (idx : Nat) : Word := ((c.roots.find? (fun r => r.idx == idx)).map (·.count)).getD 0

/-- A node's counter for one of its children: MAJOR and MINOR (R248, R249). -/
def TreeNode.counterOf (n : TreeNode) (child : Nat) : Nat × Nat := (n.major.toNat, n.minors.getD (child % 64) 0)

/-- The counter of a node's parent for it (R249). -/
def Ctl.parentCounter (c : Ctl) (level idx : Nat) : Nat × Nat :=
  if level = 2 then ((c.rootCount idx).toNat, 0) else (c.node (level + 1) (idx / 64)).counterOf idx

/-- The tag of a seal group's counter block (R249). -/
def Ctl.blockTag (c : Ctl) (g : SealGroup) : BitVec 128 :=
  Config.nodeTag c.host.boots 0 g.grp (c.parentCounter 0 g.grp) (counterBlock g.major (c.groupMinors g.grp))

/-- The tag of a node of level 1 or 2 (R249). -/
def Ctl.nodeTag (c : Ctl) (n : TreeNode) : BitVec 128 :=
  Config.nodeTag c.host.boots n.level n.idx (c.parentCounter n.level n.idx) (counterBlock n.major n.minors)

/-- The counter block of a seal group, and every node from it up to its root, pass their tags (R249). -/
def Ctl.countersPass (c : Ctl) (g : Nat) : Bool :=
  (c.groups.filter (fun x => x.grp == g)).all (fun x => x.tag == c.blockTag x) &&
  (c.tree.filter (fun n => n.covers g)).all (fun n => n.tag == c.nodeTag n)

/-- A node whose counter for a child rises; at 127 its children are re-sealed (R249, R250): the node, and whether they are. -/
def TreeNode.rise (n : TreeNode) (child : Nat) : TreeNode × Bool :=
  let i := child % 64
  if n.minors.getD i 0 = 127 then
    ({ n with major := n.major + 1, minors := (n.minors.map (fun m => if m = 0 then 0 else 1)).set i 2, renewing := true }, true)
  else ({ n with minors := n.minors.set i (n.minors.getD i 0 + 1) }, false)

/-- A node's counter for a child stands at 127: its next rise re-seals the children (R249). -/
def TreeNode.atTop (n : TreeNode) (child : Nat) : Bool := n.minors.getD (child % 64) 0 == 127

/-- The write-back of a seal group's counters would carry the MAJOR of a node past 2^64 - 1 (R249, R250). -/
def Ctl.treeFull (c : Ctl) (g : Nat) : Bool :=
  let full (n : TreeNode) (child : Nat) : Bool := n.atTop child && decide (n.major.toNat = 2 ^ 64 - 1)
  full (c.node 1 (g / 64)) g || full (c.node 2 (g / 4096)) (g / 64)

/-- The seal groups that hold live tiles below the nodes whose children the write-back of a group's counters re-seals (R249). -/
def Ctl.resealBelow (c : Ctl) (g : Nat) : List Nat :=
  ((c.tiles.map (fun x => groupOfTile x.tile)).dedup).filter (fun x =>
    ((c.node 1 (g / 64)).atTop g && x / 64 == g / 64) || ((c.node 2 (g / 4096)).atTop (g / 64) && x / 4096 == g / 4096))

/-- The counter block of a seal group has changed and is written back: its counter in its parent rises, the parent is written
back, and so on up to the root; every node whose counter or contents have changed takes a new tag (R249). -/
def Ctl.writeCounters (c0 : Ctl) (g : Nat) : Ctl :=
  let c := c0.setGroup (c0.sealGroup g)
  let n1 := (c.node 1 (g / 64)).rise g
  let n2 := (c.node 2 (g / 4096)).rise (g / 64)
  let r : TreeRoot := { idx := g / 4096, count := c.rootCount (g / 4096) + 1 }
  let d := (({ c with roots := r :: c.roots.filter (fun x => x.idx != r.idx) }).setNode n2.1).setNode n1.1
  let moved (n : TreeNode) : Bool := (n.level == 2 && n.idx == g / 4096) || (n.level == 1 &&
    (n.idx == g / 64 || (n2.2 && n.idx / 64 == g / 4096 && n.tag == c.nodeTag n)))
  { d with
    tree := d.tree.map (fun n => if moved n then { n with tag := d.nodeTag n } else n)
    groups := d.groups.map (fun x =>
      if x.grp == g || (n1.2 && x.grp / 64 == g / 64 && x.tag == c.blockTag x) then { x with tag := d.blockTag x } else x) }

/-- The key in use of a key slot (R255). -/
def Ctl.keyOf (c : Ctl) (slot : Nat) : Option (BitVec 256) := (c.host.kslots.find? (fun k => k.1 == slot)).map (·.2)

/-- The IV of a tile (R247): STK and the tile index, then MINOR, then MAJOR. -/
def ivOf (t minor : Nat) (major : Word) : BitVec 128 :=
  BitVec.ofNat 128 (t * 2 ^ 96 + minor * 2 ^ 89 + major.toNat * 2 ^ 25)

/-- The tag of a tile passes under its counters and the key of its slot (R251): a tile whose key is gone fails. -/
def Ctl.tagPasses (c : Ctl) (x : Tile) : Bool :=
  x.minor == 0 || c.unsealedAt (x.tile * 1024) ||
    (match c.keyOf x.slot with
     | some k => x.tag == Config.gcmTag k (ivOf x.tile x.minor (c.sealGroup (groupOfTile x.tile)).major) x.cipher
     | none => false)

/-- A tile encrypted under its counters and the key of its slot (R247). -/
def State.sealTile (s : State) (x : Tile) : Tile :=
  match s.ctl.keyOf x.slot with
  | some k =>
    let iv := ivOf x.tile x.minor (s.ctl.sealGroup (groupOfTile x.tile)).major
    let ct := Config.gcmCipher k iv (s.loadBytes (dmLoc (x.tile * 1024)) 1024)
    { x with cipher := ct, tag := Config.gcmTag k iv ct }
  | none => x

/-- Tiles that are live and not quarantined are encrypted anew under the counters as they stand. -/
def resealTiles (mine : Tile → Bool) : M Unit := do
  let s ← getS
  modC fun c => { c with tiles := c.tiles.map (fun x =>
    if mine x && x.minor != 0 && !x.quarantined then s.sealTile x else x) }

/-- Tiles of a group that fail outside any request are quarantined and reported (R252). -/
def quarantineFailing (group : Nat) : M Unit := do
  let c ← getC
  let bad := c.tiles.filter (fun x => groupOfTile x.tile == group && !x.quarantined &&
    !(c.unsealedAt (x.tile * 1024) || (c.countersPass group && c.tagPasses x)))
  forEach bad (fun x => do
    modC (fun c => c.setTile { x with quarantined := true })
    report (.integrity x.tile))

/-- Before the counters of a group are written back: where that re-seals the children of a node, each is checked under the old
counters, and what fails is quarantined (R249, R250, R252). -/
def checkBelow (g : Nat) : M Unit := do forEach ((← getC).resealBelow g) quarantineFailing

/-- A line of the cache is clean. -/
def cleanTile (t : Nat) : M Unit := modC fun c =>
  { c with cached := c.cached.map (fun y => if y.tile == t then { y with dirty := false } else y) }

/-- A line leaves the cache. -/
def dropLine (t : Nat) : M Unit := modC fun c => { c with cached := c.cached.filter (fun y => y.tile != t) }

/-- A dirty tile is written back (R248): its minor counter rises by one; at 127 a re-seal starts first (R250), and
the tile is written when that completes. A write-back whose counters fail is discarded and reported, and the line is gone
(R251); so is that of a tile whose counters can rise no more, which is quarantined (R250). -/
def writeback (t : Nat) : M Unit := do
  let c ← getC
  match c.cached.find? (fun x => x.tile == t) with
  | none => pure ()
  | some x =>
    let r := c.tile t
    let g := c.sealGroup (groupOfTile t)
    if c.unsealedAt (t * 1024) then cleanTile t
    else if !c.countersPass g.grp then do
      dropLine t
      report (.integrity t)
    else if (r.minor = 127 ∧ g.major.toNat = 2 ^ 64 - 1) ∨ c.treeFull g.grp = true then do
      dropLine t
      modC (fun c => c.setTile { r with quarantined := true })
      report (.integrity t)
    else if r.minor = 127 then setC (c.setGroup { g with resealing := some (t, x.slot) })
    else do
      checkBelow g.grp
      modC (fun c => (c.setTile { r with minor := r.minor + 1, slot := x.slot }).writeCounters g.grp)
      resealTiles (fun y => y.tile == t)
      cleanTile t

/-- The tier map's record of a tier page; one that is not listed has PRI 3, and lies in the fast tier
where its number is low or it is of a record area, so that each tier is full (R159, R160, R193; assumption 18). -/
def Ctl.page (c : Ctl) (pg : Nat) : Page :=
  (c.pages.find? (fun p => p.pg == pg)).getD
    { pg := pg, rctx := none, pri := 3, n := 0, pin := none, owner := none,
      fast := c.recordPage pg || decide (pg % 2 ^ 22 < fastPages - c.recPages) }

/-- A request misses in the memory-side cache: the tile is filled, and a tier page in the capacity tier is put before
the eviction engine unless it is there already or 64 moves wait (R163, R246). -/
def Ctl.fill (c : Ctl) (t slot : Nat) (write : Bool) : Ctl :=
  let pg := groupOfTile t
  let stk := stkOf (t * 1024)
  let known := (c.page pg).fast || c.moves.any (fun m => m.pg == pg || m.victim == some pg) ||
    decide (64 ≤ (c.moves.filter (fun m => m.stk == stk)).length)
  let moves := if known then c.moves else
    c.moves ++ [{ stk := stk, pg := pg, promote := true, asked := false, running := false, victim := none }]
  { c with cached := { tile := t, slot := slot, dirty := write } :: c.cached, moves := moves }

/-- Lines of a memory-side cache: 32 MiB of tiles (R168). -/
def cacheTiles : Nat := 32768

/-- The memory-side cache of a tile's stack has no line free (R168): a request that misses waits until a tile has left. -/
def Ctl.cacheFull (c : Ctl) (t : Nat) : Bool :=
  decide (cacheTiles ≤ (c.cached.filter (fun x => stkOf (x.tile * 1024) == stkOf (t * 1024))).length)

/-- What becomes of a request at the memory-side cache: it is served, it fails with a subcause of SEAL (R251), or it waits. -/
inductive Sealed where
  | ok
  | fail (sub : Nat)
  | wait
deriving DecidableEq, Repr, Inhabited

/-- A tile is filled for a request of a key slot (R246, R247, R249, R251): not under a foreign key, and a virgin one with zeros
and no check. The bytes of a virgin tile that no line holds are zero: `virginGroup` and `sealPage` leave them so. -/
def fillTile (slot t : Nat) (write : Bool) : M Sealed := do
  let c ← getC
  let r := c.tile t
  if c.cacheFull t then return .wait
  else if c.unsealedAt (t * 1024) then do
    setC (c.fill t slot write)
    return .ok
  else if !c.countersPass (groupOfTile t) then return .fail 3
  else if r.minor = 0 ∨ (r.slot = slot ∧ c.tagPasses r = true) then do
    setC (c.fill t slot write)
    return .ok
  else return .fail 0

/-- A request of a key slot reaches a tile (R193, R246, R250 to R252). A write marks its line dirty; one filled under another
slot is written back, dropped and filled again. -/
def sealTry (slot pa : Nat) (write : Bool) : M Sealed := do
  let c ← getC
  let t := tileOf pa
  if c.resealing pa then return .wait
  else if c.recordPage (pa / 65536) then return .fail 0
  else if (c.tile t).quarantined then return .fail 4
  else
    match c.cached.find? (fun x => x.tile == t) with
    | some x =>
      if x.slot == slot || c.unsealedAt pa then do
        onlyIf (write && !x.dirty) (modC fun c =>
          { c with cached := c.cached.map (fun y => if y.tile == t then { y with dirty := true } else y) })
        return .ok
      else do
        onlyIf x.dirty (writeback t)
        if (← getC).resealing pa then return .wait
        else do
          dropLine t
          fillTile slot t write
    | none => fillTile slot t write

/-- A request of a key slot reaches device memory (R246, R251): before a write the host gives up its copy of the line
(R213). -/
def sealAccess (slot pa : Nat) (write : Bool) : M Sealed := do
  let r ← sealTry slot pa write
  onlyIf (r == .ok && write && (← getC).host.copies.contains (pa / 64))
    (modHost (fun h => { h with copies := h.copies.filter (· != pa / 64) }))
  return r

/-- Tiles of one seal group become virgin and read zero (R248): MAJOR rises, and if others stay live the group is re-sealed
under it, those taking MINOR 1 (R250: checked first; requests wait until the re-seal ends). Past 2^64 - 1 nothing is done but
to quarantine them. Only zeroing by in-array copy clears a quarantine (R252). -/
def virginGroup (g lo hi : Nat) (inArray : Bool) : M Unit := do
  let inR (t : Nat) : Bool := decide (lo ≤ t) && decide (t < hi)
  let c ← getC
  let ts := (List.range (hi - lo)).map (lo + ·)
  if (c.sealGroup g).major.toNat = 2 ^ 64 - 1 ∨ c.treeFull g = true then
    forEach ts (fun t => do
      modC (fun c => c.setTile { c.tile t with quarantined := true })
      report (.integrity t))
  else do
    let others := c.tiles.any (fun x => groupOfTile x.tile == g && !inR x.tile && x.minor != 0)
    onlyIf others (quarantineFailing g)
    checkBelow g
    emit (.wipe .dm (lo * 1024) (hi * 1024))
    modC fun c =>
      let r := c.sealGroup g
      let gone := c.tiles.filter (fun x => inR x.tile && x.quarantined && !inArray)
      let rest := (c.tiles.filter (fun x => !inR x.tile)).map
        (fun x => if groupOfTile x.tile == g && x.minor != 0 then { x with minor := 1 } else x)
      let d : Ctl := { c with
        tiles := gone.map (fun x => { x with minor := 0, cipher := [] }) ++ rest
        cached := c.cached.filter (fun x => !inR x.tile) }
      (d.setGroup { r with
        major := r.major + 1
        resealing := r.resealing.filter (fun x => !inR x.1)
        renewing := r.renewing || others }).writeCounters g
    resealTiles (fun x => groupOfTile x.tile == g)

/-- The versions of device memory that are kept for fetches change alike: a page's bytes stand at its place of now in each of
them (R226, R243). -/
def Ctl.mapPast (c : Ctl) (f : Memory → Memory) : Ctl := { c with past := c.past.map (fun p => { p with dm := f p.dm }) }

/-- Tiles [t0, t0 + n) become virgin, group by group (R248). -/
def makeVirgin (t0 n : Nat) (inArray : Bool) : M Unit :=
  forEach ((List.range ((t0 + n + 63) / 64 - t0 / 64)).map (fun i => t0 / 64 + i))
    (fun g => virginGroup g (max t0 (64 * g)) (min (t0 + n) (64 * g + 64)) inArray)

/-- The die whose synchronisation engine holds a device-memory line (R194). -/
def syncDie (pa : Nat) : Nat := stkOf pa / 2

/-- A re-seal counts once for each context whose slot seals a live tile of the groups that it took in (R250, R401). -/
def countReseal (die : Nat) (mine : Nat → Bool) (more : List Nat) : M Unit := do
  let c ← getC
  let slots := (c.tiles.filter (fun x => mine (groupOfTile x.tile) && x.minor != 0)).map (·.slot) ++ more
  forEach (c.ctxs.filter (fun x => slots.contains x.kslot)) (fun x => recordMon die (some x.rctx) 4 1)

/-- The re-seals of the children of the nodes above a group end (R249). -/
def endTreeReseals (group : Nat) : M Unit := do
  let c ← getC
  forEach (c.tree.filter (fun n => n.renewing && n.covers group)) (fun n => do
    countReseal (syncDie (group * 65536)) n.covers []
    modC (fun c => { c with tree := c.tree.map (fun m =>
      if m.level == n.level && m.idx == n.idx then { m with renewing := false } else m) }))

/-- The re-seal of a group ends (R250): its live tiles are checked, MAJOR rises and they take MINOR 1, and the tile whose
write-back caused it is written with MINOR 2; one that virgin tiles caused has done this already (R248). -/
def endGroupReseal (group : Nat) : M Unit := do
  let c ← getC
  let g := c.sealGroup group
  countReseal (syncDie (group * 65536)) (· == group) (g.resealing.toList.map (·.2))
  match g.resealing with
  | none => modC fun c => c.setGroup { c.sealGroup group with renewing := false }
  | some (tile, slot) => do
    quarantineFailing group
    if (← getC).treeFull group then do
      modC fun c => (c.setGroup { g with resealing := none, renewing := false }).setTile { (c.tile tile) with quarantined := true }
      dropLine tile
      report (.integrity tile)
    else do
      checkBelow group
      modC fun c =>
        let d : Ctl := { c with tiles := c.tiles.map (fun x =>
          if groupOfTile x.tile == group && x.minor != 0 then { x with minor := 1 } else x) }
        ((d.setGroup { g with major := g.major + 1, resealing := none, renewing := false }).setTile
          { (d.tile tile) with minor := 2, slot := slot }).writeCounters group
      resealTiles (fun x => groupOfTile x.tile == group)
      cleanTile tile

/-- The re-seals end that requests to a seal group wait for. -/
def finishReseal (group : Nat) : M Unit := do
  endTreeReseals group
  let g := (← getC).sealGroup group
  onlyIf (g.resealing.isSome || g.renewing) (endGroupReseal group)

/-- A dirty tile is written back at once, with the re-seal that this may need (R396). -/
def flushTile (t : Nat) : M Unit := do
  onlyIf ((← getC).resealing (t * 1024)) (finishReseal (groupOfTile t))
  writeback t
  onlyIf ((← getC).resealing (t * 1024)) (finishReseal (groupOfTile t))

/-- A line leaves a memory-side cache that is full: any of them, a dirty one after its write-back (R168). -/
def evictLine (t : Nat) : M Unit := do
  let c ← getC
  let ls := c.cached.filter (fun x => stkOf (x.tile * 1024) == stkOf (t * 1024))
  let i ← drawBelow ls.length
  match ls[i]? with
  | none => pure ()
  | some x => do
    onlyIf x.dirty (flushTile x.tile)
    dropLine x.tile

/-- What makes a request to an address wait comes to its end (R250): a re-seal, a foreign dirty line, a full cache. -/
def settleLine (slot pa : Nat) : M Unit := do
  let t := tileOf pa
  finishReseal (groupOfTile t)
  let c ← getC
  match c.cached.find? (fun x => x.tile == t) with
  | some x => onlyIf (x.dirty && x.slot != slot) (flushTile t)
  | none => onlyIf (c.cacheFull t) (evictLine t)
  finishReseal (groupOfTile t)

/-- A request that an engine makes within one step of the machine: where it must wait, what it waits for ends within the step
(R250; assumption 147). -/
def sealNow (slot pa : Nat) (write : Bool) : M Sealed := do
  match ← sealAccess slot pa write with
  | .wait => do
    settleLine slot pa
    sealAccess slot pa write
  | r => return r

/-- The lines of a tier page leave the cache, the dirty ones after their write-back. -/
def flushPage (pg : Nat) : M Unit := do
  let c ← getC
  forEach (c.cached.filter (fun x => groupOfTile x.tile == pg)) (fun x => do
    onlyIf x.dirty (flushTile x.tile)
    dropLine x.tile)

/-- A tier page is declared unsealed (R167, R246): its bytes are now what the cells hold, the ciphertext of a live tile, and of a
virgin one what nothing constrains (assumption 148). -/
def unsealPage (pg : Nat) : M Unit := do
  flushPage pg
  let s ← getS
  forEach ((List.range 64).map (64 * pg + ·)) (fun t => do
    let x := s.ctl.tile t
    let k ← drawFree
    storeBytes (dmLoc (t * 1024))
      ((List.range 1024).map (fun i => if x.minor = 0 then Config.virginCell k i else x.cipher.getD i 0)))
  modHost (fun h => { h with unsealed := pg :: h.unsealed.filter (· != pg) })

/-- A tier page that was unsealed takes an owner (R246): what stands in the cells of a live tile is its ciphertext, to be checked
under its tag and deciphered; a virgin tile reads zero (R248). -/
def sealPage (pg : Nat) : M Unit := do
  flushPage pg
  modHost (fun h => { h with unsealed := h.unsealed.filter (· != pg) })
  let s ← getS
  forEach ((List.range 64).map (64 * pg + ·)) (fun t =>
    let x := s.ctl.tile t
    if x.minor = 0 then emit (.wipe .dm (t * 1024) (t * 1024 + 1024))
    else do
      let ct := s.loadBytes (dmLoc (t * 1024)) 1024
      modC (fun c => c.setTile { x with cipher := ct })
      match s.ctl.keyOf x.slot with
      | some k =>
        let pt := Config.gcmPlain k (ivOf t x.minor (s.ctl.sealGroup pg).major) ct
        storeBytes (dmLoc (t * 1024)) ((List.range 1024).map (fun i => pt.getD i 0))
      | none => pure ())

end Sys2Proof.Machine
end

