-- ==== Sys2Proof/Machine/Translate.lean ====
section
/-! DEFINITION. Address translation: the tables, walks, translation caches, permissions and host pages (R232 to R238). -/

namespace Sys2Proof.Machine

/-- Bits of a table entry (R233). -/
def entBit (e i : Nat) : Bool := bitOf e i

/-- s of a leaf: one more than the lowest set bit of [31:11] (R234); none when no bit is set. -/
def leafLog (e : Nat) : Option Nat := ((List.range 21).filter (fun i => bitOf e (i + 11))).head?.map (· + 12)

/-- The level whose span fits a page of 2^s bytes (R234). -/
def levelOf (s : Nat) : Nat := if s < 21 then 0 else if s < 30 then 1 else 2

/-- Whether a valid entry at a level is malformed (R233, R234). -/
def malformed (e level : Nat) : Bool :=
  if entBit e 1 then
    match leafLog e with
    | none => true
    | some s => level == 3 || levelOf s != level || entBit e 10 || entBit e 7 || entBit e 2 ||
        (!entBit e 62 && fld e 61 42 != 0)
  else level == 0 || fld e 63 42 != 0 || fld e 11 2 != 0

/-- What a walk ends in: a leaf with its entry's address and s, or a fault (cause, subcause). -/
inductive Walk where
  | leaf (e : Nat) (at_ s : Nat)
  | fault (cause sub : Nat)
deriving DecidableEq, Repr

/-- The table walk (R232, R235): from level k when the count is k + 1, tbl being the table's address. -/
def walkFrom (s : State) (va : Nat) : Nat → Nat → Walk
  | 0, _ => .fault 9 2
  | lv + 1, tbl =>
    let at_ := tbl + 8 * fld va (12 + 9 * lv + 8) (12 + 9 * lv)
    let e := s.load (dmLoc at_) 8
    if !entBit e 0 then .fault 9 1
    else if malformed e lv then .fault 9 2
    else if entBit e 1 then .leaf e at_ ((leafLog e).getD 12)
    else walkFrom s va lv (fld e 41 12 * 4096)

/-- The walk of a device virtual address in a context (R232); bits [63:48] must be zero (R236). -/
def State.walk (s : State) (root va : Nat) : Walk :=
  if 2 ^ 48 ≤ va then .fault 9 3 else walkFrom s va 4 root

/-- The page's base of a leaf (R234). -/
def leafBase (e s : Nat) : Nat := fld e 41 s * 2 ^ s

/-- What an access needs (R236). -/
structure Need where
  rd : Bool
  wr : Bool
  x : Bool
deriving DecidableEq, Repr

/-- The permission fault of a leaf, lowest subcause first (R236). -/
def permFault (e : Nat) (user : Bool) (n : Need) : Option (Nat × Nat) :=
  if n.rd && !entBit e 4 then some (10, 0x38)
  else if n.wr && !entBit e 5 then some (10, 0x39)
  else if n.x && !entBit e 6 then some (10, 0x3A)
  else if user && !entBit e 3 then some (10, 0x3B)
  else none

/-- What a translation ends in: a location, a fault, or a wait for the host (R238). -/
inductive Tr where
  | ok (l : Loc)
  | fault (cause sub : Nat)
  | wait
deriving DecidableEq, Repr, Inhabited

/-- An entry with A set, and D for a write (R235); a page of the host or of another device has neither. -/
def withAD (e : Nat) (write : Bool) : Nat :=
  if entBit e 63 || entBit e 62 then e
  else
    let a := if entBit e 8 then e else e + 256
    if write && !entBit a 9 then a + 512 else a

/-- The walker's update of an entry: an indivisible one in the entry's line, under the context's slot (R235, R246). -/
def setAD (slot at_ e new : Nat) : M Sealed := do
  if new = e then return .ok
  else
    match ← sealAccess slot at_ true with
    | .ok => do
      storeN (dmLoc at_) new 8
      return .ok
    | r => return r

/-- A translation installed in an engine's cache. -/
def installTlb (eng : EngineId) (rctx va s e : Nat) : M Unit := modC fun c =>
  { c with tlbs := { eng := eng, rctx := rctx, va := va / 2 ^ s * 2 ^ s, log := s, leaf := wd e } ::
      c.tlbs.filter (fun t => !(t.eng == eng && t.rctx == rctx && overlap t.va (2 ^ t.log) (va / 2 ^ s * 2 ^ s) (2 ^ s))) }

/-- Host memory behind a HOST leaf (R238): the translation the host returned, a refusal, or a wait. -/
def hostTranslate (rctx va : Nat) (write : Bool) : M Tr := do
  let c ← getC
  match c.atc.find? (fun t => t.rctx == rctx && covers t.va (2 ^ t.log) va 1 && (t.write || !write)) with
  | some t => return .ok { sp := .hm, key := t.addr + (va - t.va) }
  | none =>
    let pg := va / 4096
    match c.ats.find? (fun r => r.rctx == rctx && r.page == pg) with
    | some r => return (if r.failed then .fault 9 4 else .wait)
    | none => do
      setC { c with ats := { rctx := rctx, page := pg, pri := false, failed := false } :: c.ats }
      return .wait

/-- The refusals of these pages have been taken: a later access asks the host again (R238). -/
def Ctl.forgetRefused (c : Ctl) (rctx : Nat) (vas : List Nat) : Ctl :=
  { c with ats := c.ats.filter (fun r => !(r.failed && r.rctx == rctx && vas.any (fun v => v / 4096 == r.page))) }

/-- The group accesses of a core: another device faults them with the reply (R236, R188). -/
def coreEngine : EngineId → Bool
  | .core _ _ => true
  | _ => false

/-- The fault of an access through a leaf, lowest subcause first (R158, R236, R237). What a group reads or writes on another
device is faulted there. -/
def leafFault (eng : EngineId) (va e s : Nat) (user : Bool) (n : Need) : Option (Nat × Nat) :=
  if entBit e 63 then permFault e user n
  else if entBit e 62 && coreEngine eng && !n.x then none
  else if !offOk (leafBase e s + va % 2 ^ s) then some (10, 0x30)
  else permFault e user n

/-- The location of an access behind a leaf that allows it. -/
def leafAccess (rctx va e s : Nat) (n : Need) : M Tr :=
  let pa := leafBase e s + va % 2 ^ s
  if entBit e 63 then hostTranslate rctx va n.wr
  else if entBit e 62 then pure (.ok { sp := .rm, key := fld e 61 42 * 2 ^ 42 + pa })
  else pure (.ok (dmLoc pa))

/-- Every table entry read on a walk is sealed like any request of the context (R246, R250). -/
def sealWalk (slot : Nat) (s : State) (va : Nat) : Nat → Nat → M Sealed
  | 0, _ => pure .ok
  | lv + 1, tbl => do
    let at_ := tbl + 8 * fld va (12 + 9 * lv + 8) (12 + 9 * lv)
    match ← sealAccess slot at_ false with
    | .ok =>
      let e := s.load (dmLoc at_) 8
      if !entBit e 0 || malformed e lv || entBit e 1 then return .ok
      else sealWalk slot s va lv (fld e 41 12 * 4096)
    | r => return r

/-- The subcause of SEAL when a table access fails (R251). -/
def walkSub (sub : Nat) : Nat := if sub = 0 then 2 else sub

/-- The walk of a context for an address, its table reads sealed: a leaf, a fault, or none where it waits (R235, R250). -/
def sealedWalk (rctx va : Nat) : M (Option Walk) := do
  let s ← getS
  let cx := s.ctl.ctx rctx
  match ← sealWalk cx.kslot s va (if va < 2 ^ 48 then 4 else 0) cx.root with
  | .wait => return none
  | .fail sub => return some (.fault 11 (walkSub sub))
  | .ok => return some (s.walk cx.root va)

/-- An access walks (R235): if the leaf allows it, the walker sets A, and D for a write, and the engine caches the leaf. -/
def walkAccess (eng : EngineId) (rctx va : Nat) (user : Bool) (n : Need) : M Tr := do
  match ← sealedWalk rctx va with
  | none => return .wait
  | some (.fault c b) => return .fault c b
  | some (.leaf e at_ lg) =>
    match leafFault eng va e lg user n with
    | some (c, b) => return .fault c b
    | none => do
      let new := withAD e n.wr
      match ← setAD ((← getC).ctx rctx).kslot at_ e new with
      | .wait => return .wait
      | .fail sub => return .fault 11 (walkSub sub)
      | .ok => do
        installTlb eng rctx va lg new
        leafAccess rctx va new lg n

/-- The page of an address is being migrated: accesses that walk wait for its new leaf (R243). -/
def Ctl.migrating (c : Ctl) (rctx va : Nat) : Bool :=
  c.migrs.any (fun m => m.rctx == rctx && covers m.va (2 ^ m.log) va 1)

/-- Translate one access of an engine (R232 to R238): a cached leaf serves it, but where A or D is still to be set the access
walks again (R235). -/
def translateNow (eng : EngineId) (rctx va : Nat) (user : Bool) (n : Need) : M Tr := do
  if 2 ^ 48 ≤ va then return .fault 9 3
  let c ← getC
  match c.tlbs.find? (fun t => t.eng == eng && t.rctx == rctx && covers t.va (2 ^ t.log) va 1) with
  | some t =>
    let e := t.leaf.toNat
    match leafFault eng va e t.log user n with
    | some (c, b) => return .fault c b
    | none => if withAD e n.wr = e then leafAccess rctx va e t.log n else walkAccess eng rctx va user n
  | none => walkAccess eng rctx va user n

/-- Translate one access; it waits while its page is being migrated (R243). -/
def translate (eng : EngineId) (rctx va : Nat) (user : Bool) (n : Need) : M Tr := do
  if (← getC).migrating rctx va then return .wait
  else translateNow eng rctx va user n

end Sys2Proof.Machine
end

