-- ==== Sys2Proof/Machine/Scratch.lean ====
section
/-! DEFINITION. The two scratchpads: classes of bytes (R119 to R124), presence and pins (R125 to R127), bound barrier
words (R137). -/

namespace Sys2Proof.Machine

/-- The class of an access (R119, R123): data at a location, selvage, or outside with its PROT subcause (R136). -/
inductive Cls where
  | data (l : Loc)
  | selv
  | out (sub : Nat)
deriving DecidableEq, Repr, Inhabited

/-- A byte of a team window. -/
def tmLoc (uid o : Nat) : Loc := { sp := .tm, key := uid * 2 ^ 32 + o }

/-- A byte of a die's pool (R122). -/
def dpLoc (die off : Nat) : Loc := { sp := .dp, key := die * 2 ^ 27 + off }

/-- A window of `size` data bytes (R119). -/
def windowCls (size : Nat) (at_ : Nat → Loc) (o n : Nat) : Cls :=
  if size = 0 then .out 0x10
  else if o + n ≤ size then .data (at_ o)
  else if size ≤ o ∧ o + n ≤ size + 256 then .selv
  else if 0xFFFFFF00 ≤ o ∧ o + n ≤ 2 ^ 32 then .selv
  else .out 0x10

/-- The data regions of a context on a die: reservations and live allocations (R123). -/
def Ctl.poolRegions (c : Ctl) (rctx die : Nat) : List (Nat × Nat) :=
  (c.allocs.filter (fun a => a.live && a.rctx == rctx && a.die == die)).map (fun a => (a.base, a.size)) ++
  (c.teams.filter (fun t => t.rctx == rctx && t.die == die && t.hdr.dpool != 0 && t.phase != .claimed)).map
    (fun t => (t.resv, t.hdr.dpool * 4096))

/-- Whether intervals cover [lo, hi); the count bounds the steps. -/
def coveredBy (ivs : List (Nat × Nat × Bool)) (hi : Nat) : Nat → Nat → Bool
  | 0, lo => decide (hi ≤ lo)
  | n + 1, lo =>
    if hi ≤ lo then true
    else match ivs.find? (fun v => decide (v.1 ≤ lo) && decide (lo < v.1 + v.2.1)) with
      | some v => coveredBy ivs hi n (v.1 + v.2.1)
      | none => false

/-- An absolute die-pool access (R122, R123). Bytes that are partly data and partly the context's own selvage are not all of data
class (R145): subcause 0x10; 0x11 is for a free byte or another context's. -/
def poolCls (c : Ctl) (t : Team) (a n : Nat) : Cls :=
  if fld a 31 30 ≠ 0 ∨ fld a 29 27 ≠ t.die then .out 0x10
  else
    let off := fld a 26 0
    let rs := c.poolRegions t.rctx t.die
    if rs.any (fun r => covers r.1 r.2 off n) then .data (dpLoc t.die off)
    else if rs.any (fun r => covers (r.1 - 256) 256 off n || covers (r.1 + r.2) 256 off n) then .selv
    else if coveredBy (rs.map (fun r => (r.1 - 256, r.2 + 512, false))) (off + n) (rs.length + 1) off then .out 0x10
    else .out 0x11

/-- The class of n bytes at o in a scratchpad space code of R180: 1 window, 2 absolute, 3 reservation window. -/
def classify (c : Ctl) (t : Team) (sp o n : Nat) : Cls :=
  if sp = 1 then windowCls (t.hdr.tmem * 256) (tmLoc t.uid) o n
  else if sp = 2 then poolCls c t o n
  else windowCls (t.hdr.dpool * 4096) (fun x => dpLoc t.die (t.resv + x)) o n

/-- The address by which fences compare a scratchpad byte (R228): window offsets, or absolute die-pool addresses. -/
def fenceAddr (t : Team) (sp o : Nat) : Nat × Nat :=
  if sp = 3 then (2, t.die * 2 ^ 27 + t.resv + o) else (sp, o)

/-- The record of a GUARD hit (R129). -/
def hitWord (sp o : Nat) : Word :=
  let bank := if sp = 2 then fld o 26 0 / 64 % 32 else (o + 256) % 2 ^ 32 / 4 % 32
  wd ((sp - 1) * 2 ^ 62 + bank * 2 ^ 32 + o % 2 ^ 32)

/-- A scatter has still to land bytes in a window line of its bounding range (R125, R184): some of those it writes there,
or, where it writes none, as long as it runs. -/
def Job.scatters (j : Job) (line : Nat) : Bool :=
  match (List.range j.size).filter (fun k => (j.dstAt k).any (fun a => a.2 / 64 == line)) with
  | [] => true
  | ks => ks.any (fun k => !j.landedAt k)

/-- Whether an accepted copy, epilogue or evaluation still has bytes outstanding for a line of the team's window
(R125, R184, R352). -/
def Job.fills (j : Job) (uid line : Nat) : Bool :=
  j.accepted && j.err.isNone && j.team == uid && j.dsp == 1 &&
    (match j.bound with
     | some (lo, n) => (cutRange lo n 0).any (fun r => overlap r.1 r.2.1 (line * 64) 64) && j.scatters line
     | none => j.ranges.any (fun r =>
       let lo := max r.1 (line * 64)
       let hi := min (r.1 + r.2.1) (line * 64 + 64)
       decide (lo < hi) && decide (landedIn j (r.2.2 + lo - r.1) (r.2.2 + hi - r.1) < hi - lo)))

/-- A line of a team window is absent (R125). -/
def Ctl.absent (c : Ctl) (uid line : Nat) : Bool := c.jobs.any (fun j => j.fills uid line)

/-- The last chunk that reads one of n bytes of an operand, from byte `off` on (R301): of A (op 0) a chunk reads 64 digits
of every row of every plane, of B (op 1) it reads 64 rows, and scales and a `vxm`'s rows are held to the end. -/
def Pass.lastChunk (p : Pass) (op off n : Nat) : Nat :=
  match p.kind, op with
  | .mmx .., 0 =>
    let pb := planeBytes p.fa
    let per := if container p.fa = 1 then 8 else 16
    (List.range n).foldl (fun m i => max m ((off + i) % pb / per)) 0
  | .mmx _ _ _ _ bstr _ _ _ _, 1 => (off + n - 1) / bstr / 64
  | .mmx .., _ => kOf p.fa / 64 - 1
  | .vxm _ _ _, _ => p.cycles

/-- Chunks that a pass has ended: each takes one cycle for every plane (R85, R308). -/
def Pass.chunksDone (p : Pass) : Nat := p.got / (16 * planes p.fa)

/-- A pass has still to read a byte of the line at l (R126, R301). -/
def Pass.pins (p : Pass) (l : Loc) : Bool :=
  let lo := l.key / 64 * 64
  p.spans.any (fun r =>
    r.loc.sp == l.sp && overlap lo 64 r.loc.key r.n &&
      decide (p.chunksDone ≤ p.lastChunk r.op (r.off + (lo - r.loc.key)) (min (lo + 64) (r.loc.key + r.n) - max lo r.loc.key)))

/-- The line at l is pinned: an accepted pass that reads it has still to read it (R126). -/
def Ctl.pinned (c : Ctl) (l : Loc) : Bool := c.passes.any (fun p => p.pins l)

/-- No operand buffer holds an earlier value of bytes that a copy or an epilogue writes, or that are handed out anew (R133, R302). -/
def Ctl.dropOpAt (c : Ctl) (l : Loc) (n : Nat) : Ctl :=
  { c with olds := c.olds.filter (fun o => !o.loc.touches 1 l n) }

/-- n bytes of a scratchpad are about to be written by a store: an operand buffer may go on holding what they hold now (R217). -/
def keepOld (l : Loc) (n : Nat) : M Unit := do
  let s ← getS
  onlyIf (l.sp == .tm || l.sp == .dp)
    (setC { s.ctl with olds := (List.range n).map (fun i =>
      { loc := l.plus i, byte := (s.mem l.sp).get (l.key + i), at_ := s.ctl.nextId }) ++ s.ctl.olds })

/-- The lines of n bytes at a location. -/
def linesOf (l : Loc) (n : Nat) : List Nat :=
  (List.range ((l.key + n + 63) / 64 - l.key / 64)).map (fun i => l.key / 64 + i)

/-- The line number of a window byte within its team. -/
def tmLine (l : Loc) : Nat := l.key % 2 ^ 32 / 64

/-- The binding of a barrier word, if any (R137). -/
def Ctl.barAt (c : Ctl) (l : Loc) : Option Bar := c.bars.find? (fun b => b.loc == l)

/-- A byte of a bound word (R141). -/
def Ctl.boundByte (c : Ctl) (l : Loc) (n : Nat) : Bool := c.bars.any (fun b => b.loc.touches 16 l n)

end Sys2Proof.Machine
end

