-- ==== Sys2Proof/Machine/Queue.lean ====
section
/-! DEFINITION. The pending queues of the ordering machine: what bars an entry (R212, R228), completion points (R213),
forwarding (R211), and the scoreboard (R115, R198). -/

namespace Sys2Proof.Machine

/-- Whether two entries are of one queue: each helper of a path has its own (R207, R219). -/
def Entry.sameQueue (a b : Entry) : Bool := a.team == b.team && a.who == b.who && a.pid == b.pid && a.hl == b.hl

/-- Two entries of one group, helpers counted with their recruiter (R219): entries of different helpers are unordered. -/
def Entry.ofGroup (a b : Entry) : Bool :=
  a.team == b.team && a.home == b.home && (a.hl.isNone || b.hl.isNone || (a.who == b.who && a.hl == b.hl))

/-- A copy engine's read, which is of no party's queue (R216). -/
def Entry.isJob (e : Entry) : Bool :=
  match e.act with
  | .jread _ => true
  | _ => false

/-- O is older than E in E's queue: an entry of the same queue, or one that the group issued before E's path began (R97,
R215). A helper's queue is its own: what the recruiter issued before is only fenced from it (R219, R230). -/
def Entry.before (o e : Entry) : Bool :=
  decide (o.ins < e.ins) && !o.isJob && o.ofGroup e &&
    (o.sameQueue e || (decide (o.ins < e.since) && (e.hl.isNone || o.hl == e.hl)))

/-- The path whose queue holds an entry. -/
def Entry.path (e : Entry) : PathId := { team := e.team, who := e.who, pid := e.pid }

/-- Whether two entries touch a common byte. -/
def Entry.touches (a b : Entry) : Bool :=
  a.els.any (fun x => b.els.any (fun y => x.loc.touches x.n y.loc y.n))

/-- Whether two entries touch a common 64-byte line. -/
def Entry.shareLine (a b : Entry) : Bool :=
  a.els.any (fun x => b.els.any (fun y => x.loc.sp == y.loc.sp && x.loc.key / 64 == y.loc.key / 64))

/-- A fence. -/
def Entry.isFence (e : Entry) : Bool :=
  match e.act with
  | .fence _ _ _ => true
  | _ => false

/-- An atomic. -/
def Entry.isAtom (e : Entry) : Bool :=
  match e.act with
  | .atom _ _ | .cjoin => true
  | _ => false

/-- An arrival on its way to its word. -/
def Entry.isBar (e : Entry) : Bool :=
  match e.act with
  | .bar _ => true
  | _ => false

/-- An entry that reads bytes. -/
def Entry.reads (e : Entry) : Bool := e.act == .read || e.isAtom

/-- An entry that writes bytes. -/
def Entry.writes (e : Entry) : Bool := e.act == .write || e.isAtom

/-- Whether some byte of an entry lies in a fencer's range (R228). -/
def Entry.inRange (e : Entry) (r : Range1) : Bool :=
  e.els.any (fun x => x.vs == r.space && overlap x.va x.n r.lo r.len)

/-- A fence covers an older entry (R228). -/
def Entry.coversOld (f o : Entry) : Bool :=
  match f.act with
  | .fence acq rel range =>
    (rel && (match range with
             | none => true
             | some r => o.inRange r)) || (acq && o.reads)
  | _ => false

/-- A fence that acquires covers a younger entry (R228). -/
def Entry.coversYoung (f e : Entry) : Bool :=
  match f.act with
  | .fence acq _ range =>
    acq && (match range with
            | none => true
            | some r => e.inRange r)
  | _ => false

/-- A fence that orders what is older before what is younger (R212). -/
def Entry.relFence (e : Entry) : Bool :=
  match e.act with
  | .fence _ rel _ => rel
  | _ => false

/-- A fence that acquires. -/
def Entry.acqFence (e : Entry) : Bool :=
  match e.act with
  | .fence acq _ _ => acq
  | _ => false

/-- Not yet served at its point of coherence. -/
def Entry.unserved (e : Entry) : Bool := e.stage != .wq

/-- A full fence at `.grp` stands between O and E and holds E back: a join, the start of a pending arm, `recruit` or `hjoin`
(R215, R219). -/
def Entry.fencedBy (e o : Entry) : Bool :=
  decide (o.ins < e.ins) && !o.isJob && o.ofGroup e && decide (o.ins < e.fence) &&
    (o.stage == .pend || (o.reads && o.unserved))

/-- An entry that still stands somewhere has reached the completion point of a scope for a party of a cluster (R213): one left
in the port queue of the cluster that its team had before a restore has not (R225). -/
def Entry.reached (e : Entry) (cluster scope : Nat) : Bool :=
  if scope = 0 then e.stage != .pend
  else if scope ≤ 2 then e.stage != .pend && (e.stage != .port || e.cluster == cluster)
  else if scope ≤ 5 then e.stage == .wq || e.stage == .link else false

/-- An older read of the queue has not been served. -/
def Ctl.olderRead (c : Ctl) (f : Entry) : Bool := c.entries.any (fun o => o.before f && o.reads && o.unserved)

/-- An older entry bars E (R212). -/
def Ctl.holdsBack (c : Ctl) (o e : Entry) : Bool :=
  (o.stage == .pend && o.touches e) ||
  (o.acqFence && o.coversYoung e && c.olderRead o) ||
  (((e.rel && !e.isFence) || (e.relFence && e.coversOld o)) && !(o.acqFence && !o.relFence) && !o.reached e.cluster e.scope) ||
  (o.relFence && o.stage == .pend)

/-- An `.acq` atomic holds back every later access of its group until its reply has landed (R201). -/
def Ctl.acquiring (c : Ctl) (e : Entry) : Bool :=
  c.entries.any (fun o => o.acq && o.isAtom && decide (o.ins < e.ins) && o.ofGroup e) ||
  c.replies.any (fun r => r.acq && r.team == e.team && r.home == e.home && decide (r.ins < e.ins) &&
    (r.hl.isNone || e.hl.isNone || (r.who == e.who && r.hl == e.hl)))

/-- A synchronisation engine holds a line of the entry: requests for it stand in its serial queue, or it has served one and has
not replaced the line (R192, R195). -/
def Ctl.lineHeld (c : Ctl) (e : Entry) : Bool :=
  c.entries.any (fun o => o.stage == .sync && o.shareLine e) ||
    e.els.any (fun x => x.loc.sp == .dm && c.vars.any (fun v => v.1 == x.loc.key / 64))

/-- One group's accesses to a line that a synchronisation engine serves are served in program order (R195): an older one
that has still to drain comes first. -/
def Ctl.lineFirst (c : Ctl) (e : Entry) : Bool :=
  c.entries.any (fun o => o.stage == .pend && decide (o.ins < e.ins) && o.ofGroup e && o.shareLine e &&
    (o.isAtom || e.isAtom || c.lineHeld e))

/-- Whether an entry of a pending queue may not drain yet (R212, R215, R195, R201). -/
def Ctl.barred (c : Ctl) (e : Entry) : Bool :=
  c.entries.any (fun o => (o.before e && c.holdsBack o e) || e.fencedBy o) || c.acquiring e || (e.acqFence && c.olderRead e) || c.lineFirst e

/-- The byte that an entry brings to a place, if it does. -/
def Entry.byteFor (o : Entry) (l : Loc) : Option Nat :=
  (o.els.find? (fun y => y.loc.touches y.n l 1)).map (fun y => y.data.toNat / 256 ^ (l.key - y.loc.key) % 256)

/-- The value that a write entry brings for an element, when it covers every byte of it. -/
def Entry.valueFor (o : Entry) (x : Elem) : Option Nat :=
  ((List.range x.n).map (fun i => o.byteFor { x.loc with key := x.loc.key + i })).foldr
    (fun b r => match b, r with
      | some b, some r => some (b + 256 * r)
      | _, _ => none) (some 0)

/-- The bytes that a read may take from the youngest older W entry of its queue, when that covers every byte of it and no
younger entry that writes touches it (R211); older reads do not stand between. -/
def Ctl.forwards (c : Ctl) (e : Entry) : Option (List (Elem × Nat)) :=
  if e.act == .read then
    match (c.entries.filter (fun o => o.before e && o.stage == .pend && o.writes && o.touches e)).getLast? with
    | none => none
    | some o =>
      if o.act == .write && o.sameQueue e then
        let vs := e.els.filterMap (fun x => (o.valueFor x).map (fun v => (x, v)))
        if vs.length = e.els.length then some vs else none
      else none
  else none

/-- Append an entry to the pending queues. -/
def appendEntry (e : Entry) : M Unit := modC (fun c => { c with entries := c.entries ++ [e] })

/-- Remove an entry. -/
def dropEntry (id : Nat) : M Unit := modC (fun c => { c with entries := c.entries.filter (fun e => e.id != id) })

/-- An entry moves to another stage, at the tail of that stage's queues. -/
def stageEntry (e : Entry) (st : Stage) : M Unit := modC fun c =>
  { c with entries := c.entries.filter (fun x => x.id != e.id) ++ [{ e with stage := st }] }

/-- The cluster of a team, numbered over the device. -/
def Team.cluster (t : Team) : Nat := t.die * 16 + t.core / 4

/-- An entry of the path that executes an instruction, with the given number. -/
def Env.entry (e : Env) (id ins : Nat) (act : Act) (els : List Elem) : Entry :=
  { id := id, ins := ins, team := e.uid, who := e.g.who, pid := e.p.pid, home := e.home, cluster := e.t.cluster,
    stage := .pend, act := act, acq := false, rel := false, scope := 0, els := els, since := e.p.born, fence := e.p.fence,
    cnt := none, poisoned := false, kslot := (e.s.ctl.ctx e.t.rctx).kslot, user := e.pl == 0, party := 0, flags := false,
    hl := if e.p.helper.isSome then lowest e.ex else none, born := e.s.ctl.cyc }

/-- What an instruction appends to the queues of its path (R211): one entry; in helper code one for each executing helper,
with that helper's elements (R219). A fence has no elements; a uniform access of helper code is of the lowest helper. -/
def Env.append (e : Env) (mk : Entry → Entry) (act : Act) (ins : Nat) (els : List Elem) : M Unit :=
  if e.p.helper.isSome && !(e.f.u && !els.isEmpty) then
    forEach (lanesOf e.ex e.gw) (fun l => do
      let mine := els.filter (fun x => x.lane == l)
      onlyIf (els.isEmpty || !mine.isEmpty) (do
        let id ← freshId
        appendEntry { mk (e.entry id ins act mine) with hl := some l }))
  else do
    let id ← freshId
    appendEntry (mk (e.entry id ins act els))

/-- Elements that lie in one 64-byte line together, one entry for each line (R195). -/
def byLine (els : List Elem) : List (List Elem) :=
  let line (x : Elem) : Space × Nat := (x.loc.sp, x.loc.key / 64)
  (els.map line).dedup.map (fun k => els.filter (fun x => line x == k))

/-- The device-memory line that an entry names. -/
def Entry.line (x : Entry) : Loc := (x.els.head?.map (·.loc)).getD (dmLoc 0)

/-- Where an entry's queue leads: a stack, 16 the host's port, 17 the host link, from 32 on a stack of another device
(R208, R209, R213). -/
def Entry.dest (e : Entry) : Nat :=
  let l := e.line
  if l.sp == .hm then (if e.stage == .link then 17 else 16)
  else if l.sp == .rm then 32 + 16 * (l.key / 2 ^ 42) + stkOf (l.key % 2 ^ 42)
  else stkOf l.key

/-- Whether an entry lies in a scratchpad. -/
def Entry.scratch (e : Entry) : Bool := e.els.any (fun x => x.loc.sp == .tm || x.loc.sp == .dp)

/-- The parts of an entry that travel by themselves (R208): each lane's element; of an atomic, the elements of one line. -/
def Entry.parts (e : Entry) : List (List Elem) :=
  match e.act with
  | .atom _ _ | .jread _ => byLine e.els
  | .cjoin | .join => [e.els]
  | _ => e.els.map (fun x => [x])

/-- The queue that a part drains to (R212): that of the synchronisation engine for an atomic of device memory, or where the
engine holds the line; else a port queue. -/
def Ctl.stageFor (c : Ctl) (e : Entry) : Stage :=
  if e.line.sp == .dm && (e.isAtom || e.act == .join || c.lineHeld e) then .sync else .port

/-- Parts of an entry go to the tails of their queues. -/
def sendParts (e : Entry) : List (List Elem) → M Unit
  | [] => pure ()
  | p :: r => do
    let id ← freshId
    let c ← getC
    let x : Entry := { e with id := id, els := p }
    setC { c with entries := c.entries ++ [{ x with stage := c.stageFor x }] }
    sendParts e r

/-- Whether an access that is made at once would be barred: what a barrier instruction waits for (R140, R212). -/
def Ctl.wouldBar (c : Ctl) (e : Entry) : Bool := c.barred { e with id := c.nextId, ins := c.nextId }

/-- An access that is made at once must wait (R201, R210, R213, R216): at these bytes an entry of the group has still to be
served, or one that has drained into the cluster's queues; or an acquire or a fence of the group holds it back. -/
def Ctl.busyAt (c : Ctl) (uid : Nat) (who : Who) (l : Loc) (n : Nat) : Bool :=
  let k := (c.team uid).cluster
  c.entries.any (fun o =>
    ((o.team == uid && o.home == who.idx && o.unserved) ||
      ((o.cluster == k || o.team == uid) && (o.stage == .port || o.stage == .sync))) &&
      o.els.any (fun x => x.loc.touches x.n l n)) ||
  c.entries.any (fun o => o.team == uid && o.home == who.idx && ((o.isFence && o.stage == .pend) || (o.acq && o.isAtom) ||
    (o.stage == .pend && ((c.team uid).party who).paths.any (fun p => decide (o.ins < p.fence))))) ||
  c.replies.any (fun r => r.acq && r.team == uid && r.home == who.idx)

/-- The register that a sink names, when it is scoreboarded. -/
def Sink.scored : Sink → Option RegSink
  | .reg r true => some r
  | _ => Option.none

/-- Every scoreboarded result still outstanding: team, party, path, instruction number, register. -/
def Ctl.scored (c : Ctl) : List (Nat × Who × Nat × Nat × RegSink) :=
  let f (t : Nat) (w : Who) (p i : Nat) (ss : List Sink) := (ss.filterMap Sink.scored).map (fun r => (t, w, p, i, r))
  (c.entries.map (fun e => f e.team e.who e.pid e.ins (e.els.map (·.sink)))).flatten ++
  (c.replies.map (fun r => f r.team r.who r.pid r.ins [r.sink])).flatten ++
  (c.passes.map (fun p => f p.team p.who p.pid p.id (match p.kind with
    | .vxm _ _ ss => ss
    | .mmx .. => []))).flatten ++
  (c.migrs.map (fun m => f m.team m.who m.pid m.id [m.sink])).flatten ++
  (c.rents.map (fun r => f r.team r.who r.pid r.id (r.lanes.map (fun l => l.2.2.2.2)))).flatten

/-- A result that the path waits for is outstanding in one of these registers (code, span): its own path's, or one
of an instruction issued before the path began; vp and wp are the party indices of its lane and uniform registers. -/
def Ctl.waitsFor (c : Ctl) (uid : Nat) (who : Who) (p : Path) (vp wp : Nat) (rs : List (Nat × Nat)) : Bool :=
  c.scored.any (fun q =>
    q.1 == uid && q.2.1 == who && (q.2.2.1 == p.pid || decide (q.2.2.2.1 < p.born)) &&
    (let r := q.2.2.2.2
     let n := if r.code < 256 ∧ r.w = 64 then 2 else 1
     rs.any (fun x => overlap r.code n x.1 x.2 && (if x.1 < 256 then r.vp == vp else r.wp == wp))))

end Sys2Proof.Machine
end

