-- ==== Sys2Proof/Machine/Links.lean ====
section
/-! DEFINITION. Routes between dies and devices (R286, R288, R391, R398, R400). A die-link port is numbered 0 for the
next column, 1 for the column before, 2 for the next row, 3 for the row before. -/

namespace Sys2Proof.Machine

/-- The port by which a message for a die leaves a die: the map's, else x then y (R400). -/
def Ctl.linkPort (c : Ctl) (at_ dest : Nat) : Nat :=
  match c.host.linkMap.find? (fun m => m.1 == at_ && m.2.1 == dest) with
  | some m => m.2.2
  | none =>
    if at_ % 4 < dest % 4 then 0 else if dest % 4 < at_ % 4 then 1 else if at_ / 4 < dest / 4 then 2 else 3

/-- The neighbour behind a port, if there is one, and the boundary between (R391). -/
def neighbour (at_ port : Nat) : Option (Nat × Nat) :=
  if port = 0 ∧ at_ % 4 < 3 then some (at_ + 1, 3 * (at_ / 4) + at_ % 4)
  else if port = 1 ∧ 0 < at_ % 4 then some (at_ - 1, 3 * (at_ / 4) + at_ % 4 - 1)
  else if port = 2 ∧ at_ < 4 then some (at_ + 4, 6 + at_)
  else if port = 3 ∧ 4 ≤ at_ ∧ at_ < 8 then some (at_ - 4, 6 + at_ - 4)
  else none

/-- The boundaries that a message crosses; the count bounds them. -/
def Ctl.boundaries (c : Ctl) (dest : Nat) : Nat → Nat → List Nat
  | 0, _ => []
  | n + 1, at_ =>
    if at_ = dest then []
    else match neighbour at_ (c.linkPort at_ dest) with
      | none => []
      | some (d, b) => b :: c.boundaries dest n d

/-- A die boundary on the way retrains: the message stalls (R288). -/
def Ctl.stalled (c : Ctl) (src dest : Nat) : Bool :=
  (c.boundaries dest 8 src).any (fun b => c.retrain.contains (.boundary b))

/-- The route to another device: the die whose fabric port carries it (R398). -/
def Ctl.fabricDie (c : Ctl) (dev : Nat) : Option Nat :=
  if !c.host.fvalid then none
  else (c.host.routes.find? (fun r => bitOf r.toNat 3 && (dev &&& wfld r 43 24) == wfld r 63 44 &&
    c.host.linkup.getLsbD (wfld r 2 0))).map (fun r => wfld r 2 0)

/-- The way to another device stalls: the link of its route retrains, or a die boundary before it. -/
def Ctl.fabricStalled (c : Ctl) (src dev : Nat) : Bool :=
  match c.fabricDie dev with
  | some d => c.retrain.contains (.fabric d) || c.stalled src d
  | none => false

/-- A link between a die and the place that serves its access retrains, on the way there or back (R288, R398). -/
def Ctl.placeStalled (c : Ctl) (die : Nat) (l : Loc) : Bool :=
  if l.sp == .dm then c.stalled die (syncDie l.key) || c.stalled (syncDie l.key) die
  else if l.sp == .rm then c.fabricStalled die (l.key / 2 ^ 42)
  else false

/-- A reply waits for a link on its way back that retrains (R288). -/
def Ctl.replyStalled (c : Ctl) (r : Reply) : Bool :=
  match r.way with
  | none => false
  | some (l, d) =>
    if l.sp == .dm then c.stalled (syncDie l.key) d
    else if l.sp == .rm then
      (match c.fabricDie (l.key / 2 ^ 42) with
       | some f => c.retrain.contains (.fabric f) || c.stalled f d
       | none => false)
    else false

/-- An access that a die makes at once of bytes on another device (R158, R236, R398): its route, and its permissions there, by the
tables as they stand (assumption 21); elsewhere it has passed its checks already. -/
def State.farFault (s : State) (die rctx va : Nat) (user : Bool) (n : Need) (l : Loc) : Tr :=
  if l.sp != .rm then (if s.ctl.placeStalled die l then .wait else .ok l)
  else if (s.ctl.fabricDie (l.key / 2 ^ 42)).isNone || !offOk (l.key % 2 ^ 42) then .fault 10 0x30
  else if s.ctl.fabricStalled die (l.key / 2 ^ 42) then .wait
  else
    match s.walk (s.ctl.ctx rctx).root va with
    | .leaf e _ _ =>
      (match permFault e user n with
       | some (k, b) => .fault k b
       | none => .ok l)
    | .fault _ _ => .ok l

/-- An address of a context that the device reads or translates for itself (R236, R342, R357, R368): a walk, the leaf's
permission, and the seal of the tile. -/
def deviceReach (die rctx va : Nat) (need : Need) : M Tr := do
  if (← getC).migrating rctx va then return .wait
  else
    match ← sealedWalk rctx va with
    | none => return .wait
    | some (.fault k b) => return .fault k b
    | some (.leaf e at_ lg) =>
      match leafFault (.copy 0 0 0) va e lg false need with
      | some (k, b) => return .fault k b
      | none => do
        let slot := ((← getC).ctx rctx).kslot
        match ← setAD slot at_ e (withAD e need.wr) with
        | .wait => return .wait
        | .fail b => return .fault 11 (walkSub b)
        | .ok =>
          match ← leafAccess rctx va e lg need with
          | .ok l =>
            if l.sp == .dm then
              match ← sealAccess slot l.key need.wr with
              | .wait => return .wait
              | .fail b => return .fault 11 b
              | .ok => return (← getS).farFault die rctx va false need l
            else return (← getS).farFault die rctx va false need l
          | r => return r

end Sys2Proof.Machine
end

