-- ==== Sys2Proof/Machine/Records.lean ====
section
/-! DEFINITION. Continuation records: when they become eligible (R359, R360), how a team signals its join counter
(R361), and how a grid completes. -/

namespace Sys2Proof.Machine

/-- The state of a tile buffer: 0 EMPTY, 1 FULL, 2 RESERVED, 3 CLAIMED (R358). -/
def Ctx.tb (x : Ctx) (i : Nat) : Nat := ((x.tbs.find? (fun t => t.1 == i)).map (·.2)).getD 0

/-- Set the state of a tile buffer. -/
def Ctx.setTb (x : Ctx) (i st : Nat) : Ctx :=
  { x with tbs := (if st = 0 then [] else [(i, st)]) ++ x.tbs.filter (fun t => t.1 != i) }

/-- Set the state of several tile buffers. -/
def Ctx.setTbs (x : Ctx) (is : List Nat) (st : Nat) : Ctx := is.foldl (fun x i => x.setTb i st) x

/-- Reserve tile buffers as the outputs of a record (R358, R360). -/
def Ctx.reserve (x : Ctx) (is : List Nat) (rec_ : Nat) : Ctx :=
  { x.setTbs is 2 with tbOwn := is.map (fun i => (i, rec_)) ++ x.tbOwn.filter (fun t => !is.contains t.1) }

/-- A tile buffer is RESERVED as an output of a record (R360, R370). -/
def Ctx.reservedBy (x : Ctx) (i rec_ : Nat) : Bool := x.tb i == 2 && x.tbOwn.contains (i, rec_)

/-- CNT of a join counter at its location (R359). -/
def State.cnt (s : State) (pa : Nat) : Nat := s.load (dmLoc pa) 4

/-- A record qualifies (R360). -/
def State.qualifies (s : State) (x : Ctx) (r : Rec) : Bool :=
  (match r.waitj with
   | none => true
   | some pa => s.cnt pa == 0) &&
    r.ins.all (fun i => x.tb i == 1) && r.outs.all (fun i => x.tb i == 0)

/-- Test the records of a context in enqueue order; those that qualify become eligible (R360). -/
def Ctx.test (s : State) (x : Ctx) : List Rec → Ctx
  | [] => x
  | r :: q =>
    let y : Ctx :=
      if !r.eligible && s.qualifies x r then
        { ((x.setTbs r.ins 3).reserve r.outs r.id) with
          recs := x.recs.map (fun o => if o.id == r.id then { o with eligible := true, eligAt := s.ctl.cyc, waitAt := s.ctl.cyc } else o) }
      else x
    y.test s q

/-- Records are tested again after a change of a counter or of a tile buffer (R360). -/
def retest : M Unit := do
  let s ← getS
  onlyIf (s.ctl.ctxs.any (fun x => x.recs.any (fun r => !r.eligible)))
    (modC (fun c => { c with ctxs := c.ctxs.map (fun x => x.test s x.recs) }))

/-- The record whose grid a team belongs to. -/
def Ctl.recOf (c : Ctl) (t : Team) : Option Rec :=
  match t.origin with
  | .grid id => (c.ctx t.rctx).recs.find? (fun r => r.id == id)
  | _ => none

/-- A party counts as triggered: it has executed `trig`, or it has retired and its entries have been served (R222). -/
def Ctl.countsTriggered (c : Ctl) (t : Team) (g : Group) : Bool :=
  g.triggered || (g.retired && !c.entries.any (fun e => e.team == t.uid && e.who == g.who && e.stage != .wq))

/-- The team triggers at the first moment that every party has executed `trig` or retired (R361): its decrement of the
join counter goes to the counter's engine. A team all of whose parties have retired, some without `trig`, signals once
its shares are released (R32). -/
def tryTrigger (uid : Nat) (released : Bool) : M Unit := do
  let c ← getC
  let t := c.team uid
  if !c.hasTeam uid || t.signalled || !t.parties.all (c.countsTriggered t) then pure ()
  else if !released && t.parties.all (·.retired) && !t.parties.all (·.triggered) then pure ()
  else do
    modTeam uid (fun t => { t with signalled := true })
    match (c.recOf t).bind (·.join) with
    | none => pure ()
    | some pa => do
      let id ← freshId
      modC (fun c => { c with entries := c.entries ++ [{
        id := id, ins := id, team := uid, who := .bobbin, pid := 0, home := 63, cluster := t.die * 16 + t.core / 4,
        stage := .sync, act := .join, acq := false, rel := false, scope := 0,
        els := [{ lane := 0, loc := dmLoc pa, n := 8, vs := 0, va := 0, data := 0, data2 := 0, sink := .none }],
        since := 0, fence := 0, cnt := none, poisoned := false, kslot := (c.ctx t.rctx).kslot, user := false, party := 0, flags := false,
        hl := none, born := c.cyc }] })

/-- A grid whose last team has retired completes (R360): claimed inputs and outputs still reserved become EMPTY, and
the record leaves the queue. -/
def countRetired (rctx id : Nat) : M Unit := do
  modC (fun c => c.updCtx rctx (fun x =>
    match x.recs.find? (fun r => r.id == id) with
    | none => x
    | some r =>
      if r.retired + 1 < r.ixcount then
        { x with recs := x.recs.map (fun o => if o.id == id then { o with retired := o.retired + 1 } else o) }
      else
        let y := x.setTbs (r.ins.filter (fun i => x.tb i == 3) ++ r.outs.filter (fun i => x.reservedBy i id)) 0
        { y with recs := y.recs.filter (fun o => o.id != id), tbOwn := y.tbOwn.filter (fun t => t.2 != id) }))
  retest

/-- A record enters its context's queue and is tested (R360, R368). -/
def enqueueRec (r : Rec) : M Unit := do
  modC (fun c => c.updCtx r.rctx (fun x => { x with recs := x.recs ++ [r] }))
  retest

end Sys2Proof.Machine
end

