-- ==== Sys2Proof/Machine/Ops.lean ====
section
/-! DEFINITION. The named operations of a party: traps and their entry (R375 to R380), demotion (R102), the two stacks
and the spill area (R97 to R114), settling and retiring (R103, R32), parks (R34), recorded hits and faults (R128,
R188), counting into a barrier word (R139). -/

namespace Sys2Proof.Machine

/-- What an attempt ends in: a value, a trap, or a wait on the scoreboard. -/
inductive Got (α : Type) where
  | ok (a : α)
  | trap (r : TrapReq)
  | wait
deriving Repr, Inhabited

/-- Make an attempt; whatever it changed is undone unless it succeeds, but for requests sent to the host (R238), and for the
write-backs and fills of a cache that it waits for (R250). -/
def attempt {α : Type} (m : M (Got α)) : M (Got α) := do
  let r ← get
  match ← m with
  | .ok a => return .ok a
  | .trap t => do
    set r
    return .trap t
  | .wait => do
    let c ← getC
    set r
    modC (fun d => { d with ats := c.ats, tiles := c.tiles, groups := c.groups, tree := c.tree, roots := c.roots, cached := c.cached,
                            moves := c.moves, host := c.host })
    return .wait

/-- A precise trap with faulting lanes. -/
def mkTrap (cause sub : Nat) (lanes : Word) : TrapReq :=
  { cause := cause, sub := sub, lanes := lanes, addrs := [], imp := false, party := 0, mult := false, aux0 := 0,
    aux1 := 0, step1 := false }

/-- Set bits of a party's gst. -/
def orGst (uid p m : Nat) : M Unit := do
  let s ← getS
  emits (updGst s uid p m)

/-- The core that a group or the bobbin runs on (R25, R28). -/
def Team.coreOf (t : Team) (who : Who) : Nat :=
  match who with
  | .bobbin => t.core
  | .group g => t.core + t.slotOf g / 4

/-- The translation cache of a party's core. -/
def Team.engine (t : Team) (who : Who) : EngineId := .core t.die (t.coreOf who)

/-- The slot of its core that a group issues from (R28); 4 stands for the core's bobbin sequencers (R35). -/
def Team.issueSlot (t : Team) (who : Who) : Nat :=
  match who with
  | .bobbin => 4
  | .group g => t.slotOf g % 4

/-- A party's die, core and slot (R28, R173). -/
def Ctl.slotKey (c : Ctl) (uid : Nat) (who : Who) : Nat × Nat × Nat :=
  let t := c.team uid
  (t.die, t.coreOf who, t.issueSlot who)

/-- Code bytes as the team's core translates them, or as a walk finds them. -/
def State.codeBytes (s : State) (t : Team) (pc n : Nat) : Option (List Byte) :=
  let at_ (e lg : Nat) : Option (List Byte) :=
    if entBit e 63 || entBit e 62 then none else some (s.loadBytes (dmLoc (leafBase e lg + pc % 2 ^ lg)) n)
  match s.ctl.tlbs.find? (fun x => x.eng == .core t.die t.core && x.rctx == t.rctx && covers x.va (2 ^ x.log) pc 1) with
  | some x => at_ x.leaf.toNat x.log
  | none =>
    match s.walk (s.ctl.ctx t.rctx).root pc with
    | .leaf e _ lg => at_ e lg
    | .fault _ _ => none

/-- The base word at an address, if it can be read. -/
def State.peek (s : State) (t : Team) (pc : Word) : Option Word :=
  (s.codeBytes t (advPc pc).toNat 8).map (fun b => wd (ofBytes b))

/-- Whether the next instruction that is not a nop continues the open chain of a path (R45). The count bounds how many
nops are looked past; while what follows cannot be read, or is not reached, the chain stays open. -/
def State.continues (s : State) (t : Team) (pc : Word) : Nat → Bool
  | 0 => true
  | n + 1 =>
    match s.peek t pc with
    | none => true
    | some w => if w = 0 then s.continues t (nextPc (advPc pc) 8) n else w.getLsbD 2

/-- A path stands inside a chain (R33, R45). One whose last-only instruction waits at the helper unit, or for a tile or
credits, does not: the wait is given up at a release or a save (R279, R335), and others must be able to issue meanwhile
(assumption 118). -/
def State.midChain (s : State) (t : Team) (p : Path) : Bool :=
  p.chain.isSome && p.park.isNone && !p.stalled && s.continues t p.pc 64

/-- A group hosts helper lanes of another group's recruitment. -/
def Ctl.lends (c : Ctl) (uid g : Nat) : Bool :=
  c.recruits.any (fun x => x.team == uid && x.group != g && x.lanes.any (fun h => h.group == g))

/-- Depth of the reconvergence stack, spilled entries included (R113). -/
def Group.nr (g : Group) : Nat := g.recon.length + (g.spilled.filter (fun x => x != .ras)).length

/-- Depth of the return-address stack, spilled entries included (R113). -/
def Group.na (g : Group) : Nat := g.ras.length + (g.spilled.filter (fun x => x == .ras)).length

/-- A DUAL entry is on the stack (R99). -/
def Group.hasDual (g : Group) : Bool :=
  g.recon.any (fun e => e.kind == .dual) || g.spilled.any (fun x => match x with
    | .recon d _ => d
    | .ras => false)

/-- Bytes of the control region (R113). -/
def Group.cb (g : Group) : Nat := 64 * ((g.nr - 16) + (g.na - 8))

/-- A bobbin or group of the machine as it stands. -/
def getGroup (uid : Nat) (who : Who) : M Group := do return ((← getC).team uid).party who

/-- Change a recruitment. -/
def modRecruit (id : Nat) (f : Recruit → Recruit) : M Unit :=
  modC (fun c => { c with recruits := c.recruits.map (fun x => if x.id == id then f x else x) })

/-- A recruitment of a group whose helper path is a pending arm with these lanes. -/
def Ctl.suspendedIn (c : Ctl) (g : Group) (act : Word) : Option Recruit :=
  match g.recruit with
  | none => none
  | some id => c.recruits.find? (fun x => x.id == id && x.suspended && act.getLsbD x.lane)

/-- The path of the recruiter's group is a helper path again, under a new number (R102, R283). -/
def Recruit.resumeAs (x : Recruit) (pid : Nat) : Recruit :=
  { x with
    pid := pid, suspended := false, trapped := false,
    lanes := x.lanes.map (fun h => if h.group == x.group then { h with pid := pid } else h) }

/-- Where a path's chain starts again (R47, R380). -/
def Path.headPc (p : Path) : Word :=
  match p.chain with
  | some ch => if p.park.isSome || p.stalled then ch.head else p.pc
  | none => p.pc

/-- The records of one waiter go (R260, R266). -/
def dropWaiter (w : Waiter) : M Unit := modC fun c => { c with waits := c.waits.filter (fun x => x.who != w) }

/-- Parks of a team's paths end: their durations are recorded (R401). -/
def endParks (uid : Nat) (ks : List Park) : M Unit := do
  let c ← getC
  let t := c.team uid
  forEach ks (fun k => recordMon t.die (some t.rctx) 2 (c.cyc - k.since))

/-- Helper lanes of one group are released (R278): their iterations are returned, their contributions discarded. -/
def Recruit.release (x : Recruit) (hs : List HelperLane) : Recruit :=
  let its := hs.filterMap (·.iter)
  { x with
    returned := x.returned ++ its
    freed := x.freed ++ hs.filter (·.iter.isSome)
    pending := x.pending.filter (fun k => !its.contains k.iter)
    lanes := x.lanes.filter (fun h => !hs.contains h) }

/-- Release lanes of a group: paths lose them, leave their parks, and end when no lane is left. -/
def releaseLanes (uid g : Nat) (x : Recruit) (hs : List HelperLane) : M Unit := do
  endParks uid (((← getGroup uid (.group g)).paths.filter (fun p => p.helper == some x.id && hs.any (fun h => h.pid == p.pid))).filterMap
    (·.park))
  modRecruit x.id (fun y => y.release hs)
  forEach (hs.map (·.pid)).dedup (fun i => dropWaiter (.path { team := uid, who := .group g, pid := i }))
  modGroup uid (.group g) (fun d => { d with
    paths := (d.paths.map (fun p =>
      let m := maskOf ((hs.filter (fun h => h.pid == p.pid)).map (·.lane))
      if p.helper == some x.id && m != 0 then
        { p with act := p.act &&& ~~~m, pc := p.headPc, stalled := false,
                 chain := if p.park.isSome || p.stalled then none else p.chain, park := none }
      else p)).filter (fun p => p.act != 0) })

/-- The helper lanes of a group's own recruitment, helper 0 aside, that lie in a set of lanes. -/
def Recruit.ownIn (x : Recruit) (act : Word) : List HelperLane :=
  x.lanes.filter (fun h => h.group == x.group && h.lane != x.lane && act.getLsbD h.lane)

/-- The recruitment of a group takes back the lanes that a path is about to execute in (R278). -/
def reclaimLanes (uid : Nat) (who : Who) (act : Word) : M Unit := do
  let c ← getC
  match ((c.team uid).party who).recruit.bind (fun id => c.recruits.find? (fun x => x.id == id && !x.suspended)) with
  | some x => onlyIf (!(x.ownIn act).isEmpty) (releaseLanes uid who.idx x (x.ownIn act))
  | none => pure ()

/-- The lanes in which a pending arm starts: of a helper path those that it still holds (R278). -/
def Recruit.lanesIn (x : Option Recruit) (who : Who) (act : Word) : Word :=
  match x with
  | some r => act &&& maskOf ((r.lanes.filter (fun h => .group h.group == who)).map (·.lane))
  | none => act

/-- A path starts; helper lanes of its group that it is to execute in are released first (R278). What the group issued
before comes before the path's entries; it is fenced from them at a join and at the start of a pending arm (R215), and
only as far as it was fenced from path `like`, if that is given, where a pair goes live (R99). -/
def startPath (uid : Nat) (who : Who) (pc act fmt : Word) (like : Option Path) : M Unit := do
  reclaimLanes uid who act
  let c ← getC
  let g ← getGroup uid who
  let x := c.suspendedIn g act
  modGroup uid who (fun g => { g with
    nextPid := g.nextPid + 1,
    paths := g.paths ++ [{ pid := g.nextPid, pc := advPc pc, act := Recruit.lanesIn x who act, fmt := fmt, chain := none, lat := [],
                           park := none, born := c.nextId, fence := (like.map (·.fence)).getD c.nextId, helper := x.map (·.id),
                           hk := (x.map (·.hk)).getD [], stalled := false, age := none, prog := none }] })
  match x with
  | some r => modRecruit r.id (fun x => x.resumeAs g.nextPid)
  | none => pure ()

/-- The path that has started from a pending arm takes up the wait that a trap has ended (R152, R157). -/
def takeUp (uid : Nat) (who : Who) (k : Option Park) (head : Word) : M Unit :=
  match k with
  | none => pure ()
  | some k => modGroup uid who (fun g => g.updPath (g.nextPid - 1) (fun p => { p with
      chain := some { head := advPc head, pos := 0 },
      park := some { k with cur := { k.cur with p := { team := uid, who := who, pid := p.pid } } } }))

/-- A wait for a phase that has been released has ended: the path stands behind it (R148). -/
def Path.pastWait (p : Path) : Path :=
  match p.park with
  | some k =>
    (match k.kind with
     | .barrier _ _ _ =>
       if k.released && k.doom.isNone then { p with pc := nextPc k.cur.pc k.cur.len, chain := none, lat := [], park := none } else p
     | _ => p)
  | none => p

/-- The wait of a path that a trap has ended, if it has one. -/
def Path.doomed (p : Path) : Option Park := p.park.filter (fun k => k.doom.isSome)

/-- A path ends. -/
def endPath (uid : Nat) (who : Who) (pid : Nat) : M Unit :=
  modGroup uid who (fun g => { g with paths := g.paths.filter (fun p => p.pid != pid) })

/-- Demotion of a live pair: the path other than pid becomes the pending arm of the DUAL entry (R102); a wait of it that a trap
has ended still ends so (R152, R157). -/
def demote (uid : Nat) (who : Who) (pid : Nat) : M Unit := do
  let g ← getGroup uid who
  match g.live.find? (fun p => p.pid != pid) with
  | none => pure ()
  | some o => do
    dropWaiter (.path { team := uid, who := who, pid := o.pid })
    endParks uid ((o.park.filter (fun k => k.doom.isNone)).toList)
    modGroup uid who (fun g => { g with
      paths := g.paths.filter (fun p => p.pid != o.pid),
      recon := match g.recon with
        | e :: r => { e with ppc := advPc o.pastWait.headPc, pmask := o.act, pfmt := o.fmt, ppark := o.doomed } :: r
        | [] => [] })
    match o.helper with
    | some id => modRecruit id (fun x => { x with suspended := true, hk := o.hk })
    | none => pure ()

/-- The 64 bytes of a reconvergence record (R114), as eight doublewords. -/
def REnt.words (e : REnt) : List Word :=
  let tag := match e.kind with
    | .ser => 1
    | .dual => 2
    | .callv => 3
  [e.jpc, e.jmask, e.ppc, e.pmask, wd (e.pfmt.toNat % 2 ^ 19 * 2 ^ 32 + e.fcopy.toNat % 2 ^ 19), e.arr, 0, wd tag]

/-- The 64 bytes of a return-address record (R114). -/
def RAEnt.words (e : RAEnt) : List Word := [e.pc, wd (e.depth % 65536), 0, 0, 0, 0, 0, 4]

/-- A reconvergence entry from its record, by the record's tag. -/
def recOfWords (w : List Word) : Option REnt :=
  let g (i : Nat) : Word := w.getD i 0
  let tag := wfld (g 7) 3 0
  if tag = 1 ∨ tag = 2 ∨ tag = 3 then
    some { jpc := g 0, jmask := g 1, ppc := g 2, pmask := g 3, pfmt := wd (wfld (g 4) 50 32),
           fcopy := wd (wfld (g 4) 18 0), arr := g 5,
           kind := if tag = 1 then .ser else if tag = 2 then .dual else .callv, ppark := none }
  else none

/-- What an executing instruction needs to reach memory on its group's behalf. -/
structure Acc where
  uid : Nat
  who : Who
  rctx : Nat
  user : Bool
  lanes : Word
deriving Repr

/-- A location that one access reaches; its faults name the given lanes and address (R236, R237). -/
def reach (a : Acc) (va n : Nat) (need : Need) : M (Got Loc) := do
  let t := (← getC).team a.uid
  match ← translate (t.engine a.who) a.rctx va a.user need with
  | .fault c b => return .trap { mkTrap c b a.lanes with addrs := (lanesOf a.lanes 64).map (fun l => (l, wd va)) }
  | .wait => return .wait
  | .ok l =>
    let c ← getC
    if c.busyAt a.uid a.who l n then return .wait
    if l.sp != .dm then
      match (← getS).farFault t.die a.rctx va a.user need l with
      | .fault c b => return .trap { mkTrap c b a.lanes with addrs := (lanesOf a.lanes 64).map (fun l => (l, wd va)) }
      | .wait => return .wait
      | .ok l => return .ok l
    else
    match ← sealAccess (c.ctx a.rctx).kslot l.key need.wr with
    | .fail b => return .trap { mkTrap 11 b a.lanes with addrs := (lanesOf a.lanes 64).map (fun l => (l, wd va)) }
    | .wait => return .wait
    | .ok => return .ok l

/-- Address of the i-th control record (R113). -/
def recAddr (spl : Word) (i : Nat) : Nat := spl.toNat - 64 * (i + 1)

/-- Write one control record. -/
def putRecord (a : Acc) (spl : Word) (i : Nat) (w : List Word) : M (Got Unit) := do
  match ← reach a (recAddr spl i) 64 { rd := false, wr := true, x := false } with
  | .trap r => return .trap r
  | .wait => return .wait
  | .ok l => do
    storeBytes l ((w.map (fun x => bytesOf x.toNat 8)).flatten)
    retest
    return .ok ()

/-- Read one control record. -/
def getRecord (a : Acc) (spl : Word) (i : Nat) : M (Got (List Word)) := do
  match ← reach a (recAddr spl i) 64 { rd := true, wr := false, x := false } with
  | .trap r => return .trap r
  | .wait => return .wait
  | .ok l => do
    let s ← getS
    return .ok ((List.range 8).map (fun i => wd (s.load (l.plus (8 * i)) 8)))

/-- Room for one more control record: STACK 0x01 otherwise (R113). The bobbin has no spill area (R117). -/
def roomFor (a : Acc) : M (Got Word) := do
  let s ← getS
  let g := (s.ctl.team a.uid).party a.who
  let spl := s.csrOf a.uid a.who.idx 5
  if a.who == .bobbin ∨ spl.toNat < g.dsp.toNat + 64 * (g.spilled.length + 1) then return .trap (mkTrap 0x28 1 a.lanes)
  return .ok spl

/-- Push a reconvergence entry (R98, R113). -/
def pushRecon (a : Acc) (n : REnt) : M (Got Unit) := do
  let g ← getGroup a.uid a.who
  if g.recon.length < 16 then do
    modGroup a.uid a.who (fun g => { g with recon := n :: g.recon })
    return .ok ()
  match ← roomFor a with
  | .trap r => return .trap r
  | .wait => return .wait
  | .ok spl =>
    let old := g.recon.getLastD n
    match ← putRecord a spl g.spilled.length old.words with
    | .trap r => return .trap r
    | .wait => return .wait
    | .ok _ => do
      modGroup a.uid a.who (fun g => { g with
        recon := n :: g.recon.dropLast, spilled := g.spilled ++ [.recon (old.kind == .dual) old.ppark] })
      return .ok ()

/-- Push a return address (R110, R113). -/
def pushRas (a : Acc) (n : RAEnt) : M (Got Unit) := do
  let g ← getGroup a.uid a.who
  if g.ras.length < 8 then do
    modGroup a.uid a.who (fun g => { g with ras := n :: g.ras })
    return .ok ()
  match ← roomFor a with
  | .trap r => return .trap r
  | .wait => return .wait
  | .ok spl =>
    match ← putRecord a spl g.spilled.length (g.ras.getLastD n).words with
    | .trap r => return .trap r
    | .wait => return .wait
    | .ok _ => do
      modGroup a.uid a.who (fun g => { g with ras := n :: g.ras.dropLast, spilled := g.spilled ++ [.ras] })
      return .ok ()

/-- The position of the newest spilled record of a stack. -/
def lastSpilled (ras : Bool) (l : List Spilled) : Option Nat :=
  ((List.range l.length).filter (fun i => (l.getD i .ras == .ras) == ras)).getLast?

/-- The ended wait that goes with the i-th spilled record. -/
def parkAt (l : List Spilled) (i : Nat) : Option Park :=
  match l[i]? with
  | some (.recon _ k) => k
  | _ => none

/-- After a pop: the newest spilled record of the stack comes back on chip, and the last record of the region takes
its place, so that the region stays the top CB bytes (R113, R114). -/
def refill (a : Acc) (ras : Bool) : M (Got Unit) := do
  let s ← getS
  let g := (s.ctl.team a.uid).party a.who
  let spl := s.csrOf a.uid a.who.idx 5
  match lastSpilled ras g.spilled with
  | none => return .ok ()
  | some i =>
    match ← getRecord a spl i with
    | .trap r => return .trap r
    | .wait => return .wait
    | .ok w =>
      let m := g.spilled.length - 1
      let moved : Got Unit ← (if m = i then pure (Got.ok ()) else do
        match ← getRecord a spl m with
        | .trap r => return .trap r
        | .wait => return .wait
        | .ok x => putRecord a spl i x)
      match moved with
      | .trap r => return .trap r
      | .wait => return .wait
      | .ok _ =>
        let tag := wfld (w.getD 7 0) 3 0
        let sp := (g.spilled.set i (g.spilled.getD m .ras)).dropLast
        if ras then
          if tag = 4 then do
            modGroup a.uid a.who (fun g => { g with
              spilled := sp, ras := g.ras ++ [{ pc := w.getD 0 0, depth := wfld (w.getD 1 0) 15 0 }] })
            return .ok ()
          else return .trap (mkTrap 0x28 6 a.lanes)
        else
          match recOfWords w with
          | some e => do
            modGroup a.uid a.who (fun h => { h with spilled := sp, recon := h.recon ++ [{ e with ppark := parkAt g.spilled i }] })
            return .ok ()
          | none => return .trap (mkTrap 0x28 6 a.lanes)

/-- Pop the top reconvergence entry. -/
def popRecon (a : Acc) : M (Got Unit) := do
  modGroup a.uid a.who (fun g => { g with recon := g.recon.tail })
  refill a false

/-- Pop the top return address. -/
def popRas (a : Acc) : M (Got Unit) := do
  modGroup a.uid a.who (fun g => { g with ras := g.ras.tail })
  refill a true

/-- Decision-queue entries that every group that has not retired has read are freed (R36). -/
def Team.freeDq (t : Team) : Team :=
  match (t.groups.filter (fun g => !g.retired)).map (·.dqRead) with
  | [] => { t with dq := [], dqBase := t.dqBase + t.dq.length }
  | x :: r =>
    let m := r.foldl min x
    { t with dq := t.dq.drop (m - t.dqBase), dqBase := max m t.dqBase }

/-- A tile held by a group is retired (R329). -/
def retireTile (uid : Nat) (who : Who) : M Unit := do
  let g ← getGroup uid who
  match g.tile with
  | none => pure ()
  | some r =>
    modC (fun c => { c with
      rtiles := (c.rtiles.map (fun x => if x.id == r.tile then { x with state := .retired } else x)).filter (fun x =>
        x.state != .retired || c.rents.any (fun q => q.tile == x.id)) })
    modGroup uid who (fun g => { g with tile := none })

/-- A party retires (R32, R36, R329, R379): recorded hits and faults are discarded. -/
def retireParty (uid : Nat) (who : Who) : M Unit := do
  retireTile uid who
  modGroup uid who (fun g => { g with paths := [], retired := true, hits := [], faults := [], recon := [], ras := [],
                                      spilled := [] })
  modTeam uid Team.freeDq
  tryTrigger uid false

/-- The target that a lane holds for a callv whose SA field is sa (R111). -/
def callTarget (s : State) (uid : Nat) (who : Who) (sa : Nat) (lane : Nat) : Word :=
  let v (n : Nat) : Nat := (s.v.get (vKey uid who.idx lane n)).toNat
  wd (v sa + 2 ^ 32 * v (sa + 1))

/-- The word of a callv is read again at its address, as a fetch reads it (R111, R236, R251): where its page moves or its tile is
re-sealed the read waits (R243, R250), and what a fetch would fault on is a fault of the instruction that settles. -/
def readCall (a : Acc) (pc : Word) : M (Got Word) := do
  match ← reach a (advPc pc).toNat 8 { rd := false, wr := false, x := true } with
  | .wait => return .wait
  | .trap r => return .trap (if r.cause = 11 ∧ r.sub = 0 then { r with sub := 1 } else r)
  | .ok l => return .ok (wd ((← getS).load l 8))

/-- The next call of the top CALLV entry (R111). -/
def callvStep (a : Acc) : M (Got Unit) := do
  let s ← getS
  let g := (s.ctl.team a.uid).party a.who
  match g.recon.head? with
  | none => return .ok ()
  | some e =>
  match ← readCall a e.ppc with
  | .wait => return .wait
  | .trap r => return .trap r
  | .ok cw =>
    let ts := (lanesOf e.pmask g.width).map (fun l => (l, callTarget s a.uid a.who (wfld cw 39 31) l))
    let m := ts.foldl (fun m x => if x.2.toNat < m.toNat then x.2 else m) allOnes
    let cm := maskOf ((ts.filter (fun x => x.2 == m)).map (·.1))
    match ← pushRas a { pc := e.ppc ||| 1, depth := g.nr } with
    | .trap r => return .trap r
    | .wait => return .wait
    | .ok _ => do
      modGroup a.uid a.who (fun g => { g with recon := match g.recon with
        | e :: r => { e with pmask := e.pmask &&& ~~~cm } :: r
        | [] => [] })
      startPath a.uid a.who m cm e.fcopy none
      return .ok ()

/-- The stack settles (R103); the count bounds the entries it may pop. -/
def settleN (a : Acc) : Nat → M (Got Unit)
  | 0 => pure (.ok ())
  | n + 1 => do
    let g ← getGroup a.uid a.who
    if !g.live.isEmpty then return .ok ()
    match g.recon with
    | [] => do
      retireParty a.uid a.who
      return .ok ()
    | e :: _ =>
      if e.pmask ≠ 0 then
        if e.kind == .callv then callvStep a
        else do
          modGroup a.uid a.who (fun g => { g with recon := match g.recon with
            | e :: r => { e with pmask := 0, ppark := none } :: r
            | [] => [] })
          startPath a.uid a.who e.ppc e.pmask e.pfmt none
          takeUp a.uid a.who e.ppark e.ppc
          return .ok ()
      else
        match ← popRecon a with
        | .trap r => return .trap r
        | .wait => return .wait
        | .ok _ =>
          if e.jmask = 0 then settleN a n
          else do
            startPath a.uid a.who (if e.kind == .callv then e.jpc else e.jpc + 8) e.jmask e.fcopy none
            return .ok ()

/-- The stack settles (R103). -/
def settle (a : Acc) : M (Got Unit) := do
  let g ← getGroup a.uid a.who
  settleN a (g.nr + 2)

/-- The address after an instruction, advanced (R39, R377): zero where it has no known length. -/
def Cur.npc (c : Cur) : Word := if c.len = 0 ∨ c.bits.toNat % 4 = 3 then 0 else nextPc c.pc c.len

/-- The chain head that a trap of an instruction names (R40, R46, R47). -/
def trapHead (p : Path) (c : Cur) (r : TrapReq) : Word :=
  match p.chain with
  | none => c.pc
  | some ch =>
    if r.cause = 2 ∧ r.sub % 32 = 6 then c.pc
    else if c.bits.getLsbD 2 ∨ (r.step1 ∧ c.bits = 0) then ch.head else c.pc

/-- A helper 0 whose trap goes to the host instead of its group's handler is in helper mode again (R274, R379). -/
def helperAgain (pth : PathId) : M Unit := do
  let c ← getC
  match ((c.team pth.team).party pth.who).recruit.bind (fun id => c.recruits.find? (fun x => x.id == id && x.trapped)) with
  | some x => do
    modPath pth (fun p => { p with helper := some x.id, hk := x.hk })
    modRecruit x.id (fun y => { y with trapped := false })
  | none => pure ()

/-- A host-serviced trap (R379): issue of the team stops and it is saved; the report follows its save. -/
def hostService (pth : PathId) (cur : Cur) (r : TrapReq) (head : Word) (double : Bool) : M Unit := do
  modPath pth (fun p => { p with pc := head, chain := none, lat := [], park := none, age := none, prog := none })
  onlyIf (!double) (helperAgain pth)
  modTeam pth.team (fun t => { t with phase := .saving, service := some {
    who := pth.who, pid := pth.pid, cause := r.cause, sub := r.sub, pc := head, npc := cur.npc,
    insn := if r.step1 then 0 else cur.bits, double := double } })

/-- The doublewords of a trap frame, +0x000 to +0x3F8 (R377). -/
def frameWords (cur : Cur) (r : TrapReq) (head act fmt gst : Word) (na nr : Nat) : List Word :=
  let insn := if r.step1 then 0 else cur.bits
  let info := r.cause % 256 + r.sub % 256 * 2 ^ 8 + (if r.imp then 2 ^ 16 else 0) + (if r.mult then 2 ^ 17 else 0) +
    r.party % 4 * 2 ^ 18
  [head, wd info, r.lanes, act, wd (insn.toNat % 2 ^ 64), wd (insn.toNat / 2 ^ 64), fmt, gst] ++
  (List.range 64).map (fun l => ((r.addrs.find? (fun x => x.1 == l)).map (·.2)).getD 0) ++
  [if r.step1 then 0 else cur.npc, r.aux0, r.aux1, wd (na % 65536 * 65536 + nr % 65536)] ++ List.replicate 52 0

/-- Where a frame is written (R376, R377, R379): its page must translate, and its tile pass its seal. -/
def frameReach (eng : EngineId) (rctx tfa : Nat) : M Tr := do
  match ← translate eng rctx tfa false { rd := false, wr := true, x := false } with
  | .ok l =>
    if l.sp != .dm then return .ok l
    match ← sealAccess ((← getC).ctx rctx).kslot l.key false with
    | .wait => return .wait
    | .fail b => return .fault 11 b
    | .ok => return .ok l
  | x => return x

/-- The frame's W entries, one for each line of the page (R376, R378). -/
def frameEntries (pth : PathId) (t : Team) (kslot : Nat) (l : Loc) (va : Nat) (ws : List Word) : M Unit := do
  let ins ← freshId
  forEach (List.range 16) fun i => do
    let id ← freshId
    let c ← getC
    let p := ((c.team pth.team).party pth.who).path pth.pid
    appendEntry {
      id := id, ins := ins, team := pth.team, who := pth.who, pid := pth.pid, home := pth.who.idx,
      cluster := t.cluster, stage := .pend, act := .write, acq := false, rel := false, scope := 0,
      els := (List.range 8).map (fun j => { lane := 0, loc := l.plus (64 * i + 8 * j), n := 8, vs := 0,
                                            va := va + 64 * i + 8 * j, data := ws.getD (8 * i + j) 0, data2 := 0,
                                            sink := .none }),
      since := p.born, fence := p.fence, cnt := none, poisoned := false, kslot := kslot, user := false, party := 2, flags := false,
      hl := none, born := c.cyc }

/-- What a report takes is no longer recorded: the hits of a GUARD report, or the faults of the report's kind. -/
def Group.dropDue (g : Group) (r : TrapReq) : Group :=
  if r.cause = 0x10 then { g with hits := [] }
  else { g with faults := g.faults.filter (fun x => !(x.cause == r.cause && x.sub == r.sub && x.party == r.party)) }

/-- What a trap reports when it is taken is no longer recorded: a hit or a fault (R129, R188), or the fault that a recruitment
kept (R283). -/
def dropReport (pth : PathId) (r : TrapReq) : M Unit := do
  onlyIf r.imp (modGroup pth.team pth.who (fun g => g.dropDue r))
  onlyIf (r.cause == 0x12) (modC (fun c => { c with recruits := c.recruits.map (fun x =>
    if x.team == pth.team && .group x.group == pth.who then { x with fault := none } else x) }))

/-- `gst` of a party as a frame holds it (R62, R377): HST is that of the trapping path. -/
def State.gstAt (s : State) (t : Team) (g : Group) (p : Path) : Word :=
  let aside := s.ctl.recruits.any (fun x => some x.id == g.recruit && x.trapped)
  let hst := if p.helper.isSome || aside then 2 else if g.recruit.isSome then 1 else 0
  (s.csrOf t.uid g.who.idx 0 &&& ~~~(0x600 : Word)) ||| wd (hst * 512)

/-- TAKING A TRAP (R376): the frame is written at tfa, the other path of a pair becomes a pending arm, and the group
goes on at tvec at supervisor level in the faulting lanes. A double trap, an absent handler, a bobbin's trap and a
frame that cannot be written go to the host, after the demotion (R102, R380; assumption 117). Where the frame's page has still
to be translated, or its tile to be filled, the trap waits: the instruction executes again and traps again. -/
def takeTrap (pth : PathId) (cur : Cur) (r : TrapReq) : M Unit := do
  let s ← getS
  let t := s.ctl.team pth.team
  let g := t.party pth.who
  let p := g.path pth.pid
  let i := pth.who.idx
  let head := trapHead p cur r
  let tvec := s.csrOf pth.team i 2
  demote pth.team pth.who pth.pid
  if g.inTrap || tvec == 0 || pth.who == .bobbin then do
    dropReport pth r
    hostService pth cur r head g.inTrap
  else do
    let tfa := s.csrOf pth.team i 3
    match ← frameReach (t.engine pth.who) t.rctx tfa.toNat with
    | .wait => do
      helperAgain pth
      modPath pth (fun p => { p with pc := cur.pc, stalled := false })
    | .fault _ _ => do
      dropReport pth r
      hostService pth cur r head false
    | .ok l => do
      dropReport pth r
      let g ← getGroup pth.team pth.who
      frameEntries pth t (s.ctl.ctx t.rctx).kslot l tfa.toNat
        (frameWords cur r head p.act p.fmt (s.gstAt t g p) g.na g.nr)
      let act := r.lanes &&& p.act
      modPath pth (fun p => { p with
        act := if act = 0 then p.act else act, fmt := 0, pc := advPc tvec, chain := none, lat := [], park := none,
        age := none, prog := none })
      modGroup pth.team pth.who (fun g => { g with
        inTrap := true, held := if act = 0 then 0 else p.act &&& ~~~act })
      orGst pth.team i 0x1000

/-- Helper lanes stop with their iterations aborted (R283): their contributions go, and the recruitment keeps the
fault of its lowest aborted iteration. -/
def Recruit.abort (x : Recruit) (hs : List HelperLane) (r : TrapReq) : Recruit :=
  let its := hs.filterMap (·.iter)
  let addr (h : HelperLane) : Word := ((r.addrs.find? (fun a => a.1 == h.lane)).map (·.2)).getD 0
  { x with
    aborted := x.aborted ++ its,
    pending := x.pending.filter (fun k => !its.contains k.iter),
    lanes := x.lanes.filter (fun h => !hs.contains h),
    fault := (hs.filterMap (fun h => h.iter.map (fun i => (i, r.cause, r.sub, addr h)))).foldl
      (fun f n => match f with
        | none => some n
        | some o => if n.1 < o.1 then some n else some o) x.fault }

/-- A trap in helper code (R283), of the lanes that it names or, where a uniform access names lane 0 and that is not of the path, of
all its lanes (assumption 149): lanes other than helper 0 are released with their iterations aborted and the path starts its
chain again without them; helper 0's own trap is taken by the group, outside helper mode until `tret`. -/
def helperTrap (pth : PathId) (cur : Cur) (r : TrapReq) (x : Recruit) : M Unit := do
  let c ← getC
  let p := ((c.team pth.team).party pth.who).path pth.pid
  let mine := x.group == pth.who.idx && x.pid == pth.pid
  let fl := if r.lanes &&& p.act = 0 then p.act else r.lanes &&& p.act
  let hs := x.lanes.filter (fun h => h.group == pth.who.idx && h.pid == pth.pid && fl.getLsbD h.lane &&
    !(mine && h.lane == x.lane))
  modRecruit x.id (fun y => y.abort hs r)
  let gone := maskOf (hs.map (·.lane))
  modPath pth (fun p => { p with act := p.act &&& ~~~gone })
  if mine && fl.getLsbD x.lane then do
    modRecruit x.id (fun y => { y with trapped := true, hk := p.hk })
    modPath pth (fun p => { p with helper := none })
    takeTrap pth cur { r with lanes := wd (2 ^ x.lane), addrs := r.addrs.filter (fun a => a.1 == x.lane) }
  else if p.act &&& ~~~gone = 0 then endPath pth.team pth.who pth.pid
  else modPath pth (fun q => { q with pc := trapHead p cur r, chain := none, lat := [], park := none, age := none })

/-- A trap of a path enters, in helper code or not; one that a refused host page gives takes the refusal with it (R238). -/
def raiseOn (pth : PathId) (cur : Cur) (r : TrapReq) : M Unit := do
  onlyIf (r.cause == 9 && r.sub == 4) (modC (fun c =>
    c.forgetRefused (c.team pth.team).rctx (r.addrs.map (fun a => a.2.toNat))))
  let c ← getC
  let p := ((c.team pth.team).party pth.who).path pth.pid
  match p.helper with
  | none => takeTrap pth cur r
  | some id =>
    match c.recruits.find? (fun x => x.id == id) with
    | some x => helperTrap pth cur r x
    | none => takeTrap pth cur r

/-- A trap of a path. Where the other live path's wait has been ended by a trap already, that trap enters, and this path, whose
instruction has written nothing, starts its chain again as the pending arm (R386). -/
def raise (pth : PathId) (cur : Cur) (r : TrapReq) : M Unit := do
  let g ← getGroup pth.team pth.who
  let p := g.path pth.pid
  match (if p.doomed.isSome then none else (g.live.filter (fun q => q.pid != pth.pid)).findSome? (·.doomed)) with
  | some k => do
    modPath pth (fun p => { p with pc := trapHead p cur r, chain := none, lat := [], stalled := false })
    raiseOn k.cur.p k.cur (k.doom.getD r)
  | none => raiseOn pth cur r

/-- A GUARD hit of a lane is recorded (R128). -/
def recordHit (uid : Nat) (who : Who) (lane : Nat) (w : Word) (copy : Bool) : M Unit :=
  modGroup uid who (fun g =>
    if g.hits.any (fun h => h.lane == lane) then
      { g with hits := g.hits.map (fun h => if h.lane == lane then { h with mult := true, copy := h.copy || copy } else h) }
    else { g with hits := g.hits ++ [{ lane := lane, word := w, mult := false, copy := copy }] })

/-- A party of a team by its index. -/
def whoOf (i : Nat) : Who := if i = 63 then .bobbin else .group i

/-- A fault of its party ends this wait (R188): one in major 0x13 that has not been released, nor ends in a trap already (R152,
R157). -/
def Park.faultEnds (k : Park) : Bool :=
  (match k.kind with
   | .barrier _ _ _ | .counter _ _ => true
   | _ => false) && !k.released && k.doom.isNone

/-- A fault met after issue is recorded in its party (R188): the first fault of a lane is kept, a further one sets
MULT (R189); a path that waits in major 0x13 leaves its park. A retired party's fault is discarded (R379). -/
def recordFault (uid home lane cause sub party : Nat) (addr : Word) : M Unit := do
  let who := whoOf home
  let g ← getGroup uid who
  if g.retired then pure ()
  else do
    endParks uid ((g.paths.filterMap (·.park)).filter Park.faultEnds)
    modGroup uid who (fun g => { g with
      faults :=
        if g.faults.any (fun f => f.lane == lane) then
          g.faults.map (fun f => if f.lane == lane then { f with mult := true } else f)
        else g.faults ++ [{ lane := lane, cause := cause, sub := sub, party := party, addr := addr, mult := false }],
      paths := g.paths.map (fun p => if p.park.any Park.faultEnds then { p with park := none } else p) })

/-- The recorded fault that is taken next (R188): the one recorded first, with every lane of its kind. -/
def Group.faultDue (g : Group) : Option TrapReq :=
  match g.faults with
  | [] => none
  | f :: _ =>
    let fs := g.faults.filter (fun x => x.cause == f.cause && x.sub == f.sub && x.party == f.party)
    some { mkTrap f.cause f.sub (maskOf (fs.map (·.lane))) with
           addrs := fs.map (fun x => (x.lane, x.addr)), imp := true, party := f.party, mult := fs.any (·.mult) }

/-- The report that is due before an instruction of major 0x13 or a last `exit` (R129, R188, R145): the hits first, else
the recorded faults. -/
def Group.due (g : Group) : Option TrapReq :=
  match g.hits with
  | h :: r =>
    let hs := h :: r
    some { mkTrap 0x10 ((if hs.any (·.mult) then 1 else 0) + (if hs.any (·.copy) then 2 else 0))
             (maskOf (hs.map (·.lane))) with addrs := hs.map (fun h => (h.lane, h.word)), imp := true }
  | [] => g.faultDue

/-- The two doublewords of a barrier word (R138). -/
structure BarWord where
  ovr : Bool
  die : Bool
  pseq : Nat
  expa : Nat
  cnta : Nat
  expb : Nat
  cntb : Nat
deriving DecidableEq, Repr

/-- A bound word as it stands (R138). -/
def barWordOf (lo hi : Nat) : BarWord :=
  { ovr := bitOf lo 62, die := bitOf lo 61, pseq := fld lo 55 40, expa := fld lo 39 20, cnta := fld lo 19 0,
    expb := fld hi 63 32, cntb := fld hi 31 0 }

/-- The first doubleword of a bound word. -/
def BarWord.lo (b : BarWord) : Nat :=
  2 ^ 63 + (if b.ovr then 2 ^ 62 else 0) + (if b.die then 2 ^ 61 else 0) + b.pseq * 2 ^ 40 + b.expa * 2 ^ 20 + b.cnta

/-- The second doubleword. -/
def BarWord.hi (b : BarWord) : Nat := b.expb * 2 ^ 32 + b.cntb

/-- One counting event (R139): the new word, whether it sets OVER, how many phases it completes. -/
def BarWord.count (w : BarWord) (da db : Nat) : BarWord × Bool × Nat :=
  let o1 := (w.expa == 0 && da != 0) || (w.expb == 0 && db != 0)
  let a := w.cnta + (if w.expa = 0 then 0 else da)
  let b := w.cntb + (if w.expb = 0 then 0 else db)
  let n := if w.expa = 0 then b / w.expb else if w.expb = 0 then a / w.expa else min (a / w.expa) (b / w.expb)
  let a1 := a - n * w.expa
  let b1 := b - n * w.expb
  let o2 := n != 0 && (decide (1 < n) || a1 != 0 || b1 != 0)
  let o3 := decide (0xFFFFF < a1) || decide (0xFFFFFFFF < b1)
  let ov := o1 || o2 || o3
  ({ w with ovr := w.ovr || ov, cnta := min a1 0xFFFFF, cntb := min b1 0xFFFFFFFF, pseq := (w.pseq + n) % 65536 },
   ov, n)

/-- Every path of the device that waits on a barrier word is released (R139, R148), whether its team is resident or saved
(R142). -/
def releaseWaiters (l : Loc) : M Unit := modC fun c =>
  let f (p : Path) : Path :=
    match p.park with
    | some k =>
      (match k.kind with
       | .barrier w _ _ => if w == l && k.doom.isNone then { p with park := some { k with released := true } } else p
       | _ => p)
    | none => p
  let h (g : Group) : Group := { g with paths := g.paths.map f }
  { c with teams := c.teams.map (fun t => { t with groups := t.groups.map h, bobbin := t.bobbin.map h }) }

/-- Every path that waits on a barrier word takes a trap instead (R152, R134): the first such event stands. -/
def doomWaiters (l : Loc) (n : Nat) (sub : Nat) : M Unit := modC fun c =>
  let f (p : Path) : Path :=
    match p.park with
    | some k =>
      (match k.kind with
       | .barrier w _ _ =>
         if l.touches n w 16 && !k.released && k.doom.isNone then
           { p with park := some { k with doom := some (mkTrap 10 sub k.ex) } } else p
       | _ => p)
    | none => p
  let h (g : Group) : Group := { g with paths := g.paths.map f }
  { c with teams := c.teams.map (fun t => { t with groups := t.groups.map h, bobbin := t.bobbin.map h }) }

/-- A counting event reaches a bound word (R139): OVER goes to the charged party's gst unless it has retired. -/
def countInto (l : Loc) (da db uid home : Nat) : M Unit := do
  let s ← getS
  let w := barWordOf (s.load l 8) (s.load (l.plus 8) 8)
  let r := w.count da db
  storeN l r.1.lo 8
  storeN (l.plus 8) r.1.hi 8
  let g := (s.ctl.team uid).party (whoOf home)
  onlyIf (r.2.1 && s.ctl.hasTeam uid && !g.retired) (orGst uid home 0x40)
  onlyIf (r.2.2 != 0) (releaseWaiters l)

end Sys2Proof.Machine
end

