-- ==== Sys2Proof/Machine/Frame.lean ====
section
/-! DEFINITION. The frame every instruction runs in: the order of checks (R50), its reports (R129, R188), its mask
(R18), the scoreboard, and what completing, trapping, parking or waiting does to the path (R45, R46, R34). -/

namespace Sys2Proof.Machine

/-- How an instruction ends: it completes, it completes and pushes a result to the latches, it passes without taking a
place in a chain, it has moved its path itself, it traps, it parks, it waits on the scoreboard (`hold`), or it waits at
the helper unit, for a tile or for credits (`await`; R276, R281, R335). -/
inductive Res where
  | done
  | skip
  | push (v : List Word)
  | jump
  | trap (r : TrapReq)
  | park (k : ParkKind) (obj : Word)
  | hold
  | await
deriving Repr, Inhabited

/-- The lanes that execute (N41); the bobbin always executes (R81). -/
def execMask (act k : Word) (kn : Bool) (bob : Bool) : Word :=
  if bob then 1 else (if kn then ~~~k else k) &&& act

/-- What the meaning of an instruction looks at. -/
def envOf (s : State) (cur : Cur) (f : Fields) : Env :=
  let t := s.ctl.team cur.p.team
  let g := t.party cur.p.who
  let p := g.path cur.p.pid
  let e : Env := { s := s, cur := cur, t := t, g := g, p := p, f := f, ex := 0 }
  { e with ex := execMask p.act (e.k f.km.toNat) f.kn e.bob &&& gwMask g.width }

/-- Whether the instruction continues an open chain (R45). -/
def Env.cont (e : Env) : Bool := e.f.ch && e.p.chain.isSome

/-- Position of the instruction in its chain (R45). -/
def Env.pos (e : Env) : Nat :=
  if e.f.ch then (e.p.chain.map (·.pos)).getD 0 else 0

/-- An ILLENC with a reason (R51). -/
def Env.illenc (e : Env) (reason : Nat) : TrapReq := mkTrap 2 (e.pos * 32 + reason) e.p.act

/-- Step 5 of R50: the chain (R45, R46). A bobbin word with CH = 1 (R44 names no reason) takes 0x06 (assumption 153). -/
def chainFaults (i : Instr) (e : Env) : List TrapReq :=
  if e.f.ch && !e.cont then [mkTrap 2 6 e.p.act]
  else if (formOf i).srcs.any (fun c => decide (320 ≤ c.1) && decide (c.1 < 324) && decide (e.pos < c.1 - 319)) then
    [e.illenc 5]
  else []

/-- Read-only codes for which the bobbin has no value (R35). -/
def groupOnly (c : Nat) : Bool := c == 325 || c == 326 || c == 327 || c == 375

/-- The REGS of the register space that `hget` reads and `hjoin` writes: the recruiter's (R280). -/
def Env.recruiterRegs (e : Env) : Nat :=
  match e.rec? with
  | some r => (e.t.party (.group r.group)).regs
  | none => e.g.regs

/-- The recruiter's registers that an instruction names beyond its REGS (R284). -/
def recruiterBad (i : Instr) (e : Env) : Bool :=
  match i with
  | .hget f => decide (e.recruiterRegs < f.sa.toNat + (if f.mod.getLsbD 0 then 2 else 1))
  | .hjoin f => decide (e.recruiterRegs < f.dst.toNat + scfld f 2 0)
  | _ => false

/-- The REGS by which R55 judges the lane registers that an instruction names: those that `hget` and `hnext` write lie in
helper space (R280, R284). -/
def Env.regsFor (e : Env) (i : Instr) : Nat :=
  match i with
  | .hget _ | .hnext _ => 16
  | _ => e.regs

/-- What its entry bars in bobbin code of an instruction that it allows there: a group register that the bobbin does not have
(R64), and a control instruction under a mask (R117). -/
def bobBarred (i : Instr) : Bool :=
  match i with
  | .csrr f | .csrw f => !(f.sc == 0 || f.sc == 1 || f.sc == 6 || f.sc == 7)
  | .bra f | .exit f => f.km != 0
  | _ => false

/-- Step 6 of R50: fixed fields and operand codes, with what depends on the role (R55) and on bobbin code (R35, R44,
R64). What an entry bars in bobbin code raises 0x0A there, whatever else is wrong with the word (assumption 106). -/
def formFaults (i : Instr) (e : Env) : List Nat :=
  let fm := formOf i
  let regs := (fm.srcs ++ fm.dsts).any (fun c => decide (c.1 < 256) && decide (e.regsFor i < c.1 + c.2))
  let bobBad := fm.srcs.any (fun c => laneCode c.1 || groupOnly c.1)
  if e.bob && (!fm.bob || bobBarred i) then [10]
  else fm.faults ++ (if !e.bob && (regs || recruiterBad i e) then [3] else []) ++ (if e.bob && bobBad then [10] else [])

/-- Step 7 of R50: privilege (R61, R80). -/
def privFault (i : Instr) (e : Env) : Bool :=
  e.pl == 0 && ((formOf i).sup ||
    (match i with
     | .csrw f => decide (2 ≤ f.sc.toNat) && decide (f.sc.toNat ≤ 5)
     | .rgeti f | .rseti f => f.mod.getLsbD 5
     | _ => false))

/-- Step 8 of R50, for helper code: the PROT subcause of the instruction's chapter, or 0x65 for a w destination (R275), but that
`mstat` executes (R318; assumption 115). -/
def helperFault (i : Instr) (e : Env) : Option Nat :=
  if e.p.helper.isSome then
    match (formOf i).helper, i with
    | some b, _ => some b
    | none, .mstat _ => none
    | none, _ => if (formOf i).dsts.any (fun c => decide (256 ≤ c.1) && decide (c.1 < 320)) then some 0x65 else none
  else none

/-- The traps of steps 5 to 7, at the first step that fails; where several reasons of one step apply, the manual does
not order them. -/
def stepFaults (i : Instr) (e : Env) : List TrapReq :=
  match chainFaults i e with
  | x :: r => x :: r
  | [] =>
    match (formFaults i e).dedup with
    | x :: r => (x :: r).map e.illenc
    | [] => if privFault i e then [mkTrap 4 0 e.p.act] else []

/-- What is reported before an instruction: hits and faults before one of major 0x13 (R129, R145, R188); before one of
major 0x18 when a fault is recorded, a hit first (R188); before an `sfence` that runs on no lane (R8; one with lanes reports
when all has landed, R382); and nothing before others. -/
def reportsAt (i : Instr) (ex : Word) (g : Group) : Option TrapReq :=
  if i.opcode.1 = 0x13 then g.due
  else if i.opcode.1 = 0x18 then (if g.faults.isEmpty then none else g.due)
  else match i with
    | .sfence _ => if ex = 0 then g.due else none
    | _ => none

/-- The path waits on its scoreboard for a register that the instruction names (R115, R198). -/
def Env.blocked (e : Env) (i : Instr) : Bool :=
  e.s.ctl.waitsFor e.uid e.g.who e.p e.vp e.home ((formOf i).srcs ++ (formOf i).dsts)

/-- Whether a uniform instruction with no executing lane still does something: a `ldg` counts (R8, R175). -/
def countsEmpty (i : Instr) : Bool :=
  match i with
  | .ldg _ => true
  | _ => false

/-- The path after an instruction has completed: it stands at the next instruction, and its chain is open after it
unless the instruction was last or at position 7 (R46); lat is what the instruction pushes. -/
def Env.after (e : Env) (last : Bool) (lat : Option (List Word)) (p : Path) : Path :=
  let head := if e.cont then (e.p.chain.map (·.head)).getD e.cur.pc else e.cur.pc
  let shut := last || e.pos == 7 || e.bob
  { p with
    pc := nextPc e.cur.pc e.cur.len
    stalled := false
    age := if p.age.any (fun a => a.pc == e.cur.pc) then none else p.age
    chain := if shut then none else some { head := head, pos := e.pos + 1 }
    lat := if shut then [] else match lat with
      | some v => (v :: (if e.cont then p.lat else [])).take 4
      | none => if e.cont then p.lat else [] }

/-- A core has issued, or was woken (R155). -/
def Ctl.stamp (c : Ctl) (die core : Nat) : Ctl :=
  { c with stamps := { die := die, core := core, at_ := c.cyc } ::
      c.stamps.filter (fun x => !(x.die == die && x.core == core)) }

/-- The place of a party in the round-robin order of its slot: by team slot, then by group index (R33; assumption 3). -/
def placeOf (t : Team) (g : Group) : Nat := t.slot * 64 + g.who.idx

/-- A party has taken its turn at its slot; what waits there may be tried again. -/
def Ctl.takeTurn (c : Ctl) (pth : PathId) : Ctl :=
  let t := c.team pth.team
  let k := c.slotKey pth.team pth.who
  { c with
    slotTurns := { die := k.1, core := k.2.1, slot := k.2.2, last := placeOf t (t.party pth.who) } ::
      c.slotTurns.filter (fun x => (x.die, x.core, x.slot) != k)
    held := c.held.filter (fun q => c.slotKey q.team q.who != k) }

/-- The control state after the instruction has left the executing place. -/
def Ctl.leave (c : Ctl) (p : PathId) (f : Path → Path) : Ctl :=
  let t := c.team p.team
  { (((c.updTeam p.team (fun t => t.updParty p.who (fun g => { g.updPath p.pid f with lastPid := p.pid }))).stamp
      t.die (t.coreOf p.who))).takeTurn p with
    cur := none }

/-- The control state after an instruction that waits: the turn of its slot is not used up (R33, R100). -/
def Ctl.waits_ (c : Ctl) (p : PathId) (f : Path → Path) : Ctl :=
  { c.updTeam p.team (fun t => t.updParty p.who (fun g => g.updPath p.pid f)) with
    cur := none
    held := p :: c.held.filter (fun q => q != p) }

/-- The park that an instruction begins, or takes up again after a save (R156). -/
def Env.parkOn (e : Env) (cyc : Nat) (k : ParkKind) (obj : Word) : Park :=
  let a : ParkAge := match e.p.age with
    | some a => if a.pc = e.cur.pc then a else { pc := e.cur.pc, since := cyc, warned := false, reported := false }
    | none => { pc := e.cur.pc, since := cyc, warned := false, reported := false }
  { kind := k, since := a.since, warned := a.warned, reported := a.reported, released := false, doom := none, obj := obj,
    cur := e.cur, ex := e.ex }

/-- An instruction ends. -/
def finish (i : Instr) (e : Env) : Res → M Unit
  | .done => modC (fun c => c.leave e.cur.p (e.after i.last none))
  | .push v => modC (fun c => c.leave e.cur.p (e.after i.last (some v)))
  | .skip => modC (fun c => c.leave e.cur.p (fun p => { p with pc := nextPc e.cur.pc e.cur.len }))
  | .jump => modC (fun c => c.leave e.cur.p (fun p => { p with chain := none, lat := [], stalled := false, age := none }))
  | .hold => modC (fun c => c.waits_ e.cur.p (fun p => { p with pc := e.cur.pc, stalled := false }))
  | .await => modC (fun c => c.waits_ e.cur.p (fun p => { p with pc := e.cur.pc, stalled := true }))
  | .trap r => do
    raise e.cur.p e.cur r
    modC (fun c => c.leave e.cur.p id)
  | .park k obj => modC (fun c => c.leave e.cur.p (fun p => { p with
      pc := e.cur.pc
      chain := if e.cont then p.chain else none
      lat := if e.cont then p.lat else []
      stalled := false
      age := none
      park := some (e.parkOn c.cyc k obj) }))

/-- The lanes that redundancy mode checks (R116): with DMR set, the executing lanes of an instruction with U = 0 whose
partner does not execute. Uniform instructions and the bobbin are not checked, and the instructions of majors 0x00 and 0x01 give
no result, flag, address or data that could be compared. -/
def Env.shadowed (e : Env) (i : Instr) : Word :=
  if e.gst.getLsbD 8 && !e.f.u && !e.bob && decide (2 ≤ i.opcode.1) then
    maskOf ((lanesOf e.ex e.gw).filter (fun l => !e.ex.getLsbD (Nat.xor l (e.gw / 2))))
  else 0

/-- The lanes whose comparison fails: nothing constrains which of the checked lanes they are (R116; assumption 6). -/
def Env.mismatch (e : Env) (i : Instr) : M Word := do
  let m := e.shadowed i
  if m = 0 then return 0
  else do
    let x ← drawFree
    return x &&& m

/-- An instruction that has passed steps 1 to 7 of R50. -/
def proceed (i : Instr) (e : Env) (body : Env → M Res) : M Res :=
  match (if e.p.helper.isNone then reportsAt i e.ex e.g else none) with
  | some r => return .trap r
  | none => afterReports i e body
where
  /-- The instruction itself. Without an executing lane a uniform one has no effect (R8): it pushes no value, but it takes
  its position (R45), and what a latch reads of it is open, a free value in each lane (assumption 116). -/
  afterReports (i : Instr) (e : Env) (body : Env → M Res) : M Res :=
    if e.f.u && e.ex == 0 && !countsEmpty i then
      (if i.last then return .done
       else do
         let xs ← forMap (List.range e.gw) (fun _ => drawFree)
         return .push xs)
    else match helperFault i e with
      | some b => return .trap (mkTrap 10 b (if e.ex = 0 then e.p.act else e.ex))
      | none =>
        if e.blocked i then return .hold
        else do
          let bad ← e.mismatch i
          if bad = 0 then body e else return .trap (mkTrap 0x19 1 bad)

/-- An instruction issues (R50). -/
def issueM (i : Instr) (f : Fields) (cur : Cur) (body : Env → M Res) : M Unit := do
  let s ← getS
  let e := envOf s cur f
  match stepFaults i e with
  | x :: r => do
    let k ← drawBelow (r.length + 1)
    finish i e (.trap ((x :: r).getD k x))
  | [] => do
    let r ← proceed i e body
    finish i e r

/-- The step of an instruction: the party that `cur` names executes it. -/
def issue (i : Instr) (f : Fields) (body : Env → M Res) (s : State) : Host.Outcome State Fault Refusal :=
  match s.ctl.cur with
  | none => .fault .noParty
  | some cur => runM (issueM i f cur body) s

/-- What a register-only instruction does: updates, and the value it pushes to the latch of each lane. -/
structure Out where
  upds : List Upd
  lat : List Word

/-- The step of a register-only instruction. -/
def issueOut (i : Instr) (f : Fields) (out : Env → Out) (s : State) : Host.Outcome State Fault Refusal :=
  issue i f (fun e => do
    emits (out e).upds
    return .push (out e).lat) s

/-- A step that no instruction word names. -/
def event (m : M Unit) (s : State) : Host.Outcome State Fault Refusal := runM m s

/-- How the attempt of an instruction's effect ends it. -/
def Got.res {α : Type} (x : Got α) (r : Res) : Res :=
  match x with
  | .ok _ => r
  | .trap t => .trap t
  | .wait => .hold

end Sys2Proof.Machine
end

