-- ==== Sys2Proof/Machine/Flags.lean ====
section
/-! DEFINITION. The sticky flags of gst (R62) and how results set them (R18, R70). -/

namespace Sys2Proof.Machine

/-- NV, DZ, OF, UF, NX, SAT and OVER as bits of gst (R62). -/
def flagNV : Nat := 1
/-- Division by zero. -/
def flagDZ : Nat := 2
/-- Overflow. -/
def flagOF : Nat := 4
/-- Underflow. -/
def flagUF : Nat := 8
/-- Inexact. -/
def flagNX : Nat := 16
/-- Saturation. -/
def flagSAT : Nat := 32
/-- A barrier phase was over-run. -/
def flagOVER : Nat := 64

/-- The flags of several lanes or steps together. -/
def orFlags (l : List Nat) : Nat := l.foldl (· ||| ·) 0

/-- Smallest value of an integer type of width w (R18). -/
def intLo (w : Nat) (sgn : Bool) : Int := if sgn then -((2 ^ (w - 1) : Nat) : Int) else 0

/-- Largest value of an integer type of width w. -/
def intHi (w : Nat) (sgn : Bool) : Int := if sgn then ((2 ^ (w - 1) : Nat) : Int) - 1 else ((2 ^ w : Nat) : Int) - 1

/-- An exact result wrapped, or clamped with SAT set (N47 to N50). -/
def wrapSat (w : Nat) (sgn sat : Bool) (x : Int) : Nat × Nat :=
  if sat then
    let c := clampInt x (intLo w sgn) (intHi w sgn)
    (wrapInt w c, if c = x then 0 else flagSAT)
  else (wrapInt w x, 0)

end Sys2Proof.Machine
end

