-- ==== Sys2Proof/Machine/Operands.lean ====
section
/-! DEFINITION. Operand forms: immediates by type (R42), sources as numbers (R18, R69), where results go (R18, R65),
and the addresses of memory operands (R131, R144, R174). -/

namespace Sys2Proof.Machine

/-- The exact binary64 bits of a binary32 value (R42). -/
def widenF32 (x : Nat) : Nat :=
  let s := x / 2 ^ 31 % 2
  let e := fld x 30 23
  let m := fld x 22 0
  if e = 255 then s * 2 ^ 63 + 2047 * 2 ^ 52 + m * 2 ^ 29
  else if e = 0 then
    if m = 0 then s * 2 ^ 63
    else
      let k := ilog2 m
      s * 2 ^ 63 + (k + 874) * 2 ^ 52 + (m - 2 ^ k) * 2 ^ (52 - k)
  else s * 2 ^ 63 + (e + 896) * 2 ^ 52 + m * 2 ^ 29

end Sys2Proof.Machine

namespace Sys2Proof

/-- The immediate of a long form as its bits, zero without one. -/
def Fields.rawImm (f : Fields) : Word :=
  match f.long with
  | .none => 0
  | .imm32 x => BitVec.ofNat 64 x.toNat
  | .ext x => x

/-- The immediate read by an integer type (R42). -/
def Fields.intImm (f : Fields) (t : Nat) : Word :=
  match f.long with
  | .none => 0
  | .imm32 x => if t = 7 then BitVec.ofInt 64 x.toInt else BitVec.ofNat 64 x.toNat
  | .ext x => x

/-- The immediate read by a float type code of R69 (R42). -/
def Fields.floatImm (f : Fields) (t : Nat) : Word :=
  match f.long with
  | .none => 0
  | .imm32 x => if t = 1 then BitVec.ofNat 64 (Machine.widenF32 x.toNat) else BitVec.ofNat 64 x.toNat
  | .ext x => x

/-- The immediate read by a type code of R74. -/
def Fields.typeImm (f : Fields) (t : Nat) : Word :=
  if t < 8 then f.intImm t else if t = 9 then f.floatImm 1 else f.floatImm 0

end Sys2Proof

namespace Sys2Proof.Machine

/-- The low w bits of an operand. -/
def Env.bits (e : Env) (code lane w : Nat) (imm : Word) : Nat := (e.opnd code lane (w == 64) imm).toNat % 2 ^ w

/-- An operand read as an integer type (`val` of R20). -/
def Env.int (e : Env) (code lane t : Nat) : Int :=
  let w := intWidth t
  let x := e.bits code lane w (e.f.intImm t)
  if intSigned t then sextNat w x else (x : Int)

/-- An operand read as `.n32`, whatever the instruction's type: a single register, never a pair; code 324 reads IMM32 in a
96-bit form and else zero (R42). -/
def Env.n32 (e : Env) (code lane : Nat) : Nat := (e.opnd code lane false e.f.imm32).toNat % 2 ^ 32

/-- A value of w bits extended to 64 (N57). -/
def extTo64 (w : Nat) (sgn : Bool) (x : Nat) : Word :=
  if sgn then wd (wrapInt 64 (sextNat w x)) else wd (x % 2 ^ w)

/-- The updates that put a value into a lane register or pair. -/
def Env.putLane (e : Env) (n lane : Nat) (pair : Bool) (x : Word) : List Upd :=
  if pair then updPair e.uid e.vp lane n x else [updV e.uid e.vp lane n (x.toNat % 2 ^ 32)]

/-- The updates that write the uniform register of an operand code. -/
def Env.putW (e : Env) (code : Nat) (x : Word) : List Upd := [updW e.uid e.home (code - 256) e.pl x]

/-- Writing wd, unless WS suppresses it. -/
def Env.putWd (e : Env) (x : Word) : List Upd := if e.f.ws then [] else e.putW e.f.dst.toNat x

/-- The updates that write a mask register (R57): bits at and above GW are zero and k0 is not written. -/
def Env.putK (e : Env) (n : Nat) (x : Word) : M Unit :=
  if n = 0 then pure ()
  else if e.p.helper.isSome then
    modPath e.cur.p (fun p => { p with hk := (padTo 16 0 p.hk).set n (x &&& gwMask e.gw) })
  else emit (.reg64 .k (kKey e.uid e.g.who.idx n) (x &&& gwMask e.gw))

/-- The frame of R18: a value and flags for the group (U = 1), or for each executing lane. -/
def Env.alu (e : Env) (w : Nat) (sgn pair : Bool) (f : Nat → Nat × Nat) : Out :=
  if e.f.u then
    let r := f 0
    let x := extTo64 w sgn r.1
    { upds := e.putWd x ++ updGst e.s e.uid e.home r.2, lat := List.replicate e.gw x }
  else
    let rs := (lanesOf e.ex e.gw).map (fun l => (l, f l))
    { upds := (if e.f.ws then [] else
        (rs.map (fun r => e.putLane e.f.dst.toNat r.1 pair (extTo64 w sgn r.2.1))).flatten) ++
        updGst e.s e.uid e.home (orFlags (rs.map (fun r => r.2.2)))
      lat := (List.range e.gw).map (fun l =>
        match rs.find? (fun r => r.1 == l) with
        | some r => extTo64 w sgn r.2.1
        | none => 0) }

/-- The integer frame (R66): its type is MOD.T. -/
def Env.intAlu (e : Env) (f : Nat → Nat × Nat) : Out :=
  let t := mfld e.f 3 0
  e.alu (intWidth t) (intSigned t) (intWidth t == 64) f

/-- A source of the integer frame. -/
def Env.ia (e : Env) (lane : Nat) : Int := e.int e.f.sa.toNat lane (mfld e.f 3 0)
/-- Source b. -/
def Env.ib (e : Env) (lane : Nat) : Int := e.int e.f.sb.toNat lane (mfld e.f 3 0)
/-- Source c. -/
def Env.ic (e : Env) (lane : Nat) : Int := e.int e.f.sc.toNat lane (mfld e.f 3 0)
/-- The low w bits of source a. -/
def Env.na (e : Env) (lane : Nat) : Nat :=
  e.bits e.f.sa.toNat lane (intWidth (mfld e.f 3 0)) (e.f.intImm (mfld e.f 3 0))
/-- The low w bits of source b. -/
def Env.nb (e : Env) (lane : Nat) : Nat :=
  e.bits e.f.sb.toNat lane (intWidth (mfld e.f 3 0)) (e.f.intImm (mfld e.f 3 0))

/-- Width of the integer frame. -/
def Env.iw (e : Env) : Nat := intWidth (mfld e.f 3 0)

/-- An exact integer function, wrapped or clamped (R18). -/
def Env.exact (e : Env) (g : Nat → Int) : Out :=
  e.intAlu (fun l => wrapSat e.iw (intSigned (mfld e.f 3 0)) (mfld e.f 4 4 == 1) (g l))

/-- A function of the low w bits. -/
def Env.bitwise (e : Env) (g : Nat → Nat) : Out := e.intAlu (fun l => (g l % 2 ^ e.iw, 0))

/-- A compare (R72, R78): condition by lane, flags by lane. With no executing lane nothing is written (R8). -/
def Env.compare (e : Env) (c : Nat → Bool) (fl : Nat → Nat) : M Res := do
  if e.f.u then do
    let x : Word := if c 0 then 1 else 0
    emits (e.putWd x ++ updGst e.s e.uid e.home (fl 0))
    return .push (List.replicate e.gw x)
  else do
    let ls := lanesOf e.ex e.gw
    let m := maskOf (ls.filter c)
    emits (updGst e.s e.uid e.home (orFlags (ls.map fl)))
    onlyIf (!e.f.ws && e.ex != 0) (e.putK (e.f.dst.toNat - 352) m)
    return .push ((List.range e.gw).map (fun l => if m.getLsbD l then 1 else 0))

/-- A uniform instruction's result: written to wd and pushed to every lane. -/
def Env.uniOut (e : Env) (x : Word) : Out := { upds := e.putWd x, lat := List.replicate e.gw x }

/-- The address [a + b] of a scratchpad operand (R131, R144). -/
def Env.spAddr (e : Env) (lane : Nat) : Nat := (e.n32 e.f.sa.toNat lane + e.n32 e.f.sb.toNat lane) % 2 ^ 32

/-- The offset b of a device access (R174); in a `cas` code 324 reads IMM32B (R197). -/
def Env.dvOff (e : Env) (lane : Nat) : Nat :=
  let c := e.f.sb.toNat
  if c < 256 then e.v c lane
  else if c = 324 then (if e.f.lenCode = 2 then e.f.imm32b else e.f.imm32.toNat)
  else (e.opnd c lane false 0).toNat

/-- The effective address of a device access (R175). -/
def Env.dvAddr (e : Env) (lane : Nat) : Nat := ((e.opnd e.f.sa.toNat 0 false 0).toNat + e.dvOff lane) % 2 ^ 64

/-- The lanes a memory instruction serves: lane 0 once when uniform, else the executing lanes. -/
def Env.serves (e : Env) : List Nat := if e.f.u then (if e.ex = 0 then [] else [0]) else lanesOf e.ex e.gw

/-- The faulting lanes of a uniform instruction are its exec (R145); of a lane form, the lanes given. -/
def Env.blame (e : Env) (ls : List Nat) : Word := if e.f.u then e.ex else maskOf ls

/-- Where a load's result lands: the destination as the lane writes it. -/
def Env.sinkFor (e : Env) (lane w : Nat) (sgn sb : Bool) : Sink :=
  if e.f.ws then .none
  else .reg { vp := e.vp, wp := e.home, pl := e.pl, code := e.f.dst.toNat, lane := lane, w := w, sgn := sgn } sb

/-- An instruction that works through a list has come to its end (R171, R269): it writes its count. -/
def Env.listDone (e : Env) (x : Word) : M Res := do
  modPath e.cur.p (fun p => { p with prog := none })
  emits (e.putWd x)
  return .done

/-- An instruction that works through a list waits on its scoreboard with its work half done. -/
def Env.listWaits (e : Env) (n : Nat) (left : List (Nat × Nat)) : M Res := do
  modPath e.cur.p (fun p => { p with prog := some { count := n, left := left } })
  return .hold

end Sys2Proof.Machine
end

