-- ==== Sys2Proof/Machine/Monitor.lean ====
section
/-! DEFINITION. The monitor instructions `monset` and `rdmon`, major 0x26 (R402). -/

namespace Sys2Proof.Machine

/-- Monitor m is granted to the context (R393, R402). -/
def Env.granted (e : Env) (m : Nat) : Bool := (e.s.ctl.ctx e.t.rctx).mons.getLsbD m

/-- `monset` (R402). -/
def execMonset (f : Fields) (s : State) : Host.Outcome State Fault Refusal :=
  issue (.monset f) f (fun e => do
    let m := scfld f 5 0
    let cfg := e.usrc f.sa.toNat
    let src := wfld cfg 7 0
    if !e.granted m then return .trap (mkTrap 10 0xD0 e.ex)
    else if 8 < src ∨ hostSource src then return .trap (mkTrap 10 0xD1 e.ex)
    else do
      modC (fun c => c.setMonitor ((c.monitor e.t.die m).configure (some e.t.rctx) cfg))
      return .done) s

/-- `rdmon` (R402). -/
def execRdmon (f : Fields) (s : State) : Host.Outcome State Fault Refusal :=
  issue (.rdmon f) f (fun e => do
    let m := scfld f 5 0
    let n := mfld f 5 0
    if !e.granted m then return .trap (mkTrap 10 0xD0 e.ex)
    else if (4 ≤ n ∧ n < 8) ∨ 39 < n then return .trap (mkTrap 10 0xD2 e.ex)
    else do
      let x := e.s.ctl.monitor e.t.die m
      emits (e.putWd (
        if n = 0 then wd x.count else if n = 1 then wd x.min else if n = 2 then wd x.max
        else if n = 3 then x.cfg else wd (x.bins.getD (n - 8) 0)))
      return .done) s

end Sys2Proof.Machine
end

