-- ==== Sys2Proof/Machine/Touch.lean ====
section
/-! DEFINITION. Lane accesses of device memory: their translation and its faults (R236, R237), and procedural blocks:
fill states and touches (R206, R258 to R261). -/

namespace Sys2Proof.Machine

/-- A trap that names lanes with their addresses; a uniform access runs once, as lane 0, and names that lane (R175, R198,
R237). -/
def laneTrap (cause sub : Nat) (xs : List (Nat × Nat)) : TrapReq :=
  { mkTrap cause sub (maskOf (xs.map (·.1))) with addrs := xs.map (fun x => (x.1, wd x.2)) }

/-- A trap of an instruction that has no lane of its own: it names the whole exec, each lane with the one address (R145;
assumption 149). -/
def Env.wholeTrap (e : Env) (cause sub a : Nat) : TrapReq :=
  { mkTrap cause sub e.ex with addrs := (lanesOf e.ex 64).map (fun l => (l, wd a)) }

/-- What a check of its one address gives such an instruction (assumption 149). -/
def Env.whole (e : Env) (r : TrapReq) : TrapReq :=
  e.wholeTrap r.cause r.sub (r.addrs.head?.elim 0 (fun x => x.2.toNat))

/-- A fault of one lane: lane, address, cause, subcause. -/
structure LaneFault where
  lane : Nat
  va : Nat
  cause : Nat
  sub : Nat
deriving DecidableEq, Repr

/-- The trap of the highest-ranked cause and subcause among lanes (R237): the lower cause, then the lower subcause. -/
def worstFault (fs : List LaneFault) : Option TrapReq :=
  match fs with
  | [] => none
  | f :: r =>
    let m := r.foldl (fun m x => if x.cause < m.cause ∨ (x.cause = m.cause ∧ x.sub < m.sub) then x else m) f
    some (laneTrap m.cause m.sub
      ((fs.filter (fun x => x.cause == m.cause && x.sub == m.sub)).map (fun x => (x.lane, x.va))))

/-- Translate the address of each lane: (lane, location) for those that translate, the faults of the others, and
whether some lane waits for the host. -/
def reachEach (eng : EngineId) (rctx : Nat) (user : Bool) (n : Need) :
    List (Nat × Nat) → M (List (Nat × Loc) × List LaneFault × Bool)
  | [] => pure ([], [], false)
  | (l, va) :: r => do
    let x ← translate eng rctx va user n
    let (os, fs, w) ← reachEach eng rctx user n r
    match x with
    | .ok o => return ((l, o) :: os, fs, w)
    | .fault c b => return (os, { lane := l, va := va, cause := c, sub := b } :: fs, w)
    | .wait => return (os, fs, true)

/-- Translate every lane of an instruction (R237). -/
def Env.reachLanes (e : Env) (xs : List (Nat × Nat)) (n : Need) : M (Got (List (Nat × Loc))) := do
  let (os, fs, w) ← reachEach (e.t.engine e.g.who) e.t.rctx (e.pl == 0) n xs
  if w then return .wait
  else
    match worstFault fs with
    | some r => return .trap r
    | none => return .ok os

/-- The nesting depth of a team's parties (R258; a shading team reaches ranges at depth 1, R344). -/
def Team.depth (t : Team) : Nat :=
  match t.origin with
  | .fill _ _ _ _ d => d
  | .shade _ _ _ _ => 1
  | .grid _ => 0

/-- The range and block that hold an address of a context. -/
def Ctl.blockAt (c : Ctl) (rctx va : Nat) : Option (PRange × Nat) :=
  match (c.ctx rctx).ranges.find? (fun r => decide (r.base ≤ va) && decide (va < r.base + r.nblk * 2 ^ r.blog)) with
  | some r => some (r, (va - r.base) / 2 ^ r.blog)
  | none => none

/-- Device memory behind an address of a context, by the tables alone; of a page that is being migrated, its old place, where
its bytes lie until they move (R224). -/
def State.dmAt (s : State) (rctx va : Nat) : Option Loc :=
  match s.ctl.migrs.find? (fun m => m.rctx == rctx && covers m.va (2 ^ m.log) va 1) with
  | some m => some (dmLoc (m.old + (va - m.va)))
  | none =>
    match s.walk (s.ctl.ctx rctx).root va with
    | .leaf e _ lg =>
      let pa := leafBase e lg + va % 2 ^ lg
      if entBit e 63 || entBit e 62 || !offOk pa then none else some (dmLoc pa)
    | .fault _ _ => none

/-- Where an address of a context lies by the tables, in whichever memory: a page of the host as it is translated already. -/
def State.placeAt (s : State) (rctx va : Nat) : Option Loc :=
  match s.walk (s.ctl.ctx rctx).root va with
  | .leaf e _ lg =>
    if entBit e 63 then (s.ctl.atc.find? (fun t => t.rctx == rctx && covers t.va (2 ^ t.log) va 1)).map
      (fun t => { sp := .hm, key := t.addr + (va - t.va) })
    else if entBit e 62 then some { sp := .rm, key := fld e 61 42 * 2 ^ 42 + leafBase e lg + va % 2 ^ lg }
    else s.dmAt rctx va
  | .fault _ _ => s.dmAt rctx va

/-- The byte that holds the fill state of a block (R206). -/
def State.fillLoc (s : State) (rctx : Nat) (r : PRange) (b : Nat) : Option Loc :=
  s.dmAt rctx (r.fsa.toNat + b / 4)

/-- The fill state of a block: 0 EMPTY, 1 FILLING, 2 FULL, 3 FAILED (R206). -/
def State.fillState (s : State) (rctx : Nat) (r : PRange) (b : Nat) : Nat :=
  match s.fillLoc rctx r b with
  | some l => s.load l 1 / 4 ^ (b % 4) % 4
  | none => 0

/-- The engine's access to the fill state of a block, its walk and its line under the context's slot (R206, R245, R251): it waits
while what it reads is re-sealed, a cache is full, or the page migrates (R224, R250). -/
def fillAccess (rctx : Nat) (r : PRange) (b : Nat) (write : Bool) : M Sealed := do
  let s ← getS
  let va := r.fsa.toNat + b / 4
  match ← (if s.ctl.migrating rctx va then pure none else sealedWalk rctx va) with
  | none => return .wait
  | some (.fault c sub) => return (if c = 11 then .fail sub else .ok)
  | some (.leaf _ _ _) =>
    match s.fillLoc rctx r b with
    | some l => sealAccess (s.ctl.ctx rctx).kslot l.key write
    | none => return .ok

/-- Set the fill state of a block: the engine's write waits for a re-seal (R250; assumption 147), and a line that fails its seal
keeps its state (R251; assumption 122). -/
def setFill (rctx : Nat) (r : PRange) (b st : Nat) : M Unit := do
  let s ← getS
  match s.fillLoc rctx r b with
  | some l =>
    let x := s.load l 1
    if (← sealNow (s.ctl.ctx rctx).kslot l.key true) == .ok then
      storeN l (x - x / 4 ^ (b % 4) % 4 * 4 ^ (b % 4) + st * 4 ^ (b % 4)) 1
    else pure ()
  | none => pure ()

/-- A record waits on this block. -/
def WaitRec.on (w : WaitRec) (rctx range block : Nat) : Bool :=
  w.rctx == rctx && w.range == range && w.block == block

/-- What a touch of a block ends in; `hold`: the requester waits for the fill-state line or for a waiter record, and does not
park (R224, R250, R260). -/
inductive Touched where
  | full
  | waits
  | hold
  | failed (cause sub : Nat)
deriving DecidableEq, Repr, Inhabited

/-- A continuation that has not started generates this block. -/
def Cont.makes (k : Cont) (rctx range block : Nat) : Bool :=
  k.rctx == rctx && k.team.isNone &&
    (match k.kind with
     | .fill r b _ => r == range && b == block
     | .shade _ _ _ => false)

/-- Waiter records of a die's SRAM, and of the overflow of one range on a die (R192, R257). -/
def sramWaiters : Nat := 4096
/-- Overflow records of a range on a die. -/
def overflowWaiters : Nat := 65535

/-- The lowest number below n that is not among some. -/
def lowestFree (n : Nat) (used : List Nat) : Option Nat :=
  ((List.range (min n (used.length + 1))).find? (fun i => !used.contains i))

/-- The place of a new waiter record of a range at an engine: in its SRAM, else in the range's overflow (R206, R260). -/
def Ctl.waiterPlace (c : Ctl) (die rctx range : Nat) : Option (Bool × Nat) :=
  let here := c.waits.filter (fun w => w.die == die)
  match lowestFree sramWaiters ((here.filter (·.sram)).map (·.slot)) with
  | some n => some (true, n)
  | none =>
    (lowestFree overflowWaiters ((here.filter (fun w => !w.sram && w.rctx == rctx && w.range == range)).map (·.slot))).map
      (fun n => (false, n))

/-- REQ of a waiter record: die, core, and what asks there (R206; assumption 10). -/
def Ctl.waiterReq (c : Ctl) (w : Waiter) : Nat :=
  match w with
  | .path p =>
    let t := c.team p.team
    t.die * 2 ^ 21 + t.coreOf p.who % 64 * 2 ^ 15 + p.who.idx % 64 * 2 ^ 9 + p.pid % 2 ^ 9
  | .job id =>
    match c.jobs.find? (fun j => j.id == id) with
    | some j => j.die * 2 ^ 21 + (c.team j.team).coreOf j.who % 64 * 2 ^ 15 + id % 2 ^ 15
    | none => id % 2 ^ 15
  | .cont id =>
    match c.conts.find? (fun k => k.id == id) with
    | some k => k.die * 2 ^ 21 + id % 2 ^ 15
    | none => id % 2 ^ 15

/-- NEXT of a waiter record: the number of the record that follows it on its block, 0xFFFF at the end (R206). -/
def Ctl.waiterNext (c : Ctl) (w : WaitRec) : Nat :=
  match ((c.waits.filter (fun x => x.on w.rctx w.range w.block)).dropWhile (· != w)).tail.head? with
  | some x => x.slot
  | none => 0xFFFF

/-- The two words of a waiter record as the engine holds them (R206). -/
def Ctl.waiterWords (c : Ctl) (w : WaitRec) : Word × Word :=
  (wd (w.block * 2 ^ 32 + w.range % 64 * 2 ^ 26 + w.kind % 4 * 2 ^ 24 + w.depth % 16 * 2 ^ 20),
   wd (w.rctx % 256 * 2 ^ 56 + c.waiterReq w.who % 2 ^ 24 * 2 ^ 32 + c.waiterNext w * 2 ^ 16))

/-- A touch of one block at a depth, by a requester of a KIND (R206, R259). -/
def touchBlock (rctx : Nat) (w : Waiter) (kind depth : Nat) (r : PRange) (b : Nat) : M Touched := do
  let s ← getS
  let c := s.ctl
  let mine := c.waits.find? (fun x => x.who == w && x.on rctx r.num b)
  match mine.bind (·.failed) with
  | some (k, sub) => return .failed k sub
  | none =>
    match ← fillAccess rctx r b false with
    | .wait => return .hold
    | .fail sub => return .failed 11 sub
    | .ok =>
      let die := (s.fillLoc rctx r b).elim 0 (fun l => syncDie l.key)
      let merge (f : Ctl → Ctl) : M Touched :=
        match c.waiterPlace die rctx r.num with
        | none => pure .hold
        | some (sram, n) => do
          modC fun c => f { c with waits := c.waits ++ [{
            die := die, sram := sram, slot := n, kind := kind, rctx := rctx, range := r.num, block := b, who := w,
            depth := depth + 1, failed := none }] }
          return .waits
      match s.fillState rctx r b with
      | 0 =>
        if r.lim < depth + 1 then return .failed 0x0D 1
        else if (c.waiterPlace die rctx r.num).isNone then return .hold
        else do
          let id ← freshId
          setFill rctx r b 1
          merge (fun c => { c with conts := c.conts ++ [{
            id := id, rctx := rctx, die := die, kind := .fill r.num b (depth + 1), hdr := r.ghdr, arg := r.arg,
            team := none }] })
      | 1 =>
        if mine.isSome then return .waits
        else if c.conts.any (fun k => k.makes rctx r.num b) && decide (r.lim < depth + 1) then return .failed 0x0D 1
        else merge (fun c => { c with conts := c.conts.map (fun k =>
          if k.makes rctx r.num b then
            (match k.kind with
             | .fill x y d => { k with kind := .fill x y (max d (depth + 1)) }
             | .shade _ _ _ => k)
          else k) })
      | 2 => return .full
      | _ => return .failed 0x0C 2

/-- Whether a team generates a block whose fill has not ended (R261): its continuation still stands. -/
def Ctl.generates (c : Ctl) (t : Team) (range block : Nat) : Bool :=
  match t.origin with
  | .fill k _ r b _ => r == range && b == block && c.conts.any (fun x => x.id == k)
  | _ => false

/-- The blocks that addresses touch, without repeats, ascending; a generator's own block is no touch (R261). -/
def Ctl.touches (c : Ctl) (t : Team) (vas : List Nat) : List (PRange × Nat) :=
  let bs := (vas.filterMap (c.blockAt t.rctx)).filter (fun x => !c.generates t x.1.num x.2)
  let ds := (bs.map (fun x => (x.1.num, x.2))).dedup
  let sorted := sortBy (fun a b => decide (a.1 < b.1) || (a.1 == b.1 && decide (a.2 < b.2))) ds
  sorted.filterMap (fun d => bs.find? (fun x => x.1.num == d.1 && x.2 == d.2))

/-- Lanes whose write into a range is refused (R261): every write but the block's own generator's while it fills. -/
def Ctl.refusedWrites (c : Ctl) (t : Team) (s : State) (xs : List (Nat × Nat)) : List (Nat × Nat) :=
  xs.filter (fun x =>
    match c.blockAt t.rctx x.2 with
    | some (r, b) => !(c.generates t r.num b && s.fillState t.rctx r b == 1)
    | none => false)

/-- Touch each block in turn. -/
def touchAll (rctx : Nat) (w : Waiter) (kind depth : Nat) : List (PRange × Nat) → M (List (Nat × Nat × Touched))
  | [] => pure []
  | (r, b) :: q => do
    let x ← touchBlock rctx w kind depth r b
    let xs ← touchAll rctx w kind depth q
    return (r.num, b, x) :: xs

/-- KIND of a path's waiter records (R206): 3 a generator's, 2 a texel request's, else 0. -/
def Env.waiterKind (e : Env) : Nat :=
  match e.t.origin with
  | .fill .. => 3
  | _ => if [0x023, 0x0E3].contains (e.cur.bits.toNat / 16 % 2 ^ 12) then 2 else 0

/-- The fill check of an instruction (R260): none when it may proceed. -/
def Env.fillCheck (e : Env) (xs : List (Nat × Nat)) : M (Option Res) := do
  let c ← getC
  let bs := c.touches e.t (xs.map (·.2))
  let ts ← touchAll e.t.rctx (.path e.cur.p) e.waiterKind e.t.depth bs
  let fails := ts.filterMap (fun t => match t.2.2 with
    | .failed k b => some (t.1, t.2.1, k, b)
    | _ => none)
  match fails with
  | f :: r => do
    dropWaiter (.path e.cur.p)
    let best := r.foldl (fun m x => if m.2.2.1 < x.2.2.1 ∨ (m.2.2.1 = x.2.2.1 ∧ x.2.2.2 < m.2.2.2) then x else m) f
    let bad := xs.filter (fun x =>
      match c.blockAt e.t.rctx x.2 with
      | some (g, b) => fails.any (fun y => y.1 == g.num && y.2.1 == b)
      | none => false)
    return some (.trap (laneTrap best.2.2.1 best.2.2.2 bad))
  | [] =>
    if ts.any (fun t => t.2.2 == .hold) then return some .hold
    else if ts.any (fun t => t.2.2 == .waits) then do
      let at_ := bs.head?.elim 0 (fun x => x.1.base + x.2 * 2 ^ x.1.blog)
      return some (.park (.fill (ts.map (fun t => (t.1, t.2.1)))) (wd at_))
    else return none

end Sys2Proof.Machine
end

