-- ==== Sys2Proof/Machine/Transfer.lean ====
section
/-! DEFINITION. Gathers and scatters, major 0x14 (R174 to R176), and the entries of lane accesses of device memory. -/

namespace Sys2Proof.Machine

/-- Append the R entry of an instruction's lanes (R211): (lane, location, address). cnt: the counter's key; party: R189. -/
def Env.postReads (e : Env) (xs : List (Nat × Loc × Nat)) (n : Nat) (sgn sb : Bool) (cnt : Option Nat) : M Unit := do
  let ins ← freshId
  e.append (fun x => { x with cnt := cnt, party := 1 }) .read ins
    (xs.map (fun x => { lane := x.1, loc := x.2.1, n := n, vs := 0, va := x.2.2, data := 0, data2 := 0,
                        sink := e.sinkFor x.1 (8 * n) sgn sb }))

/-- The lanes whose store stands: of those that write one location, the highest (R176, R211). -/
def highest {α : Type} : List (Nat × Loc × α) → List (Nat × Loc × α)
  | [] => []
  | x :: r => if r.any (fun y => y.2.1 == x.2.1) then highest r else x :: highest r

/-- Append the W entry of an instruction's lanes (R211): (lane, location, address, data). -/
def Env.postWrites (e : Env) (xs : List (Nat × Loc × Nat × Nat)) (n : Nat) : M Unit := do
  let ins ← freshId
  e.append (fun x => { x with party := 2 }) .write ins
    ((highest xs).map (fun x => { lane := x.1, loc := x.2.1, n := n, vs := 0, va := x.2.2.1, data := wd x.2.2.2,
                                  data2 := 0, sink := .none }))

/-- Each lane with its location and its address. -/
def joinLocs (os : List (Nat × Loc)) (xs : List (Nat × Nat)) : List (Nat × Loc × Nat) :=
  os.map (fun o => (o.1, o.2, ((xs.find? (fun x => x.1 == o.1)).map (·.2)).getD 0))

/-- The addresses of a device access by lane. -/
def Env.dvLanes (e : Env) : List (Nat × Nat) := e.serves.map (fun l => (l, e.dvAddr l))

/-- Lanes whose address is not a multiple of n. -/
def misaligned (xs : List (Nat × Nat)) (n : Nat) : List (Nat × Nat) := xs.filter (fun x => x.2 % n != 0)

/-- A counter of a party is counted (R143). -/
def countCounter (key : Nat) : M Unit := do
  let s ← getS
  emit (.reg32 .a key (s.a.get key + 1))

/-- Every gather entry of the path's slot is taken (R173). -/
def Env.gathersFull (e : Env) : Bool :=
  let c := e.s.ctl
  let k := c.slotKey e.uid e.g.who
  let out := (c.entries.filter (fun x => x.cnt.isSome && c.slotKey x.team x.who == k)).map (·.ins) ++
    (c.replies.filter (fun x => x.cnt.isSome && c.slotKey x.team x.who == k)).map (·.ins)
  decide (64 ≤ out.dedup.length)

/-- `ldg` (R175): the gather entries are appended; with no executing lane the counter is counted at once. -/
def execLdg (f : Fields) (s : State) : Host.Outcome State Fault Refusal :=
  issue (.ldg f) f (fun e => do
    let n := intWidth (mfld f 3 0) / 8
    let key := aKey e.uid e.home (f.sc.toNat - 336)
    let xs := e.dvLanes
    match xs, misaligned xs n with
    | [], _ => do
      recordMon e.t.die (some e.t.rctx) 0 0
      countCounter key
      return .done
    | _ :: _, b :: r => return .trap (laneTrap 8 0 (b :: r))
    | _ :: _, [] =>
      match ← attempt (e.reachLanes xs { rd := true, wr := false, x := false }) with
      | .trap r => return .trap r
      | .wait => return .hold
      | .ok os =>
        match ← e.fillCheck xs with
        | some r => return r
        | none =>
          if e.gathersFull then return .hold
          else do
            e.postReads (joinLocs os xs) n (intSigned (mfld f 3 0)) false (some key)
            return .done) s

/-- `stg` (R175, R176): posted; a write into a procedural range is refused (R261). -/
def execStg (f : Fields) (s : State) : Host.Outcome State Fault Refusal :=
  issue (.stg f) f (fun e => do
    let t := mfld f 3 0
    let n := intWidth t / 8
    let xs := e.dvLanes
    match misaligned xs n with
    | b :: r => return .trap (laneTrap 8 0 (b :: r))
    | [] =>
      match ← attempt (e.reachLanes xs { rd := false, wr := true, x := false }) with
      | .trap r => return .trap r
      | .wait => return .hold
      | .ok os => do
        match (← getC).refusedWrites e.t (← getS) xs with
        | b :: r => return .trap (laneTrap 10 0x50 (b :: r))
        | [] => do
          e.postWrites ((joinLocs os xs).map (fun x =>
            (x.1, x.2.1, x.2.2, e.bits f.sc.toNat x.1 (8 * n) (f.intImm t)))) n
          return .done) s

/-- Whether anything of an instruction is still on its way. -/
def Ctl.flying (c : Ctl) (ins : Nat) : Bool :=
  c.entries.any (fun x => x.ins == ins) || c.replies.any (fun x => x.ins == ins)

/-- A failed gather is never counted (R188); it keeps its entry until its last lane's reply (R173). -/
def Ctl.poison (c : Ctl) (ins : Nat) : Ctl :=
  { c with entries := c.entries.map (fun x => if x.ins == ins then { x with poisoned := true } else x)
           replies := c.replies.map (fun x => if x.ins == ins then { x with poisoned := true } else x) }

/-- A result lands in its register (R175, R115). A party that has retired has no registers. -/
def landSink (uid : Nat) (k : Sink) (x : Word) : M Unit := do
  let s ← getS
  match k with
  | .reg r _ => onlyIf (s.ctl.hasTeam uid) (emits (updSink uid r x))
  | .none => pure ()

/-- A reply leaves. -/
def takeReply (id : Nat) : M Unit := modC fun c => { c with replies := c.replies.filter (fun x => x.id != id) }

/-- The last lane of a gather has landed: its latency is recorded, then its counter is counted (R401, R175). -/
def countGather (r : Reply) : M Unit := do
  let c ← getC
  match r.cnt with
  | none => pure ()
  | some key =>
    if r.poisoned || c.flying r.ins || !c.hasTeam r.team then pure ()
    else do
      let t := c.team r.team
      recordMon t.die (some t.rctx) 0 (c.cyc - r.born)
      countCounter key

/-- A lane's gather reply lands (GATHER_REPLY): its element, or its fault (R175, R188). -/
def execGatherReply (id : Nat) (s : State) : Host.Outcome State Fault Refusal :=
  event (do
    let c ← getC
    match c.replies.find? (fun r => r.id == id && r.kind == .gather && !c.replyStalled r) with
    | none => pure ()
    | some r => do
      takeReply id
      match r.fault with
      | some (k, b) => do
        modC (fun c => c.poison r.ins)
        recordFault r.team r.home r.lane k b 1 (wd r.addr)
      | none => do
        landSink r.team r.sink r.data
        countGather r) s

end Sys2Proof.Machine
end

