-- ==== Sys2Proof/Machine/Control.lean ====
section
/-! DEFINITION. Control flow, majors 0x00 and 0x01 (R106 to R112, R116), and the spill stack, major 0x27 (R115). -/

namespace Sys2Proof.Machine

/-- How the executing path reaches memory for its control records. -/
def Env.acc (e : Env) : Acc :=
  { uid := e.uid, who := e.g.who, rctx := e.t.rctx, user := e.pl == 0, lanes := e.p.act }

/-- The address at a signed offset of w bits from the instruction's own PC (R105). -/
def Env.target (e : Env) (w off : Nat) : Word := e.cur.pc + wd (wrapInt 64 (sextNat w off))

/-- The path goes on elsewhere. -/
def Env.go (e : Env) (pc : Word) : M Unit := modPath e.cur.p (fun p => { p with pc := pc })

/-- `nop` (R106): transparent to chains (R45). -/
def execNop (f : Fields) (s : State) : Host.Outcome State Fault Refusal :=
  issue (.nop f) f (fun _ => pure .skip) s

/-- `bra` (R106). -/
def execBra (f : Fields) (s : State) : Host.Outcome State Fault Refusal :=
  issue (.bra f) f (fun e => do
    let c := mfld f 5 4
    let x := e.opnd f.sa.toNat 0 false 0
    if c = 0 ∨ (c = 1 ∧ x ≠ 0) ∨ (c = 2 ∧ x = 0) then do
      e.go (e.target 32 f.imm32.toNat)
      return .jump
    else return .done) s

/-- `split` (R99, R107). -/
def execSplit (f : Fields) (s : State) : Host.Outcome State Fault Refusal :=
  issue (.split f) f (fun e => do
    let t := e.p.act &&& e.k (f.sa.toNat - 352)
    let r := e.p.act &&& ~~~t
    let nx := e.cur.npc
    let el := advPc (e.target 32 (wfld f.ext64 31 0))
    let x ← attempt (do
      demote e.uid e.g.who e.p.pid
      let g ← getGroup e.uid e.g.who
      let dual := r ≠ 0 ∧ t ≠ 0 ∧ !g.hasDual
      let wait := r ≠ 0 ∧ t ≠ 0 ∧ g.hasDual
      match ← pushRecon e.acc {
          jpc := advPc (e.target 32 (wfld f.ext64 63 32)), jmask := e.p.act, arr := 0, ppc := if wait then el else 0,
          pmask := if wait then r else 0, pfmt := if wait then e.p.fmt else 0, fcopy := e.p.fmt,
          kind := if dual then .dual else .ser, ppark := none } with
      | .trap q => return .trap q
      | .wait => return .wait
      | .ok _ => do
        modPath e.cur.p (fun p => { p with pc := if t = 0 then el else nx, act := if t = 0 then r else t })
        onlyIf (decide dual) (startPath e.uid e.g.who el r e.p.fmt (some e.p))
        return .ok ())
    return x.res .jump) s

/-- The path ends and the stack settles (R103), after a change of the group. -/
def Env.leavePath (e : Env) (f : Group → Group) : M (Got Unit) := attempt (do
  modGroup e.uid e.g.who f
  endPath e.uid e.g.who e.p.pid
  settle e.acc)

/-- The top entry takes in lanes as arrived. -/
def Group.arrive (g : Group) (m : Word) : Group :=
  { g with recon := match g.recon with
      | t :: r => { t with arr := t.arr ||| m } :: r
      | [] => [] }

/-- `join` (R108). -/
def execJoin (f : Fields) (s : State) : Host.Outcome State Fault Refusal :=
  issue (.join f) f (fun e => do
    match e.g.recon with
    | [] => return .trap (mkTrap 0x28 4 e.p.act)
    | t :: _ =>
      if t.jpc ≠ e.cur.pc then return .trap (mkTrap 0x28 3 e.p.act)
      else do
        let x ← e.leavePath (fun g => g.arrive e.p.act)
        return x.res .jump) s

/-- An entry without some lanes. -/
def REnt.drop (t : REnt) (m : Word) : REnt :=
  { t with jmask := t.jmask &&& ~~~m, arr := t.arr &&& ~~~m, pmask := t.pmask &&& ~~~m }

/-- The stack after lanes leave n regions (R109): the first n - 1 entries lose them, the n-th takes them in. -/
def brkStack (m : Word) : Nat → List REnt → List REnt
  | _, [] => []
  | 0, l => l
  | 1, t :: r => { t with arr := t.arr ||| m } :: r
  | n + 2, t :: r => t.drop m :: brkStack m (n + 1) r

/-- `brk` (R109). Which entries are older than the newest call: by the depth it recorded (assumption 157). -/
def execBrk (f : Fields) (s : State) : Host.Outcome State Fault Refusal :=
  issue (.brk f) f (fun e => do
    let n := scfld f 3 0 + 1
    if e.ex = 0 then return .done
    else if e.g.nr < n then return .trap (mkTrap 0x28 4 e.ex)
    else if (e.g.ras.head?).any (fun a => decide (e.g.nr < a.depth + n)) then return .trap (mkTrap 0x28 5 e.ex)
    else
      let left := e.p.act &&& ~~~e.ex
      if left = 0 then do
        let x ← e.leavePath (fun g => { g with recon := brkStack e.ex n g.recon })
        return x.res .jump
      else do
        modGroup e.uid e.g.who (fun g => { g with recon := brkStack e.ex n g.recon })
        modPath e.cur.p (fun p => { p with act := left })
        return .done) s

/-- A call: a return address is pushed and the path goes on at its target (R110). -/
def Env.callTo (e : Env) (pc : Word) : M (Got Unit) := attempt (do
  demote e.uid e.g.who e.p.pid
  let g ← getGroup e.uid e.g.who
  match ← pushRas e.acc { pc := e.cur.npc, depth := g.nr } with
  | .trap r => return .trap r
  | .wait => return .wait
  | .ok _ => do
    e.go pc
    return .ok ())

/-- `call` (R110). -/
def execCall (f : Fields) (s : State) : Host.Outcome State Fault Refusal :=
  issue (.call f) f (fun e => do
    let x ← e.callTo (e.target 32 f.imm32.toNat)
    return x.res .jump) s

/-- `ret` (R110). -/
def execRet (f : Fields) (s : State) : Host.Outcome State Fault Refusal :=
  issue (.ret f) f (fun e => do
    match e.g.ras with
    | [] => return .trap (mkTrap 0x28 4 e.p.act)
    | a :: _ =>
      if a.pc.getLsbD 0 then
        match e.g.recon with
        | t :: _ =>
          if t.kind == .callv then do
            let x ← attempt (do
              demote e.uid e.g.who e.p.pid
              match ← popRas e.acc with
              | .trap r => return .trap r
              | .wait => return .wait
              | .ok _ => e.leavePath (fun g => g.arrive e.p.act))
            return x.res .jump
          else return .trap (mkTrap 0x28 5 e.p.act)
        | [] => return .trap (mkTrap 0x28 5 e.p.act)
      else if a.depth ≠ e.g.nr then return .trap (mkTrap 0x28 5 e.p.act)
      else do
        let x ← attempt (do
          demote e.uid e.g.who e.p.pid
          match ← popRas e.acc with
          | .trap r => return .trap r
          | .wait => return .wait
          | .ok _ => do
            e.go a.pc
            return .ok ())
        return x.res .jump) s

/-- Lanes leave the i-th spilled control record and those before it, which are written back (R112); when the exit reaches the
records in memory is assumption 156. -/
def Env.dropSpilled (e : Env) (m spl : Word) : Nat → M (Got Unit)
  | 0 => pure (.ok ())
  | i + 1 => do
    match ← e.dropSpilled m spl i with
    | .trap r => return .trap r
    | .wait => return .wait
    | .ok _ =>
      if e.g.spilled.getD i .ras == .ras then return .ok ()
      else
        match ← getRecord e.acc spl i with
        | .trap r => return .trap r
        | .wait => return .wait
        | .ok w =>
          match recOfWords w with
          | none => return .ok ()
          | some t => putRecord e.acc spl i (t.drop m).words

/-- The lanes that spilled records hold, as far as they can be read. -/
def Env.spilledLanes (e : Env) : Word :=
  let spl := e.s.csrOf e.uid e.g.who.idx 5
  (List.range e.g.spilled.length).foldl (fun m i =>
    if e.g.spilled.getD i .ras == .ras then m
    else
      match e.s.dmAt e.t.rctx (recAddr spl i) with
      | some l => m ||| wd (e.s.load (l.plus 8) 8) ||| wd (e.s.load (l.plus 0x18) 8) ||| wd (e.s.load (l.plus 0x28) 8)
      | none => m) 0

/-- The group's live lanes (R32): those of its paths and of every entry of its stack. -/
def Env.liveLanes (e : Env) : Word :=
  (e.g.paths.foldl (fun m p => m ||| p.act) 0) ||| (e.g.recon.foldl (fun m t => m ||| t.jmask ||| t.arr ||| t.pmask) 0) |||
    e.spilledLanes

/-- `exit` (R112): the executing lanes retire; one that would retire the last lane takes what is due first (R129, R188,
R145). -/
def execExit (f : Fields) (s : State) : Host.Outcome State Fault Refusal :=
  issue (.exit f) f (fun e => do
    if e.ex = 0 then return .done
    else if e.hst ≠ 0 then return .trap (mkTrap 10 4 e.ex)
    else
      match (if e.liveLanes &&& ~~~e.ex = 0 then e.g.due else none) with
      | some r => return .trap r
      | none => do
        let left := e.p.act &&& ~~~e.ex
        let spl := e.s.csrOf e.uid e.g.who.idx 5
        let x ← attempt (do
          match ← e.dropSpilled e.ex spl e.g.spilled.length with
          | .trap r => return .trap r
          | .wait => return .wait
          | .ok _ => do
            modGroup e.uid e.g.who (fun g => { g with recon := g.recon.map (fun t => t.drop e.ex), gone := g.gone ||| e.ex })
            if left = 0 then do
              endPath e.uid e.g.who e.p.pid
              settle e.acc
            else do
              modPath e.cur.p (fun p => { p with act := left })
              return .ok ())
        return x.res (if left = 0 then .jump else .done)) s

/-- `setdmr` (R116). -/
def execSetdmr (f : Fields) (s : State) : Host.Outcome State Fault Refusal :=
  issue (.setdmr f) f (fun e => do
    if e.hst ≠ 0 then return .trap (mkTrap 10 3 e.p.act)
    else do
      let g := e.s.csrOf e.uid e.home 0 &&& ~~~(0x100 : Word)
      emit (.csr (csrKey e.uid e.home 0) (g ||| (if f.sc.getLsbD 0 then 0x100 else 0)))
      return .done) s

/-- `callv` (R111): with no executing lane it has no effect (R8). -/
def execCallv (f : Fields) (s : State) : Host.Outcome State Fault Refusal :=
  issue (.callv f) f (fun e => do
    let t (l : Nat) : Nat := (e.opnd f.sa.toNat l true 0).toNat
    let ls := lanesOf e.ex e.gw
    match ls, ls.filter (fun l => t l == 0 || t l % 4 != 0) with
    | [], _ => return .done
    | _ :: _, b :: r => return .trap (mkTrap 8 0 (maskOf (b :: r)))
    | _ :: _, [] => do
      let x ← attempt (do
        demote e.uid e.g.who e.p.pid
        match ← pushRecon e.acc {
            jpc := e.cur.npc, jmask := e.p.act, arr := e.p.act &&& ~~~e.ex, ppc := e.cur.pc, pmask := e.ex, pfmt := 0,
            fcopy := e.p.fmt, kind := .callv, ppark := none } with
        | .trap r => return .trap r
        | .wait => return .wait
        | .ok _ => do
          endPath e.uid e.g.who e.p.pid
          callvStep e.acc)
      return x.res .jump) s

/-- `callv.u` (R111). -/
def execCallvU (f : Fields) (s : State) : Host.Outcome State Fault Refusal :=
  issue (.callvU f) f (fun e => do
    let t := e.opnd f.sa.toNat 0 false 0
    if t = 0 ∨ t.toNat % 4 ≠ 0 then return .trap (mkTrap 8 0 e.p.act)
    else do
      let x ← e.callTo t
      return x.res .jump) s

/-- Bytes of a data record, and of one element of it (R115). -/
def Env.spillSize (e : Env) (code : Nat) : Nat × Nat :=
  let w := if mfld e.f 0 0 = 1 then 8 else 4
  (if code < 256 then roundUp (e.gw * w) 64 else 64, w)

/-- The lanes of a data record with their addresses (R115). -/
def Env.spillLanes (e : Env) (code base w : Nat) : List (Nat × Nat) :=
  if code < 256 then (lanesOf e.ex e.gw).map (fun l => (l, base + l * w)) else [(0, base)]

/-- `spush` (R115); on no lane it does nothing (R8; assumption 14). -/
def execSpush (f : Fields) (s : State) : Host.Outcome State Fault Refusal :=
  issue (.spush f) f (fun e => do
    let c := f.sa.toNat
    let z := e.spillSize c
    let d := e.g.dsp.toNat
    if e.ex = 0 then return .done
    else if (e.s.csrOf e.uid e.g.who.idx 5).toNat < d + z.1 + e.g.cb then return .trap (mkTrap 0x28 1 e.p.act)
    else do
      let xs := e.spillLanes c d z.2
      match ← attempt (e.reachLanes xs { rd := false, wr := true, x := false }) with
      | .trap r => return .trap r
      | .wait => return .hold
      | .ok os => do
        match (← getC).refusedWrites e.t (← getS) xs with
        | b :: r => return .trap (laneTrap 10 0x50 (b :: r))
        | [] => do
          demote e.uid e.g.who e.p.pid
          e.postWrites ((joinLocs os xs).map (fun x =>
            (x.1, x.2.1, x.2.2, (e.opnd c x.1 (z.2 == 8) 0).toNat % 2 ^ (8 * z.2)))) z.2
          modGroup e.uid e.g.who (fun g => { g with dsp := g.dsp + wd z.1 })
          return .done) s

/-- `spop` (R115): the destination is scoreboarded; on no lane it does nothing (R8; assumption 14). -/
def execSpop (f : Fields) (s : State) : Host.Outcome State Fault Refusal :=
  issue (.spop f) f (fun e => do
    let c := f.dst.toNat
    let z := e.spillSize c
    let d := e.g.dsp.toNat
    if e.ex = 0 then return .done
    else if d < (e.s.csrOf e.uid e.g.who.idx 4).toNat + z.1 then return .trap (mkTrap 0x28 2 e.p.act)
    else do
      let xs := e.spillLanes c (d - z.1) z.2
      match ← attempt (e.reachLanes xs { rd := true, wr := false, x := false }) with
      | .trap r => return .trap r
      | .wait => return .hold
      | .ok os => do
        demote e.uid e.g.who e.p.pid
        e.postReads (joinLocs os xs) z.2 false true none
        modGroup e.uid e.g.who (fun g => { g with dsp := g.dsp - wd z.1 })
        return .done) s

end Sys2Proof.Machine
end

