-- ==== Sys2Proof/Machine/Soft.lean ====
section
/-! DEFINITION. Floating-point numbers as exact values and their rounding (R70, R84, R86), and the exact functions
behind the float instructions (R71 to R73). -/

namespace Sys2Proof.Machine

/-- Roundings (R69, R82, R90). -/
inductive RM where
  | ne | tz | dn | up | odd
deriving DecidableEq, Repr

/-- A format: exponent and fraction bits, bias, its largest finite code, and whether the top exponent is ∞ and NaN
(R84, R85). -/
structure FFmt where
  eb : Nat
  mb : Nat
  bias : Nat
  maxCode : Nat
  ieee : Bool
deriving DecidableEq, Repr

/-- binary32. -/
def f32 : FFmt := { eb := 8, mb := 23, bias := 127, maxCode := 0x7F7FFFFF, ieee := true }
/-- binary64. -/
def f64 : FFmt := { eb := 11, mb := 52, bias := 1023, maxCode := 0x7FEFFFFFFFFFFFFF, ieee := true }
/-- binary16. -/
def f16 : FFmt := { eb := 5, mb := 10, bias := 15, maxCode := 0x7BFF, ieee := true }
/-- BF16. -/
def bf16 : FFmt := { eb := 8, mb := 7, bias := 127, maxCode := 0x7F7F, ieee := true }
/-- FP8 E4M3. -/
def e4m3 : FFmt := { eb := 4, mb := 3, bias := 7, maxCode := 0x7E, ieee := false }
/-- FP8 E5M2. -/
def e5m2 : FFmt := { eb := 5, mb := 2, bias := 15, maxCode := 0x7B, ieee := true }
/-- FP6 E3M2. -/
def e3m2 : FFmt := { eb := 3, mb := 2, bias := 3, maxCode := 0x1F, ieee := false }
/-- FP6 E2M3. -/
def e2m3 : FFmt := { eb := 2, mb := 3, bias := 1, maxCode := 0x1F, ieee := false }
/-- FP4 E2M1. -/
def e2m1 : FFmt := { eb := 2, mb := 1, bias := 1, maxCode := 0x7, ieee := false }

/-- A value: a NaN, an infinity, or (-1)^neg * m * 2^e exactly. -/
inductive FV where
  | nan (signalling : Bool)
  | inf (neg : Bool)
  | fin (neg : Bool) (m : Nat) (e : Int)
deriving DecidableEq, Repr, Inhabited

/-- Width of a format. -/
def FFmt.width (f : FFmt) : Nat := 1 + f.eb + f.mb

/-- Exponent of the smallest subnormal. -/
def FFmt.emin (f : FFmt) : Int := 1 - (f.bias : Int) - (f.mb : Int)

/-- The sign bit of a code. -/
def FFmt.sign (f : FFmt) (x : Nat) : Bool := bitOf x (f.eb + f.mb)

/-- The value of a code (R84, R86). -/
def FFmt.unpack (f : FFmt) (x : Nat) : FV :=
  let ex := x / 2 ^ f.mb % 2 ^ f.eb
  let fr := x % 2 ^ f.mb
  let neg := f.sign x
  if f.ieee && ex == 2 ^ f.eb - 1 then
    if fr = 0 then .inf neg else .nan (fr < 2 ^ (f.mb - 1))
  else if !f.ieee && f.eb == 4 && x % 128 == 127 then .nan false
  else if ex = 0 then .fin neg fr f.emin
  else .fin neg (2 ^ f.mb + fr) (f.emin + (ex - 1 : Nat))

/-- The canonical NaN (R70, R92). -/
def FFmt.qnan (f : FFmt) : Nat :=
  if f.ieee then (2 ^ f.eb - 1) * 2 ^ f.mb + 2 ^ (f.mb - 1) else f.maxCode + 1

/-- The sign bit in place. -/
def FFmt.signed (f : FFmt) (neg : Bool) (x : Nat) : Nat := if neg then 2 ^ (f.eb + f.mb) + x else x

/-- A code's magnitude in units of the smallest subnormal. -/
def FFmt.units (f : FFmt) (code : Nat) : Nat :=
  let ex := code / 2 ^ f.mb
  if ex = 0 then code else (2 ^ f.mb + code % 2 ^ f.mb) * 2 ^ (ex - 1)

/-- The code of a magnitude that the format represents, in units of its smallest subnormal. -/
def FFmt.codeOf (f : FFmt) (u : Nat) : Nat :=
  if u < 2 ^ f.mb then u
  else
    let k := ilog2 u
    (k - f.mb + 1) * 2 ^ f.mb + (u / 2 ^ (k - f.mb) - 2 ^ f.mb)

/-- m plus a part below it (sticky), divided by 2^sh and rounded: the integer and whether it is inexact. -/
def roundAt (rm : RM) (neg : Bool) (m sh : Nat) (sticky : Bool) : Nat × Bool :=
  let q := m / 2 ^ sh
  let r := m % 2 ^ sh
  let inex := r != 0 || sticky
  let up : Bool :=
    match rm with
    | .ne => decide (0 < sh) && (decide (2 ^ (sh - 1) < r) || (r == 2 ^ (sh - 1) && (sticky || q % 2 == 1)))
    | .tz => false
    | .dn => inex && neg
    | .up => inex && !neg
    | .odd => inex && q % 2 == 0
  (if up then q + 1 else q, inex)

/-- The magnitude m * 2^e (a little more when sticky) in units of the format's smallest subnormal, rounded as if the
exponent were unbounded above; whether it is inexact, and tiny after rounding (R70). -/
def FFmt.toUnits (f : FFmt) (rm : RM) (neg : Bool) (m : Nat) (e : Int) (sticky : Bool) : Nat × Bool × Bool :=
  if m = 0 then (0, false, false)
  else
    let k := ilog2 m
    let ex := (k : Int) + e
    let norm := f.emin + f.mb
    let qn := ex - f.mb
    let q := if qn < f.emin then f.emin else qn
    let at_ (q : Int) : Nat × Bool :=
      if q ≤ e then roundAt rm neg (m * 2 ^ (e - q).toNat) 0 sticky else roundAt rm neg m (q - e).toNat sticky
    let r := at_ q
    let tiny := decide (ex < norm) && !(ex == norm - 1 && (at_ qn).1 == 2 ^ (f.mb + 1))
    (r.1 * 2 ^ (q - f.emin).toNat, r.2, tiny)

/-- Whether an overflow gives the infinity rather than the largest finite value (R70). -/
def overInf (rm : RM) (neg : Bool) : Bool :=
  match rm with
  | .ne => true
  | .tz => false
  | .odd => false
  | .dn => neg
  | .up => !neg

/-- Rounded once into an IEEE-style format, with flags (R70). -/
def FFmt.round (f : FFmt) (rm : RM) (neg : Bool) (m : Nat) (e : Int) (sticky : Bool) : Nat × Nat :=
  let r := f.toUnits rm neg m e sticky
  if f.units f.maxCode < r.1 then
    (f.signed neg (if overInf rm neg then (2 ^ f.eb - 1) * 2 ^ f.mb else f.maxCode), flagOF ||| flagNX)
  else (f.signed neg (f.codeOf r.1), (if r.2.1 then flagNX else 0) ||| (if r.2.1 && r.2.2 then flagUF else 0))

/-- An exact result: a value, more in magnitude than its m * 2^e when sticky, and the flags its operands raise. -/
structure XR where
  v : FV
  fl : Nat
  sticky : Bool

/-- The result in a format (R70). -/
def FFmt.give (f : FFmt) (rm : RM) (x : XR) : Nat × Nat :=
  match x.v with
  | .nan _ => (f.qnan, x.fl)
  | .inf neg => (f.signed neg ((2 ^ f.eb - 1) * 2 ^ f.mb), x.fl)
  | .fin neg m e =>
    let r := f.round rm neg m e x.sticky
    (r.1, r.2 ||| x.fl)

/-- NV when an operand is a signalling NaN. -/
def snan : FV → Nat
  | .nan true => flagNV
  | _ => 0

/-- A NaN. -/
def FV.isNan : FV → Bool
  | .nan _ => true
  | _ => false

/-- The sign of a value. -/
def FV.neg : FV → Bool
  | .nan _ => false
  | .inf n => n
  | .fin n _ _ => n

/-- Zero. -/
def FV.isZero : FV → Bool
  | .fin _ m _ => m == 0
  | _ => false

/-- An invalid operation's NaN. -/
def invalid : XR := { v := .nan false, fl := flagNV, sticky := false }

/-- An exact result without flags. -/
def exactly (v : FV) : XR := { v := v, fl := 0, sticky := false }

/-- Signed integer m in units of 2^e0 for e0 at most e. -/
def scaled (neg : Bool) (m : Nat) (e e0 : Int) : Int :=
  let x : Int := ((m * 2 ^ (e - e0).toNat : Nat) : Int)
  if neg then -x else x

/-- The exact sum (R70). -/
def xadd (rm : RM) (a b : FV) : XR :=
  let fl := snan a ||| snan b
  match a, b with
  | .nan _, _ | _, .nan _ => { v := .nan false, fl := fl, sticky := false }
  | .inf n, .inf k => if n == k then exactly (.inf n) else invalid
  | .inf n, .fin _ _ _ => exactly (.inf n)
  | .fin _ _ _, .inf n => exactly (.inf n)
  | .fin n m e, .fin k p d =>
    let e0 := min e d
    let x := scaled n m e e0 + scaled k p d e0
    if x = 0 then exactly (.fin (if n == k then n else rm == .dn) 0 e0)
    else exactly (.fin (decide (x < 0)) x.natAbs e0)

/-- The value with its sign changed. -/
def FV.negate : FV → FV
  | .nan s => .nan s
  | .inf n => .inf (!n)
  | .fin n m e => .fin (!n) m e

/-- The exact product (R71). -/
def xmul (a b : FV) : XR :=
  let fl := snan a ||| snan b
  match a, b with
  | .nan _, _ | _, .nan _ => { v := .nan false, fl := fl, sticky := false }
  | .inf n, y => if y.isZero then invalid else exactly (.inf (n != y.neg))
  | x, .inf n => if x.isZero then invalid else exactly (.inf (n != x.neg))
  | .fin n m e, .fin k p d => exactly (.fin (n != k) (m * p) (e + d))

/-- The exact a * b + c (R71). Whether 0 * ∞ + quiet NaN raises NV is each implementation's (IEEE 754). -/
def xfma (rm : RM) (a b c : FV) : XR :=
  let p := xmul a b
  if c.isNan then
    let fl := snan a ||| snan b ||| snan c
    let z := !a.isNan && !b.isNan && p.v.isNan && Config.fmaNanInvalid
    { v := .nan false, fl := fl ||| (if z then flagNV else 0), sticky := false }
  else
    let r := xadd rm p.v c
    { r with fl := r.fl ||| p.fl }

/-- The exact quotient (R73), to 140 bits and a sticky rest. -/
def xdiv (a b : FV) : XR :=
  let fl := snan a ||| snan b
  match a, b with
  | .nan _, _ | _, .nan _ => { v := .nan false, fl := fl, sticky := false }
  | .inf _, .inf _ => invalid
  | .inf n, .fin k _ _ => exactly (.inf (n != k))
  | .fin n _ _, .inf k => exactly (.fin (n != k) 0 0)
  | .fin n m e, .fin k p d =>
    if p = 0 then
      if m = 0 then invalid else { v := .inf (n != k), fl := flagDZ, sticky := false }
    else
      let sh := 140 + ilog2 p
      let x := m * 2 ^ sh
      { v := .fin (n != k) (x / p) (e - d - sh), fl := 0, sticky := x % p != 0 }

/-- The integer square root, from the bit at position n downwards. -/
def isqrt (x : Nat) : Nat → Nat → Nat
  | 0, r => if (r + 1) * (r + 1) ≤ x then r + 1 else r
  | n + 1, r => isqrt x n (if (r + 2 ^ (n + 1)) * (r + 2 ^ (n + 1)) ≤ x then r + 2 ^ (n + 1) else r)

/-- The exact square root (R73). -/
def xsqrt (a : FV) : XR :=
  match a with
  | .nan s => { v := .nan false, fl := if s then flagNV else 0, sticky := false }
  | .inf n => if n then invalid else exactly (.inf false)
  | .fin n m e =>
    if m = 0 then exactly (.fin n 0 0)
    else if n then invalid
    else
      let sh : Nat := 200 + (e % 2).toNat
      let x := m * 2 ^ sh
      let r := isqrt x (ilog2 x / 2 + 1) 0
      { v := .fin false r ((e - sh) / 2), fl := 0, sticky := r * r != x }

/-- The exact reciprocal square root (R73). -/
def xrsq (a : FV) : XR :=
  match a with
  | .nan s => { v := .nan false, fl := if s then flagNV else 0, sticky := false }
  | .inf n => if n then invalid else exactly (.fin false 0 0)
  | .fin n m e =>
    if m = 0 then { v := .inf n, fl := flagDZ, sticky := false }
    else if n then invalid
    else
      let m1 := if e % 2 = 0 then m else 2 * m
      let e1 := if e % 2 = 0 then e else e - 1
      let k := 160 + ilog2 m1
      let y := 2 ^ (2 * k) / m1
      let r := isqrt y (k + 1) 0
      { v := .fin false r (-(k : Int) - e1 / 2), fl := 0, sticky := r * r * m1 != 2 ^ (2 * k) }

/-- Fraction bits of the fixed-point enclosures below: far more than correct rounding of a 24-bit result needs. -/
def fixBits : Nat := 400

/-- 2π in fixed point. -/
def fixTwoPi : Nat := 16224754493461942477724542702601789038322303200358530407182382075230461810747980997491046721853633630855133559454655152472

/-- ln 2 in fixed point. -/
def fixLn2 : Nat := 1789879222497203190815761498240779176894896805856420935579692301363062920687047601279850318367644315849030039181347319086

/-- 1 / ln 2 in fixed point. -/
def fixInvLn2 : Nat := 3725399093452113361508878261685348397064333121840474113669779251110053462896811095071531244706817557295705407090210624801

/-- The product of two fixed-point numbers. -/
def fixMul (x y : Nat) : Nat := x * y / 2 ^ fixBits

/-- exp x by its series: the remaining terms from the i-th on, of which t is the (i-1)-th. -/
def fixExp (x : Nat) : Nat → Nat → Nat → Nat
  | 0, _, _ => 0
  | n + 1, i, t => t + fixExp x n (i + 1) (fixMul t x / i)

/-- sin x by its series in pairs of terms; x2 = x * x, t the term of exponent i. -/
def fixSin (x2 : Nat) : Nat → Nat → Nat → Nat
  | 0, _, _ => 0
  | n + 1, i, t =>
    let t1 := fixMul t x2 / ((i + 1) * (i + 2))
    let t2 := fixMul t1 x2 / ((i + 3) * (i + 4))
    t - t1 + fixSin x2 n (i + 4) t2

/-- The inverse hyperbolic tangent by its series; w2 = w * w, t = w^i. -/
def fixAtanh (w2 : Nat) : Nat → Nat → Nat → Nat
  | 0, _, _ => 0
  | n + 1, i, t => t / i + fixAtanh w2 n (i + 2) (fixMul t w2)

/-- A fixed-point magnitude found within a small error: a lower bound with a sticky rest. -/
def fixResult (neg : Bool) (x : Nat) (e : Int) : XR :=
  { v := .fin neg (x - 2 ^ 16) (e - fixBits), fl := 0, sticky := true }

/-- 2^a, exact for integral a (R73). -/
def xex2 (a : FV) : XR :=
  match a with
  | .nan s => { v := .nan false, fl := if s then flagNV else 0, sticky := false }
  | .inf n => exactly (if n then .fin false 0 0 else .inf false)
  | .fin n m e =>
    let k : Int := if 12 < (ilog2 m : Int) + e then (if n then -4000 else 4000) else
      scaled n m (if e < 0 then 0 else e) 0 / ((2 ^ (-e).toNat : Nat) : Int)
    if m = 0 then exactly (.fin false 1 0)
    else if 12 < (ilog2 m : Int) + e ∨ 0 ≤ e ∨ m % 2 ^ (-e).toNat = 0 then exactly (.fin false 1 k)
    else
      let fr := (scaled n m 0 0 % ((2 ^ (-e).toNat : Nat) : Int)).toNat * 2 ^ fixBits / 2 ^ (-e).toNat
      fixResult false (fixExp (fixMul fr fixLn2) 100 1 (2 ^ fixBits)) k

/-- log2 a, exact for powers of two (R73). -/
def xlg2 (a : FV) : XR :=
  match a with
  | .nan s => { v := .nan false, fl := if s then flagNV else 0, sticky := false }
  | .inf n => if n then invalid else exactly (.inf false)
  | .fin n m e =>
    if m = 0 then { v := .inf true, fl := flagDZ, sticky := false }
    else if n then invalid
    else
      let k := ilog2 m
      let ex : Int := (k : Int) + e
      if m = 2 ^ k then exactly (.fin (decide (ex < 0)) ex.natAbs 0)
      else
        let w := (m - 2 ^ k) * 2 ^ fixBits / (m + 2 ^ k)
        let l := fixMul (2 * fixAtanh (fixMul w w) 140 1 w) fixInvLn2
        let v : Int := ex * ((2 ^ fixBits : Nat) : Int) + (l : Int)
        fixResult (decide (v < 0)) v.natAbs 0

/-- sin(2π t / 2^fixBits) for 0 < t < a quarter turn. -/
def fixSinTurns (t : Nat) : Nat :=
  let x := fixMul t fixTwoPi
  fixSin (fixMul x x) 40 1 x

/-- The fraction of a turn of m * 2^e in fixed point. -/
def turnOf (m : Nat) (e : Int) : Nat :=
  if 0 ≤ e then 0 else m % 2 ^ (-e).toNat * 2 ^ fixBits / 2 ^ (-e).toNat

/-- sin of a turn fraction r: sign, and exactly 0 or 1 or a magnitude. -/
def sinTurn (zneg : Bool) (neg : Bool) (r : Nat) : XR :=
  let q := 2 ^ (fixBits - 2)
  if r = 0 ∨ r = 2 * q then exactly (.fin zneg 0 0)
  else if r = q then exactly (.fin neg 1 0)
  else if r = 3 * q then exactly (.fin (!neg) 1 0)
  else if r < q then fixResult neg (fixSinTurns r) 0
  else if r < 2 * q then fixResult neg (fixSinTurns (2 * q - r)) 0
  else if r < 3 * q then fixResult (!neg) (fixSinTurns (r - 2 * q)) 0
  else fixResult (!neg) (fixSinTurns (4 * q - r)) 0

/-- sin(2πa) (R73). -/
def xsin (a : FV) : XR :=
  match a with
  | .nan s => { v := .nan false, fl := if s then flagNV else 0, sticky := false }
  | .inf _ => invalid
  | .fin n m e => sinTurn n n (turnOf m e)

/-- cos(2πa) (R73). -/
def xcos (a : FV) : XR :=
  match a with
  | .nan s => { v := .nan false, fl := if s then flagNV else 0, sticky := false }
  | .inf _ => invalid
  | .fin _ m e => sinTurn false false ((turnOf m e + 2 ^ (fixBits - 2)) % 2 ^ fixBits)

/-- Rounded to an integral value (R71). -/
def xrnd (rm : RM) (a : FV) : XR :=
  match a with
  | .nan s => { v := .nan false, fl := if s then flagNV else 0, sticky := false }
  | .inf n => exactly (.inf n)
  | .fin n m e =>
    if 0 ≤ e ∨ m = 0 then exactly (.fin n m e)
    else
      let r := roundAt rm n m (-e).toNat false
      { v := .fin n r.1 0, fl := if r.2 then flagNX else 0, sticky := false }

/-- How two values compare: less, equal, greater, or unordered. -/
def fcompare (a b : FV) : Option Ordering :=
  match a, b with
  | .nan _, _ | _, .nan _ => none
  | .inf n, .inf k => some (if n == k then .eq else if n then .lt else .gt)
  | .inf n, .fin _ _ _ => some (if n then .lt else .gt)
  | .fin _ _ _, .inf n => some (if n then .gt else .lt)
  | .fin n m e, .fin k p d =>
    let e0 := min e d
    some (compare (scaled n m e e0) (scaled k p d e0))

/-- minimumNumber and maximumNumber of IEEE 754-2019 (R71). -/
def xminmax (mx : Bool) (a b : FV) : XR :=
  let fl := snan a ||| snan b
  let less : Bool :=
    match fcompare a b with
    | some .lt => true
    | some .eq => a.neg && !b.neg
    | _ => false
  let v :=
    if a.isNan then (if b.isNan then .nan false else b)
    else if b.isNan then a
    else if less != mx then a else b
  { v := v, fl := fl, sticky := false }

end Sys2Proof.Machine
end

