-- ==== Sys2Proof/Machine/Float.lean ====
section
/-! DEFINITION. The float instructions and the transcendentals, majors 0x06 to 0x0A (R69 to R73). -/

namespace Sys2Proof.Machine

/-- The rounding that an RM code selects (R69, R82, R90): 0 takes RND of `fmt`, under which vector arithmetic reads
round-to-odd as round-to-nearest. -/
def rmOf (code : Nat) (fmt : Word) (conv : Bool) : RM :=
  if code = 1 then .ne else if code = 2 then .tz else if code = 3 then .dn else if code = 4 then .up
  else if code = 5 then .odd
  else
    let r := wfld fmt 12 10
    if r = 1 then .tz else if r = 2 then .dn else if r = 3 then .up else if r = 4 ∧ conv then .odd else .ne

/-- The format of a float type code of R69; `.h2` is two binary16 values. -/
def fmtOf (t : Nat) : FFmt := if t = 0 then f32 else if t = 1 then f64 else if t = 3 then bf16 else f16

/-- The float type of the instruction. -/
def Env.ft (e : Env) : Nat := mfld e.f 2 0

/-- The rounding of the instruction. -/
def Env.rm (e : Env) : RM := rmOf (mfld e.f 5 3) e.p.fmt false

/-- A float source's bits. -/
def Env.fbits (e : Env) (code lane : Nat) : Nat := e.bits code lane (floatWidth e.ft) (e.f.floatImm e.ft)

/-- A function of up to three float values, in each half of a `.h2`: bits and flags. -/
def Env.floatLane (e : Env) (g : FFmt → Nat → Nat → Nat → Nat × Nat) (lane : Nat) : Nat × Nat :=
  let a := e.fbits e.f.sa.toNat lane
  let b := e.fbits e.f.sb.toNat lane
  let c := e.fbits e.f.sc.toNat lane
  let f := fmtOf e.ft
  if e.ft = 4 then
    let lo := g f (a % 65536) (b % 65536) (c % 65536)
    let hi := g f (a / 65536) (b / 65536) (c / 65536)
    (lo.1 + 65536 * hi.1, lo.2 ||| hi.2)
  else g f a b c

/-- A float instruction: the exact function of its sources rounded once. -/
def Env.float (e : Env) (g : RM → FV → FV → FV → XR) : Out :=
  e.alu (floatWidth e.ft) false (floatWidth e.ft == 64) (e.floatLane (fun f a b c =>
    f.give e.rm (g e.rm (f.unpack a) (f.unpack b) (f.unpack c))))

/-- The class mask of a value (R72). -/
def classOf (f : FFmt) (x : Nat) : Nat :=
  let neg := f.sign x
  match f.unpack x with
  | .nan true => 2 ^ 8
  | .nan false => 2 ^ 9
  | .inf _ => if neg then 1 else 2 ^ 7
  | .fin _ m _ =>
    if m = 0 then (if neg then 2 ^ 3 else 2 ^ 4)
    else if m < 2 ^ f.mb then (if neg then 2 ^ 2 else 2 ^ 5) else (if neg then 2 ^ 1 else 2 ^ 6)

/-- Whether a float condition holds (R72). -/
def fcond (cc : Nat) (o : Option Ordering) : Bool :=
  match o with
  | none => cc == 1 || cc == 7
  | some r =>
    if cc = 0 then r == .eq else if cc = 1 then r != .eq else if cc = 2 then r == .lt
    else if cc = 3 then r != .gt else if cc = 4 then r == .gt else if cc = 5 then r != .lt
    else cc == 6

/-- The flags of a float compare (R72). -/
def fcondFlags (cc : Nat) (a b : FV) : Nat :=
  if 2 ≤ cc ∧ cc ≤ 5 then (if a.isNan || b.isNan then flagNV else 0) else snan a ||| snan b

/-- `fadd`: a + b (R71). -/
def execFadd (f : Fields) (s : State) : Host.Outcome State Fault Refusal :=
  issueOut (.fadd f) f (fun e => e.float (fun rm a b _ => xadd rm a b)) s

/-- `fsub`: a - b (R71). -/
def execFsub (f : Fields) (s : State) : Host.Outcome State Fault Refusal :=
  issueOut (.fsub f) f (fun e => e.float (fun rm a b _ => xadd rm a b.negate)) s

/-- `fmul`: a * b (R71). -/
def execFmul (f : Fields) (s : State) : Host.Outcome State Fault Refusal :=
  issueOut (.fmul f) f (fun e => e.float (fun _ a b _ => xmul a b)) s

/-- `fma`: a * b + c, one rounding (R71). -/
def execFma (f : Fields) (s : State) : Host.Outcome State Fault Refusal :=
  issueOut (.fma f) f (fun e => e.float (fun rm a b c => xfma rm a b c)) s

/-- `fmin`: minimumNumber (R71). -/
def execFmin (f : Fields) (s : State) : Host.Outcome State Fault Refusal :=
  issueOut (.fmin f) f (fun e => e.float (fun _ a b _ => xminmax false a b)) s

/-- `fmax`: maximumNumber (R71). -/
def execFmax (f : Fields) (s : State) : Host.Outcome State Fault Refusal :=
  issueOut (.fmax f) f (fun e => e.float (fun _ a b _ => xminmax true a b)) s

/-- `frnd`: rounded to an integral value (R71). -/
def execFrnd (f : Fields) (s : State) : Host.Outcome State Fault Refusal :=
  issueOut (.frnd f) f (fun e => e.float (fun rm a _ _ => xrnd rm a)) s

/-- `fdiv`: a / b (R73). -/
def execFdiv (f : Fields) (s : State) : Host.Outcome State Fault Refusal :=
  issueOut (.fdiv f) f (fun e => e.float (fun _ a b _ => xdiv a b)) s

/-- `fsqrt`: the square root (R73). -/
def execFsqrt (f : Fields) (s : State) : Host.Outcome State Fault Refusal :=
  issueOut (.fsqrt f) f (fun e => e.float (fun _ a _ _ => xsqrt a)) s

/-- `frcp`: 1 / a (R73). -/
def execFrcp (f : Fields) (s : State) : Host.Outcome State Fault Refusal :=
  issueOut (.frcp f) f (fun e => e.float (fun _ a _ _ => xdiv (.fin false 1 0) a)) s

/-- `frsq`: 1 / the square root (R73). -/
def execFrsq (f : Fields) (s : State) : Host.Outcome State Fault Refusal :=
  issueOut (.frsq f) f (fun e => e.float (fun _ a _ _ => xrsq a)) s

/-- `fex2`: 2 to the power a (R73). -/
def execFex2 (f : Fields) (s : State) : Host.Outcome State Fault Refusal :=
  issueOut (.fex2 f) f (fun e => e.float (fun _ a _ _ => xex2 a)) s

/-- `flg2`: the binary logarithm (R73). -/
def execFlg2 (f : Fields) (s : State) : Host.Outcome State Fault Refusal :=
  issueOut (.flg2 f) f (fun e => e.float (fun _ a _ _ => xlg2 a)) s

/-- `fsin`: sin of a turns (R73). -/
def execFsin (f : Fields) (s : State) : Host.Outcome State Fault Refusal :=
  issueOut (.fsin f) f (fun e => e.float (fun _ a _ _ => xsin a)) s

/-- `fcos`: cos of a turns (R73). -/
def execFcos (f : Fields) (s : State) : Host.Outcome State Fault Refusal :=
  issueOut (.fcos f) f (fun e => e.float (fun _ a _ _ => xcos a)) s

/-- `fclass`: no flag (R72). -/
def execFclass (f : Fields) (s : State) : Host.Outcome State Fault Refusal :=
  issueOut (.fclass f) f (fun e => e.alu (floatWidth e.ft) false (floatWidth e.ft == 64)
    (e.floatLane (fun g a _ _ => (classOf g a, 0)))) s

/-- `fcmp` (R72). -/
def execFcmp (f : Fields) (s : State) : Host.Outcome State Fault Refusal :=
  issue (.fcmp f) f (fun e =>
    let g := fmtOf e.ft
    let a (l : Nat) : FV := g.unpack (e.fbits f.sa.toNat l)
    let b (l : Nat) : FV := g.unpack (e.fbits f.sb.toNat l)
    let cc := scfld f 2 0
    e.compare (fun l => fcond cc (fcompare (a l) (b l))) (fun l => fcondFlags cc (a l) (b l))) s

end Sys2Proof.Machine
end

