-- ==== Sys2Proof/Machine/Conv.lean ====
section
/-! DEFINITION. Number formats, exact summation, conversions and packing, major 0x0B (R82 to R96). -/

namespace Sys2Proof.Machine

/-- An MX format. -/
def isMx (c : Nat) : Bool := decide (8 ≤ c) && decide (c ≤ 13)

/-- An integer-class format (R88). -/
def isIntFmt (c : Nat) : Bool := decide (14 ≤ c) && decide (c ≤ 19)

/-- The float format of an element code; MX codes read as their element format (R94). -/
def elemFmt (c : Nat) : FFmt :=
  if c = 0 then f32 else if c = 1 then f16 else if c = 2 then bf16
  else if c = 3 ∨ c = 8 then e4m3 else if c = 4 ∨ c = 9 then e5m2 else if c = 5 ∨ c = 10 then e3m2
  else if c = 6 ∨ c = 11 then e2m3 else e2m1

/-- An integer times a power of two. -/
def intVal (x : Int) (e : Int) : FV := .fin (decide (x < 0)) x.natAbs e

/-- The value of an element (R85, R86); a reserved format code, which only a restored FMT can hold, reads as assumption 155 says. -/
def elemVal (c raw : Nat) : FV :=
  if c = 5 ∨ c = 6 ∨ c = 10 ∨ c = 11 then (elemFmt c).unpack (raw % 64)
  else if c ≤ 12 then (elemFmt c).unpack (raw % 2 ^ container c)
  else if c = 13 then intVal (sextNat 8 raw) (-6)
  else if c = 14 then intVal (sextNat 8 raw) 0
  else if c = 15 then intVal ((raw % 256 : Nat) : Int) 0
  else if c = 16 then intVal (sextNat 4 raw) 0
  else if c = 17 then intVal (sextNat 2 raw) 0
  else if c = 18 then intVal (if raw % 4 = 1 then 1 else if raw % 4 = 3 then -1 else 0) 0
  else intVal (if raw % 2 = 0 then 1 else -1) 0

/-- A value times 2^k. -/
def FV.scale (v : FV) (k : Int) : FV :=
  match v with
  | .fin n m e => .fin n m (e + k)
  | x => x

/-- Element i of a packed row held as a number (R86). -/
def elemAt (row cont i : Nat) : Nat := row / 2 ^ (i * cont) % 2 ^ cont

/-- The flag of a product that is invalid (R89). -/
def prodInvalid (p : FV × FV) : Bool :=
  snan p.1 != 0 || snan p.2 != 0 || (!p.1.isNan && !p.2.isNan && (xmul p.1 p.2).v.isNan)

/-- One chunk of the float class (R89): the accumulator's binary32 bits and the flags. A signalling NaN as the initial accumulator
raises NV (assumption 154). -/
def chunkFloat (acc : Nat) (ps : List (FV × FV)) : Nat × Nat :=
  let xs := ps.map (fun p => (xmul p.1 p.2).v)
  let pinf := xs.contains (.inf false)
  let ninf := xs.contains (.inf true)
  let s : Nat × Nat :=
    if xs.any FV.isNan || (pinf && ninf) then
      (f32.qnan, if ps.any prodInvalid || (pinf && ninf) then flagNV else 0)
    else if pinf || ninf then f32.give .ne (exactly (.inf ninf))
    else
      let e0 := xs.foldl (fun a v => match v with
        | .fin _ _ e => min a e
        | _ => a) 0
      let t : Int := (xs.map (fun v => match v with
        | .fin n m e => scaled n m e e0
        | _ => 0)).sum
      f32.give .ne (exactly (intVal t e0))
  let r := f32.give .ne (xadd .ne (f32.unpack acc) (f32.unpack s.1))
  (r.1, s.2 ||| r.2)

/-- One chunk of the integer class (R89): the accumulator's 32 bits and SAT. -/
def chunkInt (acc : Nat) (ps : List (FV × FV)) : Nat × Nat :=
  let t : Int := sextNat 32 acc + (ps.map (fun p => match (xmul p.1 p.2).v with
    | .fin n m e => scaled n m e 0
    | _ => 0)).sum
  wrapSat 32 true true t

/-- One chunk of a pair of formats (R88, R89). -/
def chunk (fa fb acc : Nat) (ps : List (FV × FV)) : Nat × Nat :=
  if isIntFmt fa && isIntFmt fb then chunkInt acc ps else chunkFloat acc ps

/-- The float format of a type code of R74. -/
def typeFmt (t : Nat) : FFmt := if t = 8 then f32 else if t = 9 then f64 else if t = 10 then f16 else bf16

/-- A finite value rounded into a format under the conversions' overflow rules (R91, R92): code and flags. -/
def convRound (f : FFmt) (rm : RM) (sat : Bool) (neg : Bool) (m : Nat) (e : Int) : Nat × Nat :=
  let r := f.toUnits rm neg m e false
  if f.units f.maxCode < r.1 then
    if sat then (f.signed neg f.maxCode, flagSAT ||| flagNX)
    else if overInf rm neg && (f.ieee || f.eb == 4) then
      (f.signed neg (if f.ieee then (2 ^ f.eb - 1) * 2 ^ f.mb else f.maxCode + 1), flagOF ||| flagNX)
    else (f.signed neg f.maxCode, flagOF ||| flagNX)
  else (f.signed neg (f.codeOf r.1), (if r.2.1 then flagNX else 0) ||| (if r.2.1 && r.2.2 then flagUF else 0))

/-- A magnitude rounded to an integer. -/
def toInt (rm : RM) (neg : Bool) (m : Nat) (e : Int) : Int × Bool :=
  let r := if 0 ≤ e then (m * 2 ^ e.toNat, false) else roundAt rm neg m (-e).toNat false
  (if neg then -(r.1 : Int) else (r.1 : Int), r.2)

/-- `cvt.D.S` of one lane (R91). -/
def cvtLane (s d : Nat) (rm : RM) (sat : Bool) (x : Nat) : Nat × Nat :=
  if s < 8 then
    let w := intWidth s
    let v : Int := if intSigned s then sextNat w x else ((x % 2 ^ w : Nat) : Int)
    if d < 8 then wrapSat (intWidth d) (intSigned d) sat v
    else convRound (typeFmt d) rm false (decide (v < 0)) v.natAbs 0
  else
    let v := (typeFmt s).unpack x
    if d < 8 then
      let lo := intLo (intWidth d) (intSigned d)
      let hi := intHi (intWidth d) (intSigned d)
      match v with
      | .nan _ => (0, flagNV)
      | .inf n => (wrapInt (intWidth d) (if n then lo else hi), flagNV)
      | .fin n m e =>
        let r := toInt rm n m e
        if r.1 < lo then (wrapInt (intWidth d) lo, flagNV)
        else if hi < r.1 then (wrapInt (intWidth d) hi, flagNV)
        else (wrapInt (intWidth d) r.1, if r.2 then flagNX else 0)
    else
      let f := typeFmt d
      match v with
      | .nan g => (f.qnan, if g then flagNV else 0)
      | .inf n => (f.signed n ((2 ^ f.eb - 1) * 2 ^ f.mb), 0)
      | .fin n m e => convRound f rm sat n m e

/-- `cvt` from `.f32` to a narrow format (R92). -/
def narrowLane (c : Nat) (rm : RM) (sat : Bool) (x : Nat) : Nat × Nat :=
  let v := f32.unpack x
  if c ≤ 7 then
    let f := elemFmt c
    match v with
    | .nan g => if f.ieee || f.eb == 4 then (f.qnan, if g then flagNV else 0) else (0, flagNV)
    | .inf n =>
      if f.eb = 4 then (f.signed n (if sat then f.maxCode else f.maxCode + 1), flagNV ||| (if sat then flagSAT else 0))
      else if f.ieee then
        if sat then (f.signed n f.maxCode, flagSAT ||| flagNX) else (f.signed n ((2 ^ f.eb - 1) * 2 ^ f.mb), 0)
      else (f.signed n f.maxCode, flagNV)
    | .fin n m e => convRound f rm sat n m e
  else
    match v with
    | .nan _ => (0, flagNV)
    | _ =>
      if c = 19 then (if f32.sign x then 1 else 0, 0)
      else
        let lo : Int := if c = 16 then -8 else if c = 17 then -2 else -1
        let hi : Int := if c = 16 then 7 else 1
        match v with
        | .fin n m e =>
          let r := toInt rm n m e
          let k := clampInt r.1 lo hi
          (wrapInt (container c) k, (if r.2 then flagNX else 0) ||| (if k = r.1 then 0 else flagSAT))
        | _ => (wrapInt (container c) (if v.neg then lo else hi), flagNV)

/-- `cvt` from a narrow format to `.f32`: exact, no flag (R92). -/
def widenLane (c raw : Nat) : Nat × Nat :=
  ((f32.give .ne (exactly (elemVal c (raw % 2 ^ container c)))).1, 0)

/-- Saturation in effect: SAT of the instruction or SATC of `fmt` (R90). -/
def Env.sat (e : Env) : Bool := e.f.mod.getLsbD 2 || e.p.fmt.getLsbD 13

/-- The rounding of a conversion (R90). -/
def Env.convRm (e : Env) : RM := rmOf (mfld e.f 5 3) e.p.fmt true

/-- `cvt.D.S` (R91). -/
def execCvt (f : Fields) (s : State) : Host.Outcome State Fault Refusal :=
  issueOut (.cvt f) f (fun e =>
    let st := scfld f 7 4
    let dt := scfld f 3 0
    e.alu (typeWidth dt) (decide (dt < 8) && intSigned dt) (typeWidth dt == 64) (fun l =>
      cvtLane st dt e.convRm e.sat (e.bits f.sa.toNat l (typeWidth st) (f.typeImm st)))) s

/-- `cvt.N.f32` and `cvt.f32.N` (R92). -/
def execCvtNarrow (f : Fields) (s : State) : Host.Outcome State Fault Refusal :=
  issueOut (.cvtNarrow f) f (fun e =>
    let n := scfld f 4 0
    e.alu 32 false false (fun l =>
      let x := e.bits f.sa.toNat l 32 f.rawImm
      if scfld f 5 5 = 1 then widenLane n x else narrowLane n e.convRm e.sat x)) s

/-- The largest exponent of an MX element format (R93). -/
def mxEmax (c : Nat) : Int := if c = 8 then 8 else if c = 9 then 15 else if c = 10 then 4 else if c = 13 then 0 else 2

/-- The scale of a block, or none when it holds a NaN or an infinity (R93). -/
def mxScale (c : Nat) (vs : List FV) : Option Nat :=
  if vs.any (fun v => match v with
    | .fin _ _ _ => false
    | _ => true) then none
  else
    match vs.filterMap (fun v => match v with
        | .fin _ m e => if m = 0 then Option.none else some ((ilog2 m : Int) + e)
        | _ => Option.none) with
    | [] => some 127
    | x :: r => some (clampInt (r.foldl max x - mxEmax c) (-127) 127 + 127).toNat

/-- One element of a block packed under its scale (R93). -/
def mxElem (c : Nat) (rm : RM) (sc : Nat) (v : FV) : Nat × Nat :=
  match v with
  | .fin n m e =>
    let e2 := e - ((sc : Int) - 127)
    if c = 13 then
      let r := toInt rm n m (e2 + 6)
      let k := clampInt r.1 (-127) 127
      (wrapInt 8 k, (if r.2 then flagNX else 0) ||| (if k = r.1 then 0 else flagSAT ||| flagNX))
    else convRound (elemFmt c) rm true n m e2
  | _ => (0, 0)

/-- `mxpk.N` (R93). -/
def execMxpk (f : Fields) (s : State) : Host.Outcome State Fault Refusal :=
  issueOut (.mxpk f) f (fun e =>
    let n := scfld f 4 0
    let v (l : Nat) : FV := f32.unpack (e.bits f.sa.toNat l 32 f.rawImm)
    let sc (b : Nat) : Option Nat := mxScale n (((lanesOf e.ex e.gw).filter (fun l => l / 32 == b)).map v)
    e.alu 32 false false (fun l =>
      match sc (l / 32) with
      | none => (0xFF00, flagNV)
      | some k =>
        let r := mxElem n e.convRm k (v l)
        (k * 256 + r.1, r.2))) s

/-- `mxunpk.N` (R93). -/
def execMxunpk (f : Fields) (s : State) : Host.Outcome State Fault Refusal :=
  issueOut (.mxunpk f) f (fun e =>
    let n := scfld f 4 0
    e.alu 32 false false (fun l =>
      let x := e.bits f.sa.toNat l 32 f.rawImm
      let k := fld x 15 8
      if k = 255 then (f32.qnan, 0)
      else
        let v := elemVal n (x % 256)
        f32.give e.convRm { v := v.scale ((k : Int) - 127), fl := snan v, sticky := false })) s

/-- `vdot` (R94). -/
def execVdot (f : Fields) (s : State) : Host.Outcome State Fault Refusal :=
  issue (.vdot f) f (fun e =>
    let fa := wfld e.p.fmt 4 0
    let fb := wfld e.p.fmt 9 5
    let n := 32 / container fa
    let nb := (n * container fb + 31) / 32
    let b := f.sb.toNat
    if e.regs < b + nb then return .trap (e.illenc 3)
    else if e.s.ctl.waitsFor e.uid e.g.who e.p e.vp e.home [(b, nb)] then return .hold
    else do
      let o := e.alu 32 false false (fun l =>
        let a := e.bits f.sa.toNat l 32 f.rawImm
        let row := ((List.range nb).map (fun i => e.v (b + i) l * 2 ^ (32 * i))).sum
        chunk fa fb (e.bits f.sc.toNat l 32 f.rawImm) ((List.range n).map (fun i =>
          (elemVal fa (elemAt a (container fa) i), elemVal fb (elemAt row (container fb) i)))))
      emits o.upds
      return .push o.lat) s

/-- One field of `fmt` written under R83: a reserved value keeps the old one. -/
def fmtField (old x lo width : Nat) (reserved : Bool) : Nat :=
  if reserved then fld old (lo + width - 1) lo * 2 ^ lo else x % 2 ^ width * 2 ^ lo

/-- `fmt` after all its fields have been written from x (R82, R83). -/
def fmtAll (old x : Nat) : Word :=
  wd (fmtField old x 0 5 (20 ≤ x % 32) + fmtField old (x / 32) 5 5 (20 ≤ x / 32 % 32) +
    fmtField old (x / 1024) 10 3 (5 ≤ x / 1024 % 8) + fmtField old (x / 8192) 13 1 false +
    fmtField old (x / 16384) 14 5 (20 ≤ x / 16384 % 32))

/-- `fmt` with one field replaced by the low bits of x (R95): the fields by FS code. -/
def fmtSet (old : Word) (fs x : Nat) : Word :=
  let o := old.toNat
  let put (lo n : Nat) : Word := fmtAll o (o - fld o (lo + n - 1) lo * 2 ^ lo + x % 2 ^ n * 2 ^ lo)
  if fs = 0 then fmtAll o x else if fs = 1 then put 0 5 else if fs = 2 then put 5 5 else if fs = 3 then put 10 3
  else if fs = 4 then put 13 1 else put 14 5

/-- The field of `fmt` that an FS code names (R90). -/
def fmtGet (fmt : Word) (fs : Nat) : Word :=
  wd (if fs = 0 then wfld fmt 18 0 else if fs = 1 then wfld fmt 4 0 else if fs = 2 then wfld fmt 9 5
    else if fs = 3 then wfld fmt 12 10 else if fs = 4 then wfld fmt 13 13 else wfld fmt 18 14)

/-- `getfmt` (R95). -/
def execGetfmt (f : Fields) (s : State) : Host.Outcome State Fault Refusal :=
  issueOut (.getfmt f) f (fun e => e.uniOut (fmtGet e.p.fmt (mfld f 3 0))) s

/-- `setfmt` (R95). -/
def execSetfmt (f : Fields) (s : State) : Host.Outcome State Fault Refusal :=
  issue (.setfmt f) f (fun e => do
    modPath e.cur.p (fun p => { p with fmt := fmtSet p.fmt (mfld f 3 0) (e.usrc f.sa.toNat).toNat })
    return .done) s

end Sys2Proof.Machine
end

