-- ==== Sys2Proof/Machine/LaneMove.lean ====
section
/-! DEFINITION. Lane movement, major 0x0C (R74 to R76), masks and compares, major 0x0D (R77, R78). -/

namespace Sys2Proof.Machine

/-- The type of a lane-movement instruction (R74). -/
def Env.lt (e : Env) : Nat := mfld e.f 3 0

/-- Source a of a lane: the low bits of its width, whether or not the lane executes. -/
def Env.la (e : Env) (lane : Nat) : Nat :=
  e.bits e.f.sa.toNat lane (typeWidth e.lt) (e.f.typeImm e.lt)

/-- A lane-movement result: a value and flags by lane. -/
def Env.lanes (e : Env) (g : Nat → Nat × Nat) : Out :=
  e.alu (typeWidth e.lt) (decide (4 ≤ e.lt) && decide (e.lt < 8)) (typeWidth e.lt == 64) g

/-- `shuf`: a of lane (b[L] mod GW) (R75). -/
def execShuf (f : Fields) (s : State) : Host.Outcome State Fault Refusal :=
  issueOut (.shuf f) f (fun e => e.lanes (fun l => (e.la (e.n32 f.sb.toNat l % e.gw), 0))) s

/-- `lrot`: a of lane ((L + b) mod GW) (R75). -/
def execLrot (f : Fields) (s : State) : Host.Outcome State Fault Refusal :=
  issueOut (.lrot f) f (fun e => e.lanes (fun l => (e.la ((l + e.n32 f.sb.toNat l) % e.gw), 0))) s

/-- `bcast`: a of lane (b mod GW) (R75). -/
def execBcast (f : Fields) (s : State) : Host.Outcome State Fault Refusal :=
  issueOut (.bcast f) f (fun e => e.lanes (fun l => (e.la (e.n32 f.sb.toNat l % e.gw), 0))) s

/-- One step of a `scan` or `redw`: an operation of R76 on two values of type t, with flags. -/
def combine (t op x y : Nat) : Nat × Nat :=
  if t < 8 then
    let w := intWidth t
    let v (z : Nat) : Int := if intSigned t then sextNat w z else z
    (if op = 0 then (x + y) % 2 ^ w
     else if op = 1 then (if v y < v x then y else x)
     else if op = 2 then (if v x < v y then y else x)
     else if op = 3 then x &&& y
     else if op = 4 then x ||| y
     else x ^^^ y, 0)
  else
    let g := typeFmt t
    let a := g.unpack x
    let b := g.unpack y
    g.give .ne (if op = 0 then xadd .ne a b else xminmax (op == 2) a b)

/-- The identity of an operation (R76). -/
def identity (t op : Nat) : Nat :=
  if t < 8 then
    let w := intWidth t
    if op = 1 then (if intSigned t then 2 ^ (w - 1) - 1 else 2 ^ w - 1)
    else if op = 2 then (if intSigned t then 2 ^ (w - 1) else 0)
    else if op = 3 then 2 ^ w - 1
    else 0
  else
    let g := typeFmt t
    let inf := (2 ^ g.eb - 1) * 2 ^ g.mb
    if op = 0 then g.signed true 0 else g.signed (op == 2) inf

/-- The prefixes of an operation over values in order: before each value, after it, and the flags of the step that takes
it in; none stands for the empty prefix. -/
def prefixes (t op : Nat) : Option Nat → List Nat → List (Option Nat × Nat × Nat)
  | _, [] => []
  | acc, x :: r =>
    let n := match acc with
      | none => (x, 0)
      | some a => combine t op a x
    (acc, n.1, n.2) :: prefixes t op (some n.1) r

/-- The prefixes over the executing lanes. -/
def Env.prefixed (e : Env) : List (Nat × Option Nat × Nat × Nat) :=
  let ls := lanesOf e.ex e.gw
  ls.zip (prefixes e.lt (scfld e.f 2 0) none (ls.map e.la))

/-- `scan` (R76): the executing lanes are combined from the lowest to the highest, and every step's flags count. -/
def execScan (f : Fields) (s : State) : Host.Outcome State Fault Refusal :=
  issueOut (.scan f) f (fun e =>
    let ps := e.prefixed
    let ex := bitOf f.sc.toNat 3
    let fl := orFlags (ps.map (fun p => p.2.2.2))
    e.lanes (fun l =>
      match ps.find? (fun p => p.1 == l) with
      | some p => (if ex then p.2.1.getD (identity e.lt (scfld f 2 0)) else p.2.2.1, fl)
      | none => (0, 0))) s

/-- `redw` (R76). -/
def execRedw (f : Fields) (s : State) : Host.Outcome State Fault Refusal :=
  issueOut (.redw f) f (fun e =>
    let ps := e.prefixed
    let fl := orFlags (ps.map (fun p => p.2.2.2))
    e.lanes (fun _ => (((ps.getLast?).map (fun p => p.2.2.1)).getD 0, fl))) s

/-- `sortk`: the lane that sorts to rank i goes to the i-th executing lane (R75). -/
def execSortk (f : Fields) (s : State) : Host.Outcome State Fault Refusal :=
  issueOut (.sortk f) f (fun e =>
    let ls := lanesOf e.ex e.gw
    let w := typeWidth e.lt
    let key (l : Nat) : Int := if decide (4 ≤ e.lt) then sextNat w (e.la l) else e.la l
    let ranks := ls.zip ((sortBy (fun x y => decide (x.2 < y.2)) (ls.map (fun l => (l, key l)))).map (·.1))
    e.alu 32 false false (fun l =>
      match ranks.find? (fun p => p.1 == l) with
      | some p => (p.2, 0)
      | none => (0, 0))) s

/-- `ballot` (R75). -/
def execBallot (f : Fields) (s : State) : Host.Outcome State Fault Refusal :=
  issue (.ballot f) f (fun e => e.compare (fun l => e.la l != 0) (fun _ => 0)) s

/-- A mask instruction: its result ANDed with GWMASK, to a k or a w register and to the latch of every lane (R77,
R72). -/
def Env.maskResult (e : Env) (x : Word) : M Res := do
  let r := x &&& gwMask e.gw
  let c := e.f.dst.toNat
  onlyIf (!e.f.ws) (if 352 ≤ c then e.putK (c - 352) r else emits (e.putW c r))
  return .push (List.replicate e.gw r)

/-- A mask source: 324 reads the immediate as `.n64`. -/
def Env.msrc (e : Env) (c : Code) : Word := e.opnd c.toNat 0 false e.f.rawImm

/-- `kand` (R77). -/
def execKand (f : Fields) (s : State) : Host.Outcome State Fault Refusal :=
  issue (.kand f) f (fun e => e.maskResult (e.msrc f.sa &&& e.msrc f.sb)) s

/-- `kor` (R77). -/
def execKor (f : Fields) (s : State) : Host.Outcome State Fault Refusal :=
  issue (.kor f) f (fun e => e.maskResult (e.msrc f.sa ||| e.msrc f.sb)) s

/-- `kxor` (R77). -/
def execKxor (f : Fields) (s : State) : Host.Outcome State Fault Refusal :=
  issue (.kxor f) f (fun e => e.maskResult (e.msrc f.sa ^^^ e.msrc f.sb)) s

/-- `kandn` (R77). -/
def execKandn (f : Fields) (s : State) : Host.Outcome State Fault Refusal :=
  issue (.kandn f) f (fun e => e.maskResult (e.msrc f.sa &&& ~~~e.msrc f.sb)) s

/-- `knot` (R77). -/
def execKnot (f : Fields) (s : State) : Host.Outcome State Fault Refusal :=
  issue (.knot f) f (fun e => e.maskResult (~~~e.msrc f.sa)) s

/-- A count or an index of a mask, which a mask of GW lanes always holds: `kpop`, `kfirst` (R77). -/
def Env.maskNumber (e : Env) (n : Nat) : M Res := do
  emits (e.putWd (wd n))
  return .push (List.replicate e.gw (wd n))

/-- `kpop` (R77). -/
def execKpop (f : Fields) (s : State) : Host.Outcome State Fault Refusal :=
  issue (.kpop f) f (fun e => e.maskNumber (popc (e.msrc f.sa &&& gwMask e.gw))) s

/-- `kfirst`: 64 if none (R77). -/
def execKfirst (f : Fields) (s : State) : Host.Outcome State Fault Refusal :=
  issue (.kfirst f) f (fun e => e.maskNumber ((lowest (e.msrc f.sa &&& gwMask e.gw)).getD 64)) s

/-- `kmov` (R77). -/
def execKmov (f : Fields) (s : State) : Host.Outcome State Fault Refusal :=
  issue (.kmov f) f (fun e => e.maskResult (e.msrc f.sa)) s

/-- Whether an integer condition holds (R78). -/
def icond (cc : Nat) (a b : Int) : Bool :=
  if cc = 0 then a == b else if cc = 1 then a != b else if cc = 2 then decide (a < b)
  else if cc = 3 then decide (a ≤ b) else if cc = 4 then decide (b < a) else decide (b ≤ a)

/-- `cmp` (R78). -/
def execCmp (f : Fields) (s : State) : Host.Outcome State Fault Refusal :=
  issue (.cmp f) f (fun e => e.compare (fun l => icond (scfld f 2 0) (e.ia l) (e.ib l)) (fun _ => 0)) s

end Sys2Proof.Machine
end

