-- ==== Sys2Proof/Machine/AtOps.lean ====
section
/-! DEFINITION. What an atomic computes (R131, R199, R200) and the step in which one lane of it is served. -/

namespace Sys2Proof.Machine

/-- A float step of an atomic, rounded to nearest-even; `.h2` (type 12) takes each half on its own (R199). -/
def atFloat (op t x y : Nat) : Nat × Nat :=
  let one (g : FFmt) (a b : Nat) : Nat × Nat :=
    let u := g.unpack a
    let v := g.unpack b
    g.give .ne (if op = 0 then xadd .ne u v else xminmax (op == 2) u v)
  if t = 12 then
    let lo := one f16 (x % 65536) (y % 65536)
    let hi := one f16 (x / 65536) (y / 65536)
    (lo.1 + 65536 * hi.1, lo.2 ||| hi.2)
  else one (typeFmt t) x y

/-- f(old, c, e) of an operation at a type of R74 (12: `.h2`), with flags (R131, R199). -/
def AtOp.apply (op : AtOp) (t old c e : Nat) : Nat × Nat :=
  let i (k : Nat) : Nat × Nat := (if t < 8 then (combine t k old c).1 else old, 0)
  match op with
  | .add => i 0
  | .min => i 1
  | .max => i 2
  | .and => i 3
  | .or => i 4
  | .xor => i 5
  | .exch => (c, 0)
  | .cas => (if old = c then e else old, 0)
  | .fadd => atFloat 0 t old c
  | .fmin => atFloat 1 t old c
  | .fmax => atFloat 2 t old c
  | .push => (old, 0)
  | .pop => (old, 0)

/-- A queue word after a push or a pop, and the index it returns (R200). -/
def queueStep (push : Bool) (w : Nat) : Nat × Nat :=
  let head := fld w 31 0
  let tail := fld w 63 32
  let cap := fld w 95 64
  let none_ := 2 ^ 64 - 1
  if push then
    (if (tail + 2 ^ 32 - head) % 2 ^ 32 < cap then (w - tail * 2 ^ 32 + (tail + 1) % 2 ^ 32 * 2 ^ 32, tail) else (w, none_))
  else if head ≠ tail then (w - head + (head + 1) % 2 ^ 32, head) else (w, none_)

/-- One lane of an atomic at its location: what it returns, and its flags. -/
def serveAtom (op : AtOp) (t : Nat) (x : Elem) : M (Nat × Nat) := do
  let s ← getS
  let old := s.load x.loc x.n
  match op with
  | .push => do
    let r := queueStep true old
    storeN x.loc r.1 16
    return (r.2, 0)
  | .pop => do
    let r := queueStep false old
    storeN x.loc r.1 16
    return (r.2, 0)
  | _ => do
    let r := op.apply t old x.data.toNat x.data2.toNat
    storeN x.loc r.1 x.n
    return (old, r.2)

end Sys2Proof.Machine
end

