-- ==== Sys2Proof/Machine/TeamMem.lean ====
section
/-! DEFINITION. The scratchpads: team memory, the die pool and their atomics, majors 0x10 to 0x12 (R119 to R136). -/

namespace Sys2Proof.Machine

/-- A lane access of a scratchpad: lane, offset, class. -/
structure SpLane where
  lane : Nat
  off : Nat
  cls : Cls
deriving DecidableEq, Repr

/-- The lanes of a scratchpad instruction with their classes (R131). -/
def Env.spLanes (e : Env) (sp n : Nat) : List SpLane :=
  e.serves.map (fun l => { lane := l, off := e.spAddr l, cls := classify e.s.ctl e.t sp (e.spAddr l) n })

/-- The outside lanes with their subcause; 0x10 outranks 0x11 (R136). -/
def outside (xs : List SpLane) : Option (Nat × List SpLane) :=
  let f (b : Nat) : List SpLane := xs.filter (fun x => x.cls == .out b)
  match f 0x10, f 0x11 with
  | a :: r, _ => some (0x10, a :: r)
  | [], a :: r => some (0x11, a :: r)
  | [], [] => none

/-- The data lanes with their locations. -/
def dataLanes (xs : List SpLane) : List (SpLane × Loc) :=
  xs.filterMap (fun x => match x.cls with
    | .data l => some (x, l)
    | _ => none)

/-- The selvage lanes. -/
def selvLanes (xs : List SpLane) : List SpLane := xs.filter (fun x => x.cls == .selv)

/-- What the waits of R127 find: a line to park on. -/
def spPark (c : Ctl) (t : Team) (tm wr : Bool) (ds : List (SpLane × Loc)) (n : Nat) : Option (ParkKind × Word) :=
  let ls := (ds.map (fun d => (linesOf d.2 n).map (fun i => ({ d.2 with key := i * 64 } : Loc)))).flatten
  match (if tm then ls.find? (fun l => c.absent t.uid (tmLine l)) else none) with
  | some l => some (.absent t.uid (tmLine l), wd (tmLine l * 64))
  | none =>
    match (if wr then ls.find? (fun l => c.pinned l) else none) with
    | some l => some (.pinned l, wd (if tm then tmLine l * 64 else l.key))
    | none => none

/-- Of the elements at one location only the last: the highest lane's store stands (R131, R211). -/
def lastAt : List Elem → List Elem
  | [] => []
  | x :: r => if r.any (fun y => y.loc == x.loc) then lastAt r else x :: lastAt r

/-- A byte of a registered ring's header (R289). -/
def Ctl.ringHeader (c : Ctl) (l : Loc) (n : Nat) : Bool := c.rings.any (fun r => r.loc.touches 64 l n)

/-- The common part of a scratchpad access (R131): traps, parks and hits, then the lanes' entries and the zeros that
selvage lanes read. sp is the space, wr: it writes, n its bytes; el fills in a data lane's element. -/
def Env.spAccess (e : Env) (sp n : Nat) (wr : Bool) (act : Act) (flags : Bool) (w : Nat) (sgn rd : Bool)
    (dat : Nat → Word × Word) : M Res := do
  let xs := e.spLanes sp n
  let pairs (l : List SpLane) : List (Nat × Nat) := l.map (fun x => (x.lane, x.off))
  match xs.filter (fun x => x.off % n != 0) with
  | b :: r => return .trap (laneTrap 8 0 (pairs (b :: r)))
  | [] =>
    match outside xs with
    | some (b, ls) => return .trap (laneTrap 10 b (pairs ls))
    | none => do
      let c ← getC
      let ds := dataLanes xs
      match (if wr then ds.filter (fun d => c.boundByte d.2 n) else []) with
      | b :: r => return .trap (laneTrap 10 0x23 (pairs ((b :: r).map (·.1))))
      | [] =>
        match (if wr then ds.filter (fun d => c.ringHeader d.2 n) else []) with
        | b :: r => return .trap (laneTrap 10 0x70 (pairs ((b :: r).map (·.1))))
        | [] =>
        match spPark c e.t (sp == 1) wr ds n with
        | some (k, obj) => return .park k obj
        | none => do
          forEach (selvLanes xs) (fun x => recordHit e.uid (whoOf e.home) x.lane (hitWord sp x.off) false)
          onlyIf rd (forEach (selvLanes xs) (fun x => landSink e.uid (e.sinkFor x.lane w sgn false) 0))
          match ds with
          | [] => return .done
          | _ :: _ => do
            let ins ← freshId
            let els : List Elem := ds.map (fun d =>
              let fa := fenceAddr e.t sp d.1.off
              { lane := d.1.lane, loc := d.2, n := n, vs := fa.1, va := fa.2, data := (dat d.1.lane).1,
                data2 := (dat d.1.lane).2, sink := if rd then e.sinkFor d.1.lane w sgn true else .none })
            e.append (fun x => { x with flags := flags }) act ins (if act == .write then lastAt els else els)
            return .done

/-- A load of a scratchpad (R131). -/
def Env.spLoad (e : Env) (sp : Nat) : M Res :=
  let t := mfld e.f 3 0
  e.spAccess sp (intWidth t / 8) false .read false (intWidth t) (intSigned t) true (fun _ => (0, 0))

/-- A store to a scratchpad (R131). -/
def Env.spStore (e : Env) (sp : Nat) : M Res :=
  let t := mfld e.f 3 0
  e.spAccess sp (intWidth t / 8) true .write false (intWidth t) false false
    (fun l => (wd (e.bits e.f.sc.toNat l (intWidth t) (e.f.intImm t)), 0))

/-- `lds` (R131). -/
def execLds (f : Fields) (s : State) : Host.Outcome State Fault Refusal :=
  issue (.lds f) f (fun e => e.spLoad 1) s

/-- `sts` (R131). -/
def execSts (f : Fields) (s : State) : Host.Outcome State Fault Refusal :=
  issue (.sts f) f (fun e => e.spStore 1) s

/-- The space of a die-pool form: a window offset when RES = 1 (R124). -/
def poolSpace (res : Bool) : Nat := if res then 3 else 2

/-- `ldp` (R131). -/
def execLdp (f : Fields) (s : State) : Host.Outcome State Fault Refusal :=
  issue (.ldp f) f (fun e => e.spLoad (poolSpace (f.mod.getLsbD 5))) s

/-- `stp` (R131). -/
def execStp (f : Fields) (s : State) : Host.Outcome State Fault Refusal :=
  issue (.stp f) f (fun e => e.spStore (poolSpace (f.mod.getLsbD 5))) s

/-- The operation of an `atms` minor (R130). -/
def atmsOp (n : Nat) : AtOp :=
  if n = 0 then .add else if n = 1 then .min else if n = 2 then .max else if n = 3 then .and else if n = 4 then .or
  else if n = 5 then .xor else if n = 6 then .exch else if n = 7 then .cas else .fadd

/-- `atms` (R131). -/
def execAtms (op : BitVec 6) (f : Fields) (s : State) : Host.Outcome State Fault Refusal :=
  issue (.atms op f) f (fun e =>
    let t := mfld f 3 0
    let w := typeWidth t
    let imm : Word := if op.toNat = 7 then 0 else f.typeImm t
    e.spAccess (if f.mod.getLsbD 5 then poolSpace (f.mod.getLsbD 4) else 1) (w / 8) true (.atom (atmsOp op.toNat) t)
      (op.toNat == 8) w (decide (4 ≤ t) && decide (t < 8)) true
      (fun l => (wd (e.bits f.sc.toNat l w imm), wd (e.bits f.sd l w imm)))) s

/-- Bit i of a `tmprobe` (R132). -/
def Env.probeBit (e : Env) (q : Bool) (line : Nat) : Bool :=
  let l := line % 2 ^ 26
  if l * 64 < e.t.hdr.tmem * 256 then
    (if q then e.s.ctl.pinned (tmLoc e.uid (l * 64)) else !e.s.ctl.absent e.uid l)
  else !q

/-- `tmprobe` (R132). -/
def execTmprobe (f : Fields) (s : State) : Host.Outcome State Fault Refusal :=
  issue (.tmprobe f) f (fun e => do
    let l0 := e.spAddr 0 / 64
    emits (e.putWd (maskOf ((List.range 64).filter (fun i => e.probeBit (f.mod.getLsbD 0) (l0 + i)))))
    return .done) s

/-- Something on its way still reads or writes a region of a pool, selvage included (R134): an entry, a pass, a job, or the
messages of a ring that was registered there. -/
def Ctl.poolBusy (c : Ctl) (die base size : Nat) : Bool :=
  let l := dpLoc die (base - 256)
  let n := size + 512
  c.entries.any (fun o => o.els.any (fun x => x.loc.touches x.n l n)) ||
  c.passes.any (fun p => p.spans.any (fun r => r.loc.touches r.n l n)) ||
  c.rings.any (fun r => r.loc.touches (64 + 64 * 2 ^ r.log) l n) ||
  c.jobs.any (fun j => j.die == die &&
    (j.roams 2 || j.spans.any (fun r => r.1 == 2 && (cutRange r.2.1 r.2.2 0).any (fun x =>
      overlap x.1 x.2.1 (die * 2 ^ 27 + base - 256) n))))

/-- Without the records of freed regions that nothing uses any more (R134). -/
def Ctl.sweepFreed (c : Ctl) : Ctl :=
  { c with allocs := c.allocs.filter (fun a => a.live || c.poolBusy a.die a.base a.size) }

/-- Everything of a die's pool that is taken: (first byte, bytes), selvage included (R123); a freed region as long as
something on its way uses it (R134). -/
def Ctl.poolTaken (c : Ctl) (die : Nat) : List (Nat × Nat) :=
  ((c.allocs.filter (fun a => a.die == die && (a.live || c.poolBusy die a.base a.size))).map
    (fun a => (a.base - 256, a.size + 512))) ++
  ((c.teams.filter (fun t => t.die == die && t.hdr.dpool != 0 && t.phase != .claimed)).map
    (fun t => (t.resv - 256, t.hdr.dpool * 4096 + 512)))

/-- The first byte of a pool's generator reserve, 1 MiB for each unit (R263); where it lies is the model's choice. -/
def Ctl.reserveBase (c : Ctl) : Nat := 2 ^ 27 - c.host.nresNow * 2 ^ 20

/-- The data bases below a limit at which a region of n data bytes fits: free, aligned to al. The candidates are 256 and
the ends of what is taken. -/
def Ctl.poolFits (c : Ctl) (die n al limit : Nat) : List Nat :=
  let tk := c.poolTaken die
  ((256 :: tk.map (fun r => r.1 + r.2 + 256)).map (fun b => roundUp b al)).dedup.filter (fun b =>
    decide (b + n + 256 ≤ limit) && !tk.any (fun r => overlap (b - 256) (n + 512) r.1 r.2))

/-- Bytes of a die's pool that count against the context's quota (R123). -/
def Ctl.poolUsed (c : Ctl) (rctx die : Nat) : Nat :=
  ((c.allocs.filter (fun a => a.live && a.rctx == rctx && a.die == die)).map (fun a => a.size + 512)).sum

/-- The absolute address of a pool byte (R122). -/
def poolAddr (die off : Nat) : Word := wd (die * 2 ^ 27 + off)

/-- `palloc` (R133): which free run is taken is open. -/
def execPalloc (f : Fields) (s : State) : Host.Outcome State Fault Refusal :=
  issue (.palloc f) f (fun e => do
    if f.mod.getLsbD 0 then do
      emits (e.putWd (if e.t.hdr.dpool = 0 then 0 else poolAddr e.t.die e.t.resv))
      return .done
    else do
      let a := (e.usrc f.sa.toNat).toNat
      let c ← getC
      let n := roundUp a 256
      let fits := c.poolFits e.t.die n (if 4096 ≤ a then 4096 else 256) c.reserveBase
      if a = 0 ∨ 0x08000000 < a ∨ (c.ctx e.t.rctx).dpQuota < c.poolUsed e.t.rctx e.t.die + n + 512 then do
        emits (e.putWd 0)
        return .done
      else
        match fits with
        | [] => do
          emits (e.putWd 0)
          return .done
        | b :: r => do
          let k ← drawBelow (r.length + 1)
          let base := (b :: r).getD k b
          let new : Alloc := { die := e.t.die, base := base, size := n, rctx := e.t.rctx, live := true, freedAt := 0 }
          modC (fun c => { c.sweepFreed with allocs := c.sweepFreed.allocs ++ [new] })
          emit (.wipe .dp (e.t.die * 2 ^ 27 + base - 256) (e.t.die * 2 ^ 27 + base + n + 256))
          modC (fun c => c.dropOpAt (dpLoc e.t.die base) n)
          emits (e.putWd (poolAddr e.t.die base))
          return .done) s

/-- The jobs outstanding that count into words at these bytes have lost their barrier (R152, R189). -/
def Ctl.loseJobs (c : Ctl) (l : Loc) (n : Nat) : Ctl :=
  { c with jobs := c.jobs.map (fun j =>
      match j.compl with
      | .barrier w _ => if l.touches n w 16 then { j with lost := true } else j
      | _ => j) }

/-- `pfree` (R134): bound words of the region are released, and those that wait on them take PROT 0x13. An address of
another die, or of none, is outside (R122, R136). -/
def execPfree (f : Fields) (s : State) : Host.Outcome State Fault Refusal :=
  issue (.pfree f) f (fun e => do
    let a := (e.usrc f.sa.toNat).toNat % 2 ^ 32
    let c ← getC
    match c.allocs.find? (fun x => x.live && x.rctx == e.t.rctx && poolAddr x.die x.base == wd a && x.die == e.t.die) with
    | none => return .trap (mkTrap 10 (if a / 2 ^ 30 ≠ 0 ∨ fld a 29 27 ≠ e.t.die then 0x10 else 0x12) e.ex)
    | some r => do
      let l := dpLoc r.die r.base
      if c.entries.any (fun o => o.isBar && o.els.any (fun x => x.loc.touches x.n l r.size)) then return .hold
      let id ← freshId
      modC (fun c => { c with
        allocs := c.allocs.map (fun x => if x == r then { x with live := false, freedAt := id } else x)
        bars := c.bars.filter (fun b => !b.loc.touches 16 l r.size) }.loseJobs l r.size)
      doomWaiters l r.size 0x13
      return .done) s

end Sys2Proof.Machine
end

