-- ==== Sys2Proof/Machine/Atomics.lean ====
section
/-! DEFINITION. Atomics and reductions on device memory, major 0x17, and their service at a synchronisation engine
(R194 to R204). -/

namespace Sys2Proof.Machine

/-- The operation of a minor of `atg`; `redg` minors are 0x10 higher (R196). -/
def atgOp (n : Nat) : AtOp :=
  if n = 0 then .add else if n = 1 then .min else if n = 2 then .max else if n = 3 then .and else if n = 4 then .or
  else if n = 5 then .xor else if n = 6 then .exch else if n = 7 then .cas else if n = 8 then .fadd
  else if n = 9 then .fmin else .fmax

/-- The type of R74 that T names for an operation; 12 is `.h2` (R196). -/
def atgType (n t : Nat) : Nat :=
  if n < 6 then (if t = 0 then 2 else if t = 1 then 6 else if t = 2 then 3 else 7)
  else if n < 8 then (if t = 0 then 2 else 3)
  else (if t = 0 then 8 else if t = 1 then 9 else 12)

/-- The PCIe AtomicOps that the device sends (R202). -/
def AtOp.hostOk (op : AtOp) : Bool := op == .add || op == .exch || op == .cas

/-- The common part of the atomics (R198): alignment, translation, host memory, procedural ranges, and the lanes'
requests; on no lane it has no effect (R8). touch: the instruction's reads are touches (R258); flags: its reply brings flags. -/
def Env.atomic (e : Env) (op : AtOp) (t n : Nat) (w : Nat) (sgn ret flags : Bool) (dat : Nat → Word × Word) : M Res := do
  let xs := e.dvLanes
  if xs.isEmpty then return .done
  match misaligned xs n with
  | b :: r => return .trap (laneTrap 8 0 (b :: r))
  | [] =>
    match ← attempt (e.reachLanes xs { rd := true, wr := true, x := false }) with
    | .trap r => return .trap r
    | .wait => return .hold
    | .ok os =>
      match (if op.hostOk then [] else (joinLocs os xs).filter (fun x => x.2.1.sp == .hm)) with
      | b :: r => return .trap (laneTrap 10 0x32 ((b :: r).map (fun x => (x.1, x.2.2))))
      | [] =>
        match (← getC).refusedWrites e.t (← getS) xs with
        | b :: r => return .trap (laneTrap 10 0x50 (b :: r))
        | [] =>
          match ← (if ret then e.fillCheck xs else pure none) with
          | some r => return r
          | none => do
            let ins ← freshId
            let o := mfld e.f 5 4
            let els : List Elem := (joinLocs os xs).map (fun x =>
              { lane := x.1, loc := x.2.1, n := n, vs := 0, va := x.2.2, data := (dat x.1).1, data2 := (dat x.1).2,
                sink := if ret then e.sinkFor x.1 w sgn true else .none })
            e.append (fun x => { x with acq := o % 2 == 1, rel := decide (2 ≤ o), scope := 3 + mfld e.f 3 2,
                                            party := if ret then 1 else 2, flags := flags })
              (.atom op t) ins els
            return .done

/-- The data an `atg` or `redg` brings for a lane: c, and e of a `cas` (R197). -/
def Env.atgData (e : Env) (n t : Nat) (lane : Nat) : Word × Word :=
  let w := if t = 12 then 32 else typeWidth t
  let imm : Word := if n = 7 then wd e.f.imm32b else e.f.typeImm t
  (wd (e.bits e.f.sc.toNat lane w imm), wd (e.bits e.f.sd lane w imm))

/-- The width in bits of an atomic's type. -/
def atgWidth (t : Nat) : Nat := if t = 12 then 32 else typeWidth t

/-- `atg` (R198). -/
def execAtg (op : BitVec 6) (f : Fields) (s : State) : Host.Outcome State Fault Refusal :=
  issue (.atg op f) f (fun e =>
    let n := op.toNat
    let t := atgType n (mfld f 1 0)
    let w := atgWidth t
    e.atomic (atgOp n) t (w / 8) w (decide (4 ≤ t) && decide (t < 8)) true (decide (8 ≤ n)) (e.atgData n t)) s

/-- `redg` (R198). -/
def execRedg (op : BitVec 6) (f : Fields) (s : State) : Host.Outcome State Fault Refusal :=
  issue (.redg op f) f (fun e =>
    let n := op.toNat - 16
    let t := atgType n (mfld f 1 0)
    let w := atgWidth t
    e.atomic (atgOp n) t (w / 8) w false false false (e.atgData n t)) s

/-- `atq.push` (R200). -/
def execAtqPush (f : Fields) (s : State) : Host.Outcome State Fault Refusal :=
  issue (.atqPush f) f (fun e => e.atomic .push 0 16 64 false true false (fun _ => (0, 0))) s

/-- `atq.pop` (R200). -/
def execAtqPop (f : Fields) (s : State) : Host.Outcome State Fault Refusal :=
  issue (.atqPop f) f (fun e => e.atomic .pop 0 16 64 false true false (fun _ => (0, 0))) s

/-- The replies of an entry's lanes to an `atg` or `atq`: what each read with its flags, or the fault. -/
def sendReplies (x : Entry) (kind : ReplyKind) (vals : List (Elem × Nat × Nat)) (fault : Option (Nat × Nat)) : M Unit :=
  forEach vals (fun v => do
    let id ← freshId
    modC (fun c => { c with replies := c.replies ++ [{
      id := id, kind := kind, ins := x.ins, team := x.team, who := x.who, pid := x.pid, home := x.home,
      lane := v.1.lane, sink := v.1.sink, data := wd v.2.1, cnt := x.cnt, poisoned := x.poisoned, flags := if x.flags then v.2.2 else 0,
      addr := v.1.va, fault := fault, acq := x.acq, hl := x.hl, born := x.born,
      way := if x.stage == .pend then none else some (v.1.loc, x.cluster / 16) }] }))

/-- A fault met by an entry after issue (R188): it comes back with the replies, or is recorded at once. -/
def entryFault (x : Entry) (kind : ReplyKind) (cause sub : Nat) : M Unit :=
  if x.party = 1 then sendReplies x kind (x.els.map (fun v => (v, 0, 0))) (some (cause, sub))
  else forEach x.els (fun v => recordFault x.team x.home v.lane cause sub x.party (wd v.va))

/-- Every lane of an atomic is served in one unbroken run, lanes ascending (R195). -/
def serveRun (op : AtOp) (t : Nat) (els : List Elem) : M (List (Elem × Nat × Nat)) :=
  forMap els (fun v => do
    let r ← serveAtom op t v
    return (v, r.1, r.2))

/-- An atomic is served at its point of coherence. -/
def serveAtomic (x : Entry) (op : AtOp) (t : Nat) : M Unit := do
  let vs ← serveRun op t x.els
  dropEntry x.id
  onlyIf (x.party == 1) (sendReplies x .atomic vs none)

/-- `cjoin` at the counter's engine (R369): CNT and the value returned; only CNT's own bits [31:0] change. -/
def cjoinStep (cnt b : Nat) : Nat × Nat :=
  let t : Int := (cnt : Int) + sextNat 32 b
  if t < 0 ∨ 2 ^ 31 - 1 < t then (cnt, 2 ^ 64 - 1) else (t.toNat, t.toNat)

/-- A lane's atomic reply lands (ATOMIC_REPLY; R198, R199): its value and flags, or its fault. -/
def execAtomicReply (id : Nat) (s : State) : Host.Outcome State Fault Refusal :=
  event (do
    let c ← getC
    match c.replies.find? (fun r => r.id == id && r.kind == .atomic && !c.replyStalled r) with
    | none => pure ()
    | some r => do
      takeReply id
      match r.fault with
      | some (k, b) => recordFault r.team r.home r.lane k b 1 (wd r.addr)
      | none => do
        landSink r.team r.sink r.data
        onlyIf (c.hasTeam r.team) (orGst r.team r.home r.flags)) s

end Sys2Proof.Machine
end

