-- ==== Sys2Proof/Machine/Fills.lean ====
section
/-! DEFINITION. The end of a fill (R259, R264) and the drop of a block (R265). -/

namespace Sys2Proof.Machine

/-- A range of a context by its number. -/
def Ctl.range (c : Ctl) (rctx num : Nat) : Option PRange := (c.ctx rctx).ranges.find? (fun r => r.num == num)

/-- A continuation ends its block's fill: FULL, and its waiters resume; or FAILED with a cause, which every waiter
takes (R259). -/
def endFill (k : Cont) (fail : Option (Nat × Nat)) : M Unit := do
  let c ← getC
  match k.kind with
  | .shade _ _ _ => pure ()
  | .fill range block _ =>
    if c.conts.any (fun x => x.id == k.id) then do
      match c.range k.rctx range with
      | some r => setFill k.rctx r block (if fail.isNone then 2 else 3)
      | none => pure ()
      modC (fun c => { c with
        conts := c.conts.filter (fun x => x.id != k.id)
        waits := match fail with
          | none => c.waits.filter (fun w => !w.on k.rctx range block)
          | some f => c.waits.map (fun w => if w.on k.rctx range block then { w with failed := some f } else w) })
    else pure ()

/-- The fill of a generator team ends (R264). -/
def endTeamFill (t : Team) (fail : Option (Nat × Nat)) : M Unit := do
  let c ← getC
  match t.origin with
  | .fill k _ _ _ _ =>
    match c.conts.find? (fun x => x.id == k) with
    | some x => endFill x fail
    | none => pure ()
  | _ => pure ()

/-- The failure that `pfill.fail #r` gives: PROCGEN 0x01 or PROCDEEP 0x02 (R259). -/
def fillFailure (reason : Nat) : Nat × Nat := if reason = 1 then (0x0C, 1) else (0x0D, 2)

/-- The device bytes of a block, page by page as the tables place them: (first byte, bytes) in whole tiles. -/
def State.blockTiles (s : State) (rctx : Nat) (r : PRange) (b : Nat) : List (Nat × Nat) :=
  let lo := r.base + b * 2 ^ r.blog
  (List.range (2 ^ r.blog / 4096)).filterMap (fun i => (s.dmAt rctx (lo + 4096 * i)).map (fun l => (l.key / 1024, 4)))

/-- An access that has passed the block's fill check is still on its way (R265). -/
def State.blockBusy (s : State) (rctx : Nat) (r : PRange) (b : Nat) : Bool :=
  let lo := r.base + b * 2 ^ r.blog
  let n := 2 ^ r.blog
  let c := s.ctl
  c.entries.any (fun e => e.stage != .wq && (c.team e.team).rctx == rctx &&
    e.els.any (fun x => x.vs == 0 && overlap x.va x.n lo n))

/-- A block's drop must wait (R265, R250): an access to it is on its way, or one of its tiles' groups or its fill-state line is
being re-sealed, or the line's page migrates. -/
def State.blockWaits (s : State) (rctx : Nat) (r : PRange) (b : Nat) : Bool :=
  s.blockBusy rctx r b || s.ctl.migrating rctx (r.fsa.toNat + b / 4) ||
    (s.fillLoc rctx r b).any (fun l => s.ctl.resealing l.key) ||
    (s.blockTiles rctx r b).any (fun t => s.ctl.resealing (t.1 * 1024))

/-- A block becomes EMPTY and its tiles virgin (R259, R265). -/
def emptyBlock (rctx : Nat) (r : PRange) (b : Nat) : M Unit := do
  let s ← getS
  setFill rctx r b 0
  forEach (s.blockTiles rctx r b) (fun t => makeVirgin t.1 t.2 false)

end Sys2Proof.Machine
end

