-- ==== Sys2Proof/Machine/Barrier.lean ====
section
/-! DEFINITION. Barriers, arrival counters and waiting, major 0x13 (R137 to R154). -/

namespace Sys2Proof.Machine

/-- The space of a barrier form (R144). -/
def Env.barSpace (e : Env) : Nat := if e.f.mod.getLsbD 5 then poolSpace (e.f.mod.getLsbD 4) else 1

/-- The offset of the barrier word (R145). -/
def Env.barOff (e : Env) : Nat := ((e.usrc e.f.sa.toNat).toNat + (e.usrc e.f.sb.toNat).toNat) % 2 ^ 32

/-- An entry of the word's 16 bytes. -/
def Env.barEntry (e : Env) (l : Loc) (act : Act) : Entry :=
  let fa := fenceAddr e.t e.barSpace e.barOff
  let x := e.entry 0 0 act [{ lane := 0, loc := l, n := 16, vs := fa.1, va := fa.2, data := 0, data2 := 0, sink := .none }]
  { x with scope := if l.sp == .tm then 1 else 3 }

/-- An access of some party to these bytes is still on its way: binding and releasing a word wait for it (R140). -/
def Ctl.entryAt (c : Ctl) (l : Loc) (n : Nat) : Bool :=
  c.entries.any (fun o => (o.writes || o.isBar) && o.els.any (fun x => x.loc.touches x.n l n))

/-- The word that a barrier form names, after the checks of R145; it waits behind what bars it in its own queue. -/
def Env.barWord (e : Env) (bound : Bool) : Got Loc :=
  let o := e.barOff
  if o % 16 ≠ 0 then .trap (mkTrap 8 0 e.ex)
  else
    match classify e.s.ctl e.t e.barSpace o 16 with
    | .selv => .trap (mkTrap 10 0x10 e.ex)
    | .out b => .trap (mkTrap 10 b e.ex)
    | .data l =>
      if e.s.ctl.wouldBar (e.barEntry l .read) then .wait
      else if bound && (e.s.ctl.barAt l).isNone then .trap (mkTrap 10 0x20 e.ex)
      else .ok l

/-- The word as it stands. -/
def State.barWordAt (s : State) (l : Loc) : BarWord := barWordOf (s.load l 8) (s.load (l.plus 8) 8)

/-- An instruction on a bound word. -/
def Env.onWord (e : Env) (body : Loc → M Res) : M Res :=
  match e.barWord true with
  | .trap r => pure (.trap r)
  | .wait => pure .hold
  | .ok l => body l

/-- The object numbers in use where a word would be bound, and how many there are (R137, R146). -/
def Env.barPool (e : Env) (l : Loc) : List Nat × Nat :=
  if l.sp == .tm then ((e.s.ctl.bars.filter (fun b => b.loc.sp == .tm && b.team == e.uid)).map (·.obj), e.t.hdr.nbar)
  else ((e.s.ctl.bars.filter (fun b => b.loc.sp == .dp && b.rctx == e.t.rctx && b.loc.key / 2 ^ 27 == e.t.die)).map (·.obj),
        (e.s.ctl.ctx e.t.rctx).barQuota)

/-- `barinit` (R146). -/
def execBarinit (f : Fields) (s : State) : Host.Outcome State Fault Refusal :=
  issue (.barinit f) f (fun e => do
    match e.barWord false with
    | .trap r => return .trap r
    | .wait => return .hold
    | .ok l =>
      let c := (e.usrc f.sc.toNat).toNat
      let ea := fld c 19 0
      let eb := fld c 63 32
      let used := e.barPool l
      if (e.s.ctl.barAt l).isSome then return .trap (mkTrap 10 0x21 e.ex)
      else if ea = 0 ∧ eb = 0 then return .trap (mkTrap 10 0x25 e.ex)
      else if e.s.ctl.entryAt l 16 then return .hold
      else
        match (List.range used.2).find? (fun i => !used.1.contains i) with
        | none => do
          emits (e.putW f.dst.toNat allOnes)
          return .done
        | some i => do
          modC (fun c => { c with bars := c.bars ++ [{ loc := l, obj := i, team := e.uid, rctx := e.t.rctx }] })
          let w : BarWord := { ovr := false, die := l.sp == .dp, pseq := 0, expa := ea, cnta := 0, expb := eb, cntb := 0 }
          storeN l w.lo 8
          storeN (l.plus 8) w.hi 8
          emits (e.putW f.dst.toNat (wd i))
          return .done) s

/-- Append an arrival: a release at the word's scope, counted when it reaches the word (R140, R147, R214). -/
def Env.arrival (e : Env) (l : Loc) (n : Nat) : M Unit := do
  let id ← freshId
  appendEntry { e.barEntry l (.bar (.count n 0)) with id := id, ins := id, rel := true }

/-- `arrive`: one thread arrival for each executing lane (R147). -/
def execArrive (f : Fields) (s : State) : Host.Outcome State Fault Refusal :=
  issue (.arrive f) f (fun e => e.onWord (fun l => do
    e.arrival l (popc e.ex)
    return .done)) s

/-- `arrivex` (R147). -/
def execArrivex (f : Fields) (s : State) : Host.Outcome State Fault Refusal :=
  issue (.arrivex f) f (fun e => e.onWord (fun l => do
    let n := wfld (e.usrc f.sc.toNat) 19 0
    onlyIf (n != 0) (e.arrival l n)
    return .done)) s

/-- The parity that a `wait` or `tryw` names (R144). -/
def Env.parity (e : Env) : Nat :=
  if e.f.mod.getLsbD 1 then (if e.f.mod.getLsbD 0 then 1 else 0) else (e.usrc e.f.sc.toNat).toNat % 2

/-- `wait` (R148). -/
def execWait (f : Fields) (s : State) : Host.Outcome State Fault Refusal :=
  issue (.wait f) f (fun e => e.onWord (fun l => do
    let q := (e.s.barWordAt l).pseq
    if q % 2 ≠ e.parity then return .done
    else return .park (.barrier l e.barOff q) (wd e.barOff))) s

/-- The counter that a form names. -/
def Env.ctr (e : Env) : Nat := e.f.sa.toNat - 336

/-- The value t of `waitc` and `tryw.c`, read as `.n32` (R149). -/
def Env.ctrGoal (e : Env) : Nat := (e.usrc e.f.sb.toNat).toNat % 2 ^ 32

/-- `waitc` (R149). -/
def execWaitc (f : Fields) (s : State) : Host.Outcome State Fault Refusal :=
  issue (.waitc f) f (fun e => do
    if e.ctrGoal ≤ e.a e.ctr then do
      onlyIf (f.mod.getLsbD 0)
        (emit (.reg32 .a (aKey e.uid e.home e.ctr) (BitVec.ofNat 32 (e.a e.ctr - e.ctrGoal))))
      return .done
    else return .park (.counter e.ctr e.ctrGoal) (wd e.ctr)) s

/-- `tryw` (R150). -/
def execTryw (f : Fields) (s : State) : Host.Outcome State Fault Refusal :=
  issue (.tryw f) f (fun e => e.onWord (fun l => do
    emits (e.putW f.dst.toNat (if (e.s.barWordAt l).pseq % 2 ≠ e.parity then 1 else 0))
    return .done)) s

/-- `tryw.c` (R150). -/
def execTrywC (f : Fields) (s : State) : Host.Outcome State Fault Refusal :=
  issue (.trywC f) f (fun e => do
    emits (e.putW f.dst.toNat (if e.ctrGoal ≤ e.a e.ctr then 1 else 0))
    return .done) s

/-- `phase` (R151). -/
def execPhase (f : Fields) (s : State) : Host.Outcome State Fault Refusal :=
  issue (.phase f) f (fun e => e.onWord (fun l => do
    let w := e.s.barWordAt l
    emits (e.putW f.dst.toNat (wd (if f.mod.getLsbD 0 then w.hi else w.lo)))
    onlyIf (f.mod.getLsbD 1) (storeN l { w with ovr := false }.lo 8)
    return .done)) s

/-- `barinv` (R152): the entry is released, and the paths that wait on the word take PROT 0x24. -/
def execBarinv (f : Fields) (s : State) : Host.Outcome State Fault Refusal :=
  issue (.barinv f) f (fun e => e.onWord (fun l => do
    if e.s.ctl.entryAt l 16 then return .hold
    else do
      storeN l ((e.s.barWordAt l).lo - 2 ^ 63) 8
      modC (fun c => { c with bars := c.bars.filter (fun b => b.loc != l) }.loseJobs l 16)
      doomWaiters l 16 0x24
      return .done)) s

end Sys2Proof.Machine
end

