-- ==== Sys2Proof/Machine/Evaluate.lean ====
section
/-! DEFINITION. What the material evaluator computes (R352), and the bilinear filter of `texs` (R348): exact sums of
binary16 values, rounded once. -/

namespace Sys2Proof.Machine

/-- A finite binary16 value in units of 2^-24; none for an infinity or a NaN. -/
def halfUnits (x : Nat) : Option Int :=
  match f16.unpack x with
  | .fin neg m e =>
    let y : Int := ((m * 2 ^ (e + 24).toNat : Nat) : Int)
    some (if neg then -y else y)
  | _ => none

/-- Channel ch of a texel (R342). -/
def chanOf (x : Word) (ch : Nat) : Nat := wfld x (16 * ch + 15) (16 * ch)

/-- T_l(t) of one channel in units of 2^-32 (R352). -/
def layerAt (tab : List Word) (ch t : Nat) : Int :=
  let v (i : Nat) : Int := (halfUnits (chanOf (tab.getD i 0) ch)).getD 0
  let i := t / 256
  256 * v i + (t % 256 : Nat) * (v (min (i + 1) 255) - v i)

/-- F(a) of one channel in units of 2^-32: t0 and dt are those of the lane. -/
def anchorAt (layers : List (List Word)) (ch t0 : Nat) (dt : Int) (a : Nat) : Int :=
  let t := (clampInt ((t0 : Int) + a * dt) 0 65535).toNat
  (layers.map (fun tab => layerAt tab ch t)).sum

/-- The anchors around view v of an interval at a rate: { lo + k r ≤ hi } and hi. -/
def anchorsOf (lo hi rate v : Nat) : Nat × Nat :=
  let a0 := lo + (v - lo) / rate * rate
  (a0, min (a0 + rate) hi)

/-- num / den in units of 2^-32 rounded once to binary16, overflow going to the largest finite value. -/
def roundHalf (num : Int) (den : Nat) : Nat :=
  let neg := decide (num < 0)
  let q := num.natAbs * 2 ^ 64 / den
  let r := f16.toUnits .ne neg q (-96) (num.natAbs * 2 ^ 64 % den != 0)
  f16.signed neg (if f16.units f16.maxCode < r.1 then f16.maxCode else f16.codeOf r.1)

/-- The value of one channel at view v (R352). -/
def viewValue (layers : List (List Word)) (rate : Nat) (x : Nat × Nat × Nat × Nat × Int) (v ch : Nat) : Nat :=
  let a := anchorsOf x.2.1 x.2.2.1 rate v
  let f (k : Nat) : Int := anchorAt layers ch x.2.2.2.1 x.2.2.2.2 k
  if a.1 = a.2 then roundHalf (f a.1) 1
  else roundHalf (f a.1 * ((a.2 - a.1 : Nat) : Int) + ((v - a.1 : Nat) : Int) * (f a.2 - f a.1)) (a.2 - a.1)

/-- Byte k of what a `matev` writes. -/
def viewByte (layers : List (List Word)) (rate : Nat) (ls : List (Nat × Nat × Nat × Nat × Int)) (k : Nat) : Option Byte :=
  (viewAt ls k).map (fun x => BitVec.ofNat 8 (viewValue layers rate x.1 x.2.1 (x.2.2 / 2) / 256 ^ (x.2.2 % 2)))

/-- One channel of a bilinear filter (R348): weights in units of 2^-16 with their texels. -/
def filterHalf (ts : List (Nat × Nat)) : Nat :=
  let vs := (ts.filter (fun t => t.1 != 0)).map (fun t => (t.1, f16.unpack t.2))
  let infs (neg : Bool) : Bool := vs.any (fun v => v.2 == .inf neg)
  if vs.any (fun v => v.2.isNan) || (infs true && infs false) then 0x7E00
  else if infs true then 0xFC00
  else if infs false then 0x7C00
  else
    let num := (ts.map (fun t => (t.1 : Int) * (halfUnits t.2).getD 0)).sum
    (f16.give .ne (exactly (.fin (decide (num < 0)) num.natAbs (-40)))).1

end Sys2Proof.Machine
end

