-- ==== Sys2Proof/Machine/Lz4.lean ====
section
/-! DEFINITION. The LZ4 block decoder of `cpz` (R187), over the compressed bytes read so far. -/

namespace Sys2Proof.Machine

/-- How far decoding has come: more input is needed, an error of R189 at an input byte (0x11) or an output byte (0x12),
or the end of the block. -/
inductive LzEnd where
  | more
  | err (sub at_ : Nat)
  | fin
deriving DecidableEq, Repr, Inhabited

/-- in(j): the byte, or why there is none. inp holds the input read so far. -/
def lzIn (inp : List Byte) (clen j : Nat) : Except LzEnd Nat :=
  if clen ≤ j then .error (.err 0x11 j)
  else match inp[j]? with
    | some b => .ok b.toNat
    | none => .error .more

/-- The bytes that extend a length: next position and length. -/
def lzLen (inp : List Byte) (clen : Nat) : Nat → Nat → Nat → Except LzEnd (Nat × Nat)
  | 0, _, _ => .error .more
  | n + 1, i, acc =>
    match lzIn inp clen i with
    | .error e => .error e
    | .ok x => if x = 255 then lzLen inp clen n (i + 1) (acc + x) else .ok (i + 1, acc + x)

/-- n literals from position i; out is the output, newest first. -/
def lzLits (inp : List Byte) (clen cap : Nat) : Nat → Nat → List Byte → List Byte × Option LzEnd
  | 0, _, out => (out, none)
  | n + 1, i, out =>
    match lzIn inp clen i with
    | .error e => (out, some e)
    | .ok x =>
      if out.length = cap then (out, some (.err 0x12 cap)) else lzLits inp clen cap n (i + 1) (BitVec.ofNat 8 x :: out)

/-- n bytes of a match at an offset. -/
def lzMatch (cap off : Nat) : Nat → List Byte → List Byte × Option LzEnd
  | 0, out => (out, none)
  | n + 1, out =>
    if out.length = cap then (out, some (.err 0x12 cap)) else lzMatch cap off n (out.getD (off - 1) 0 :: out)

/-- The match after a sequence's literals, from position i: the offset, the length and the copy. -/
def lzTail (inp : List Byte) (clen cap tok i : Nat) (out : List Byte) : List Byte × Except LzEnd Nat :=
  match lzIn inp clen i, lzIn inp clen (i + 1) with
  | .error e, _ => (out, .error e)
  | .ok _, .error e => (out, .error e)
  | .ok lo, .ok hi =>
    let off := lo + 256 * hi
    match (if tok % 16 = 15 then lzLen inp clen (clen + 1) (i + 2) 19 else .ok (i + 2, tok % 16 + 4)) with
    | .error e => (out, .error e)
    | .ok (j, ml) =>
      if off = 0 ∨ out.length < off then (out, .error (.err 0x11 i))
      else
        match lzMatch cap off ml out with
        | (o, some e) => (o, .error e)
        | (o, none) => (o, .ok j)

/-- Sequences from position i; the count bounds them. -/
def lzSeqs (inp : List Byte) (clen cap : Nat) : Nat → Nat → List Byte → List Byte × LzEnd
  | 0, _, out => (out, .more)
  | n + 1, i, out =>
    match lzIn inp clen i with
    | .error e => (out, e)
    | .ok tok =>
      match (if tok / 16 = 15 then lzLen inp clen (clen + 1) (i + 1) 15 else .ok (i + 1, tok / 16)) with
      | .error e => (out, e)
      | .ok (j, lit) =>
        match lzLits inp clen cap lit j out with
        | (o, some e) => (o, e)
        | (o, none) =>
          if j + lit = clen then (o, if o.length = cap then .fin else .err 0x12 o.length)
          else
            match lzTail inp clen cap tok (j + lit) o with
            | (o2, .error e) => (o2, e)
            | (o2, .ok k) => lzSeqs inp clen cap n k o2

/-- The output that the input read so far gives, in order, and how decoding stands. -/
def lzDecode (inp : List Byte) (clen cap : Nat) : List Byte × LzEnd :=
  if clen = 0 then ([], if cap = 0 then .fin else .err 0x12 0)
  else
    let r := lzSeqs inp clen cap (clen + 1) 0 []
    (r.1.reverse, r.2)

end Sys2Proof.Machine
end

