-- ==== Sys2Proof/Machine/Jobs.lean ====
section
/-! DEFINITION. What the jobs of the copy engines read and write, byte by byte (R177 to R187), and how they end (R179,
R188, R189). -/

namespace Sys2Proof.Machine

/-- The zones of a scratchpad space that a team reaches: (first address, bytes, selvage) (R119, R122 to R124). -/
def zones (c : Ctl) (t : Team) (sp : Nat) : List (Nat × Nat × Bool) :=
  let win (s : Nat) : List (Nat × Nat × Bool) :=
    if s = 0 then [] else [(0, s, false), (s, 256, true), (0xFFFFFF00, 256, true)]
  if sp = 1 then win (t.hdr.tmem * 256)
  else if sp = 3 then win (t.hdr.dpool * 4096)
  else
    let b := t.die * 2 ^ 27
    let rs := c.poolRegions t.rctx t.die
    (rs.map (fun r => (b + r.1, r.2, false))) ++
      ((rs.map (fun r => [(b + r.1 - 256, 256, true), (b + r.1 + r.2, 256, true)])).flatten)

/-- The subcause of PROT when a range has bytes outside its space (R181), if it has. -/
def rangeOut (c : Ctl) (t : Team) (sp a n : Nat) : Option Nat :=
  if sp = 0 ∨ n = 0 then none
  else
    let zs := zones c t sp
    let k := zs.length + 1
    let first := min n (2 ^ 32 - a)
    if coveredBy zs (a + first) k a && coveredBy zs (n - first) k 0 then none
    else if sp = 2 ∧ (fld a 31 30 = 0 ∧ fld a 29 27 = t.die ∧ fld (a + n - 1) 31 27 = t.die) then some 0x11
    else some 0x10

/-- The first selvage byte of a range, if it has one. -/
def rangeSelv (c : Ctl) (t : Team) (sp a n : Nat) : Option Nat :=
  if sp = 0 ∨ n = 0 then none
  else
    let zs := zones c t sp
    let inData (x : Nat) : Bool := zs.any (fun z => !z.2.2 && decide (z.1 ≤ x) && decide (x < z.1 + z.2.1))
    let first := min n (2 ^ 32 - a)
    let hit (lo hi base : Nat) : List (Nat × Nat) :=
      (zs.filter (fun z => z.2.2 && decide (z.1 < hi) && decide (lo < z.1 + z.2.1))).map
        (fun z => (base + max z.1 lo - lo, max z.1 lo))
    let hs := (hit a (a + first) 0 ++ hit 0 (n - first) first).filter (fun h => !inData h.2)
    match hs with
    | [] => none
    | h :: r => some ((r.foldl (fun m x => if x.1 < m.1 then x else m) h).2)

/-- Regions that a transfer may still reach although they were freed: those freed after its class check, which was made
when the number `n` was given out (R134). -/
def Ctl.withFreed (c : Ctl) (n : Nat) : Ctl :=
  { c with allocs := c.allocs.map (fun a => { a with live := a.live || decide (n < a.freedAt) }) }

/-- When a job's class check of a byte was made: at issue, or for the pattern side of a `spat` at acceptance (R134, R181). -/
def Job.checkedAt (j : Job) (write : Bool) (table : Bool) : Nat :=
  match j.kind with
  | .spat sc _ => if table || sc == write then j.seq else j.id
  | _ => j.id

/-- Byte k of a bit-plane image: plane, row and byte of the plane row, made of digits of the row's elements (R186). -/
def Job.planeByte (j : Job) (fa rows k : Nat) : Option Byte :=
  let pb := planeBytes fa
  let c := container fa
  let p := k / (rows * pb)
  let r := k / pb % rows
  let b := k % pb
  let per := if c = 1 then 8 else 4
  let lo := b * per * c
  (j.gotNat (r * 512 + lo / 8) ((lo + per * c + 7) / 8 - lo / 8)).map (fun x =>
    let y := x / 2 ^ (lo % 8)
    BitVec.ofNat 8 (((List.range per).map (fun i =>
      if c = 1 then y / 2 ^ i % 2 * 2 ^ i else y / 2 ^ (i * c + 2 * p) % 4 * 4 ^ i)).sum))

/-- What `cpz` has decoded so far. -/
def Job.decoded (j : Job) (clen : Nat) : List Byte × LzEnd := lzDecode (j.known clen 0) clen j.size

/-- Byte k of what a job writes, when it is known. -/
def Job.dataAt (j : Job) (k : Nat) : Option Byte :=
  match j.kind with
  | .fill v fb => some (BitVec.ofNat 8 (v.toNat / 256 ^ (k % fb)))
  | .cpz clen => (j.decoded clen).1[k]?
  | .cpx fa rows _ => j.planeByte fa rows k
  | .matev _ rate ls tab => tab.bind (fun t => viewByte t rate ls k)
  | _ => j.gotByte k

/-- The engine whose translations a job uses. -/
def Job.eng (j : Job) : EngineId :=
  match j.kind with
  | .epi .. => .matrix j.die j.cluster
  | .texw .. | .matld .. | .matev .. => .texel j.die j.cluster
  | _ => .copy j.die j.cluster j.engine

/-- A location by the tables and classes alone, for comparing bytes. -/
def State.jobLoc (s : State) (j : Job) (sp a : Nat) : Option Loc :=
  let t := s.ctl.team j.team
  if sp = 0 then s.placeAt t.rctx a
  else
    match classify (s.ctl.withFreed (j.checkedAt true false)) t sp a 1 with
    | .data l => some l
    | _ => none

/-- Whether a job has still to write the byte at address `at_`, which lies at l, or may have: where an index of its table has not
been read, any byte of its pattern's space. -/
def State.unlanded (s : State) (j : Job) (at_ : Nat × Nat) (l : Loc) : Bool :=
  j.err.isNone && (List.range j.size).any (fun k => !j.landedAt k &&
    (match j.dstAt k with
     | some a => (a.1 == 0 && a == at_) || s.jobLoc j a.1 a.2 == some l
     | none =>
       match j.kind with
       | .spat true r => r.ind && (if r.space = 0 then l.sp != .tm && l.sp != .dp else l.sp == .dp)
       | _ => false))

/-- An older access of the job's party has still to be served at this byte (R178, R216). -/
def Ctl.entryBehind (c : Ctl) (j : Job) (l : Loc) : Bool :=
  c.entries.any (fun o => j.early.contains o.ins && !o.isJob && o.home == j.home && o.team == j.team && o.unserved &&
    o.els.any (fun x => x.loc.touches x.n l 1))

/-- Something the job must come after still stands before this byte: an older access of its party, or an earlier job of it
that writes the byte (R178). A copy's read of device memory goes behind the older accesses in their queues (R216). -/
def State.jobBehind (s : State) (j : Job) (at_ : Nat × Nat) (l : Loc) (write : Bool) : Bool :=
  ((write || !j.isCopy) && s.ctl.entryBehind j l) || s.ctl.jobs.any (fun q => j.earlyJobs.contains q.id && s.unlanded q at_ l)

/-- What a job reads at once comes behind what has drained into the cluster's queues before (R213, R216), and behind what its
team left in those of the cluster that it had before (R225). -/
def Ctl.clusterBusy (c : Ctl) (j : Job) (l : Loc) : Bool :=
  c.entries.any (fun o => (o.cluster == j.die * 16 + j.cluster || (o.team == j.team && decide (o.ins < j.id))) &&
    (o.stage == .port || o.stage == .link || o.stage == .sync) && o.els.any (fun x => x.loc.touches x.n l 1))

/-- What reaching one byte ends in. -/
inductive ByteAt where
  | at_ (l : Loc)
  | selv (a : Nat)
  | wait
  | err (cause sub : Nat)
deriving DecidableEq, Repr, Inhabited

/-- Reach one byte of a job (R127, R178, R188, R236, R258, R261); table: a byte of an index table. The seal of what a copy
reads is checked where it is read. -/
def jobReach (j : Job) (sp a : Nat) (write table : Bool) : M ByteAt := do
  let s ← getS
  let c := s.ctl
  let t := c.team j.team
  if sp = 0 then
    let blocked : Option ByteAt ← (if write then
        pure (if (c.refusedWrites t s [(0, a)]).isEmpty then none else some (.err 10 0x50))
      else do
        match c.touches t [a] with
        | [] => return none
        | (r, b) :: _ =>
          match ← touchBlock j.rctx (.job j.id) 1 j.depth r b with
          | .full => return none
          | .waits | .hold => return some .wait
          | .failed k sub => do
            dropWaiter (.job j.id)
            return some (.err k sub))
    match blocked with
    | some x => return x
    | none =>
      match ← translate j.eng j.rctx a j.user { rd := !write, wr := write, x := false } with
      | .fault k b => return .err k b
      | .wait => return .wait
      | .ok l =>
        if s.jobBehind j (sp, a) l write then return .wait
        else if j.isCopy && !write then return .at_ l
        else if !write && c.clusterBusy j l then return .wait
        else if l.sp != .dm then
          match s.farFault j.die j.rctx a j.user { rd := !write, wr := write, x := false } l with
          | .fault k b => return .err k b
          | .wait => return .wait
          | .ok l => return .at_ l
        else if c.placeStalled j.die l then return .wait
        else
          match ← sealAccess j.kslot l.key write with
          | .wait => return .wait
          | .fail b => return .err 11 (match j.kind with
              | .epi .. => if b = 0 then 5 else b
              | _ => b)
          | .ok => return .at_ l
  else
    match classify (c.withFreed (j.checkedAt write table)) t sp a 1 with
    | .out b => return .err 10 b
    | .selv => return .selv a
    | .data l =>
      let line := tmLine l
      let others := c.jobs.filter (fun q => q.id != j.id && (!write || decide (q.seq < j.seq)))
      if s.jobBehind j (sp, a) l write || (l.sp == .tm && others.any (fun q => q.fills j.team line)) || (write && c.pinned l) then
        return .wait
      else if write && (c.boundByte l 1 || c.ringHeader l 1) then return .err 0x1C 0x13
      else return .at_ l

/-- Change a job. -/
def modJob (id : Nat) (f : Job → Job) : M Unit :=
  modC (fun c => { c with jobs := c.jobs.map (fun j => if j.id == id then f j else j) })

/-- A job's selvage hit is recorded once, charged to its lane (R128). -/
def jobHit (j : Job) (sp a : Nat) : M Unit := do
  let c ← getC
  match c.jobs.find? (fun q => q.id == j.id) with
  | some q =>
    if q.guard then pure ()
    else do
      modJob j.id (fun q => { q with guard := true })
      recordHit j.team j.who j.lane (hitWord sp a) true
  | none => pure ()

/-- Reach a list of bytes: an error or a wait of one of them stands for all. -/
def jobReachAll (j : Job) (write table : Bool) : List (Nat × Nat) → M (Except (Option (Nat × Nat × Nat)) (List ByteAt))
  | [] => pure (.ok [])
  | (sp, a) :: r => do
    match ← jobReach j sp a write table with
    | .err k b => return .error (some (k, b, a))
    | .wait => return .error none
    | x => do
      match ← jobReachAll j write table r with
      | .error e => return .error e
      | .ok xs => return .ok (x :: xs)

/-- The job ends in error: its outstanding bytes are abandoned (R188). A refusal of a host page has then been taken (R238). -/
def failJob (id cause sub a : Nat) : M Unit := do
  modJob id (fun j => { j with err := some (cause, sub, wd a) })
  modC (fun c =>
    match c.jobs.find? (fun j => j.id == id && cause == 9 && sub == 4) with
    | some j => c.forgetRefused j.rctx [a]
    | none => c)

/-- A job leaves its engine; what it has still to read is read no more. -/
def endJob (id : Nat) : M Unit := do
  dropWaiter (.job id)
  modC (fun c => { c with
    jobs := c.jobs.filter (fun j => j.id != id)
    entries := c.entries.filter (fun e => e.act != .jread id) })

/-- A job whose last byte has landed ends: its latency is recorded, then its counter is counted (R179, R401). -/
def finishJob (id : Nat) : M Unit := do
  let c ← getC
  match c.jobs.find? (fun j => j.id == id) with
  | none => pure ()
  | some j =>
    let ready := j.accepted && j.err.isNone && j.done == j.size &&
      (match j.kind with
       | .cpz clen => (j.decoded clen).2 == .fin
       | _ => true)
    if ready then do
      recordMon j.die (some j.rctx) 1 (c.cyc - j.acceptedAt)
      endJob id
      match j.compl with
      | .counter k => countCounter k
      | _ => pure ()
    else pure ()

/-- Landed bytes are counted into a job's barrier (R179); an unbound one ends the job (ENGINE 0x14). -/
def countJob (j : Job) (n : Nat) : M Unit := do
  match j.compl with
  | .barrier l off => do
    let c ← getC
    if (c.barAt l).isSome && !c.jobs.any (fun q => q.id == j.id && q.lost) then countInto l 0 n j.team j.who.idx
    else failJob j.id 0x1C 0x14 off
  | _ => pure ()

/-- Whether a range of indexes overlaps one of a list. -/
def anyOverlap (i n : Nat) (l : List (Nat × Nat)) : Bool := l.any (fun r => overlap i n r.1 r.2)

/-- The first misaligned pattern element of byte range [i, i+n) (R184). -/
def Job.badElem (j : Job) (r : Spat) (i n : Nat) : Option Nat :=
  ((List.range n).filterMap (fun d => if i + d < j.size then j.patternAt r (i + d) else none)).findSome?
    (fun x => if x.2.2 % min r.es 16 != 0 then some x.2.2 else none)

/-- A pattern element of the range is misaligned: the job ends (ENGINE 0x15). -/
def Job.misElem (j : Job) (write : Bool) (i n : Nat) : Option Nat :=
  match j.kind with
  | .spat sc r => if sc == write then j.badElem r i n else none
  | _ => none

/-- A read of the job is on its way for one of n bytes from index i. -/
def Ctl.reading (c : Ctl) (job i n : Nat) : Bool :=
  c.entries.any (fun e => e.act == .jread job && e.els.any (fun x => decide (i ≤ x.lane) && decide (x.lane < i + n)))

/-- A copy's reads of device memory enter its cluster's port queues, or the serial queue of the line (R208, R212, R216). -/
def sendReads (j : Job) (xs : List (Nat × Loc × Nat)) : M Unit := do
  let c ← getC
  let e : Entry := {
    id := c.nextId, ins := c.nextId, team := j.team, who := j.who, pid := j.pid, home := j.home,
    cluster := j.die * 16 + j.cluster, stage := .pend, act := .jread j.id, acq := false, rel := false, scope := 0,
    els := xs.map (fun x => { lane := x.1, loc := x.2.1, n := 1, vs := 0, va := x.2.2, data := 0, data2 := 0, sink := .none }),
    since := 0, fence := 0, cnt := none, poisoned := false, kslot := j.kslot, user := j.user, party := 3, flags := false, hl := none,
    born := c.cyc }
  onlyIf (!xs.isEmpty) (sendParts e e.parts)

/-- A job reads n source bytes from index i (R178): scratchpad bytes at once, a copy's device bytes through the queues. -/
def jobRead (j : Job) (i n : Nat) : M Unit := do
  let as := (List.range n).map (fun d => j.srcAt (i + d))
  let c ← getC
  if n = 0 ∨ j.srcLen < i + n ∨ anyOverlap i n (j.got.map (fun g => (g.1, g.2.length))) ∨ c.reading j.id i n ∨
      (i < j.size ∧ j.size < i + n) ∨
      as.contains none then pure ()
  else
    match j.misElem false i n with
    | some p => failJob j.id 0x1C 0x15 p
    | none =>
      match ← jobReachAll j false (decide (j.size ≤ i)) (as.filterMap id) with
      | .error (some (k, b, a)) => failJob j.id k b a
      | .error none => pure ()
      | .ok xs => do
        let s ← getS
        let ys := (((List.range n).map (fun d => i + d)).zip xs).zip (as.filterMap id)
        let now := ys.filterMap (fun y => match y.1.2 with
          | .at_ l => if l.sp == .tm || l.sp == .dp then some (y.1.1, [(s.mem l.sp).get l.key]) else none
          | _ => some (y.1.1, [(0 : Byte)]))
        forEach ys (fun y => match y.1.2 with
          | .selv a => jobHit j y.2.1 a
          | _ => pure ())
        modJob j.id (fun q => { q with got := q.got ++ now })
        sendReads j (ys.filterMap (fun y => match y.1.2 with
          | .at_ l => if l.sp == .tm || l.sp == .dp then none else some (y.1.1, l, y.2.2)
          | _ => none))
        finishJob j.id

/-- Whether a later byte of a scatter, already landed, stands at the same place (R184). -/
def Job.shadowed (j : Job) (k : Nat) : Bool :=
  match j.kind with
  | .spat true _ => (List.range (j.size - k - 1)).any (fun d => j.landedAt (k + 1 + d) && j.dstAt (k + 1 + d) == j.dstAt k)
  | _ => false

/-- A job lands n destination bytes from index i (R178, R179). -/
def jobLand (j : Job) (i n : Nat) : M Unit := do
  let ds := (List.range n).map (fun d => j.dataAt (i + d))
  let as := (List.range n).map (fun d => j.dstAt (i + d))
  if n = 0 ∨ j.size < i + n ∨ anyOverlap i n j.landed ∨ ds.contains none ∨ as.contains none then pure ()
  else
    match j.misElem true i n with
    | some p => failJob j.id 0x1C 0x15 p
    | none =>
      match ← jobReachAll j true false (as.filterMap id) with
      | .error (some (k, b, a)) => failJob j.id k b a
      | .error none => pure ()
      | .ok xs => do
        forEach ((xs.zip ds).zip (List.range n)) (fun q =>
          match q.1.1, q.1.2 with
          | .at_ l, some b => onlyIf (!j.shadowed (i + q.2)) (do
              storeBytes l [b]
              modC (fun c => c.dropOpAt l 1))
          | .selv a, _ => jobHit j (((j.dstAt i).map (·.1)).getD 1) a
          | _, _ => pure ())
        modJob j.id (fun q => { q with landed := q.landed ++ [(i, n)] })
        countJob j n
        finishJob j.id

end Sys2Proof.Machine
end

