-- ==== Sys2Proof/Machine/Ordering.lean ====
section
/-! DEFINITION. The moves of the ordering machine (R211 to R215) and the fences, major 0x18 (R227 to R230). -/

namespace Sys2Proof.Machine

/-- A fence of the path (R228); in helper code, of each executing helper's own queue (R230). -/
def Env.appendFence (e : Env) (ord scope : Nat) (range : Option Range1) : M Unit := do
  let ins ← freshId
  e.append (fun x => { x with scope := scope }) (.fence (ord % 2 == 1) (decide (2 ≤ ord)) range) ins []

/-- A release of the path with what follows its leaving. -/
def Env.appendFin (e : Env) (rel : Bool) (scope : Nat) (f : Fin) : M Unit := do
  let id ← freshId
  appendEntry { e.entry id id (.fin f) [] with rel := rel, scope := scope }

/-- `fence` (R228). -/
def execFence (f : Fields) (s : State) : Host.Outcome State Fault Refusal :=
  issue (.fence f) f (fun e => do
    e.appendFence (mfld f 5 4) (mfld f 3 1) none
    return .done) s

/-- `fencer` (R228). -/
def execFencer (f : Fields) (s : State) : Host.Outcome State Fault Refusal :=
  issue (.fencer f) f (fun e => do
    let sp := scfld f 1 0
    let lo := wrapSp sp (e.usrc f.sa.toNat).toNat
    let n := (e.usrc f.sb.toNat).toNat
    if n = 0 then return .done
    else if (if sp = 0 then 2 ^ 64 else 2 ^ 32) < lo + n then return .trap (mkTrap 10 0x31 e.ex)
    else do
      let a := fenceAddr e.t sp lo
      e.appendFence (mfld f 5 4) (mfld f 3 1) (some { space := a.1, lo := a.2, len := n })
      return .done) s

/-- `trig` (R229): a release at `.dev`. -/
def execTrig (f : Fields) (s : State) : Host.Outcome State Fault Refusal :=
  issue (.trig f) f (fun e => do
    e.appendFin true 4 .trig
    return .done) s

/-- An access made before a number was given out, through a translation of this range, or of the whole context (len 0), has not
reached its point of coherence, or the host link (R241). -/
def Ctl.inFlight (c : Ctl) (before rctx va len : Nat) : Bool :=
  c.entries.any (fun e => e.unserved && e.stage != .link && decide (e.ins < before) && (c.team e.team).rctx == rctx &&
    e.els.any (fun x => x.vs == 0 && (len == 0 || overlap x.va x.n va len)))

/-- Every translation cache drops what overlaps the range (R241). -/
def Ctl.dropTlbs (c : Ctl) (rctx va len : Nat) : Ctl :=
  { c with
    tlbs := c.tlbs.filter (fun t => !(t.rctx == rctx && (len == 0 || overlap t.va (2 ^ t.log) va len)))
    atc := c.atc.filter (fun t => !(t.rctx == rctx && (len == 0 || overlap t.va (2 ^ t.log) va len))) }

/-- An older store of the path to a scratchpad has not been served (R314). -/
def Ctl.olderScratch (c : Ctl) (e : Entry) : Bool :=
  c.entries.any (fun o => o.before e && o.stage == .pend && o.writes &&
    o.els.any (fun x => x.loc.sp == .tm || x.loc.sp == .dp))

/-- A write of the team, issued earlier, has not been served: what the end of a fill covers (R220, R267). -/
def Ctl.teamWrites (c : Ctl) (e : Entry) : Bool :=
  c.entries.any (fun o => o.team == e.team && decide (o.ins < e.ins) && o.writes && o.unserved)

/-- What must hold before an entry of a release kind leaves, beside R212. -/
def Ctl.finReady (c : Ctl) (e : Entry) : Fin → Bool
  | .dropOperands => !c.olderScratch e
  | .shootdown va len => !c.inFlight e.ins (c.team e.team).rctx va len
  | .fillEnd full _ => !full || !c.teamWrites e
  | _ => true

/-- The fill state of the block that a team generates can be changed now (R224, R250). -/
def fillLineReady (t : Team) : M Bool := do
  match t.origin with
  | .fill _ _ range block _ =>
    match (← getC).range t.rctx range with
    | some r => return (← fillAccess t.rctx r block true) != .wait
    | none => return true
  | _ => return true

/-- What follows when an entry of a release kind leaves. -/
def doFin (e : Entry) : Fin → M Unit
  | .nothing => pure ()
  | .trig => modGroup e.team e.who (fun g => { g with triggered := true })
  | .launch r => enqueueRec r
  | .fillEnd full reason => do
    let c ← getC
    endTeamFill (c.team e.team) (if full then none else some (fillFailure reason))
  | .tbset i => do
    let c ← getC
    modC (fun d => d.updCtx (c.team e.team).rctx (fun x =>
      if (c.recOf (c.team e.team)).any (fun r => x.reservedBy i r.id) then x.setTb i 1 else x))
    retest
  | .dropOperands => do
    let id ← freshId
    modGroup e.team e.who (fun g => { g with opFence := id + 1 })
  | .shootdown _ _ => pure ()
  | .send m => modC (fun c => { c with
      msgs := c.msgs.filter (fun x => x.id != m) ++
        (c.msgs.filter (fun x => x.id == m)).map (fun x => { x with sent := true }) })

/-- A scratchpad entry is served at its bank (R131, R212). -/
def serveBank (e : Entry) : M Unit := do
  let s ← getS
  match e.act with
  | .read => forEach e.els (fun x => landSink e.team x.sink (wd (s.load x.loc x.n)))
  | .write => forEach e.els (fun x => do
      keepOld x.loc x.n
      storeN x.loc x.data.toNat x.n)
  | .atom op t => forEach e.els (fun x => do
      keepOld x.loc x.n
      let r ← serveAtom op t x
      landSink e.team x.sink (wd r.1)
      onlyIf e.flags (orGst e.team e.home r.2))
  | _ => pure ()

/-- An entry takes its bytes from an older write of its queue and leaves (R211): a device read still has its reply. -/
def serveForward (e : Entry) (vs : List (Elem × Nat)) : M Unit := do
  dropEntry e.id
  forEach vs (fun x =>
    if x.1.loc.sp == .tm || x.1.loc.sp == .dp then landSink e.team x.1.sink (wd x.2)
    else sendReplies e (if e.cnt.isSome then .gather else .load) [(x.1, x.2, 0)] none)

/-- A store waits while its line is pinned (R127). -/
def Ctl.pinnedAt (c : Ctl) (e : Entry) : Bool := e.writes && e.els.any (fun x => c.pinned x.loc)

/-- An entry that nothing bars leaves its pending queue (R212). -/
def drainEntry (e : Entry) : M Unit := do
  let c ← getC
  match e.act with
  | .fence _ _ _ => dropEntry e.id
  | .bar (.count da db) => do
    dropEntry e.id
    onlyIf (c.barAt e.line).isSome (countInto e.line da db e.team e.home)
  | .fin f =>
    let ready ← (match f with
      | .fillEnd _ _ => fillLineReady (c.team e.team)
      | _ => pure true)
    if c.finReady e f && ready then do
      dropEntry e.id
      doFin e f
    else pure ()
  | .cjoin | .join | .read | .write | .atom _ _ | .jread _ =>
    if e.scratch then
      if c.pinnedAt e then pure ()
      else do
        dropEntry e.id
        serveBank e
    else do
      dropEntry e.id
      sendParts e e.parts

/-- The entries that make one unbroken run (R195): an entry itself, and where it is a helper's part of an atomic, the other
helpers' parts for its line that stand where it stands. -/
def Ctl.runOf (c : Ctl) (e : Entry) : List Entry :=
  if e.isAtom && e.hl.isSome then
    c.entries.filter (fun o => o.isAtom && o.ins == e.ins && o.team == e.team && o.stage == e.stage && o.shareLine e)
  else [e]

/-- An entry leaves its pending queue (DRAIN; R211, R212); the helpers' parts of one atomic on one line leave together. -/
def execDrain (id : Nat) (s : State) : Host.Outcome State Fault Refusal :=
  event (do
    let c ← getC
    match c.entries.find? (fun x => x.id == id && x.stage == .pend) with
    | none => pure ()
    | some e => do
      match c.forwards e with
      | some vs => serveForward e vs
      | none =>
        let all := c.runOf e
        if all.any c.barred then pure () else forEach all drainEntry
      tryTrigger e.team false) s

/-- The head of a port queue: of all entries of a cluster for a destination, the first (R208); the host link is one for the
device (R213). -/
def Ctl.portHead (c : Ctl) (cluster dest : Nat) : Option Entry :=
  c.entries.find? (fun e =>
    (e.stage == .port || e.stage == .link) && (dest == 17 || e.cluster == cluster) && e.dest == dest)

/-- Queued writes that a read must wait for: some touch it and the youngest of those does not cover it (R169). -/
def Ctl.partialWrite (c : Ctl) (e : Entry) : Bool :=
  (e.reads || e.isJob) && e.els.any (fun x =>
    match (c.entries.filter (fun o => o.stage == .wq && o.els.any (fun y => y.loc.touches y.n x.loc x.n))).getLast? with
    | none => false
    | some o => !o.els.any (fun y => y.loc.sp == x.loc.sp && covers y.loc.key y.n x.loc.key x.n))

/-- The reply kind of a device read: a gather, or a load whose destination is scoreboarded (R175, R115). -/
def Entry.replyKind (e : Entry) : ReplyKind := if e.cnt.isSome then .gather else if e.isAtom then .atomic else .load

/-- An access is served at its point of coherence: a stack's cache (whose write queue keeps a write, R169), a
synchronisation engine, the host, another device. -/
def servePoint (e : Entry) (keep : Bool) : M Unit := do
  let s ← getS
  let l := e.line
  match e.act with
  | .read => do
    dropEntry e.id
    sendReplies e e.replyKind (e.els.map (fun x => (x, s.load x.loc x.n, 0))) none
  | .jread job => do
    dropEntry e.id
    modJob job (fun j => { j with got := j.got ++ e.els.map (fun x => (x.lane, [(s.mem x.loc.sp).get x.loc.key])) })
    finishJob job
  | .write => do
    forEach e.els (fun x => storeN x.loc x.data.toNat x.n)
    if keep then stageEntry e .wq else dropEntry e.id
  | .atom op t => serveAtomic e op t
  | .cjoin => do
    let r := cjoinStep (s.cnt l.key) ((e.els.head?.map (·.data.toNat)).getD 0)
    storeN l r.1 4
    dropEntry e.id
    sendReplies e .atomic (e.els.map (fun v => (v, r.2, 0))) none
  | .join => do
    storeN l (s.cnt l.key - 1) 4
    dropEntry e.id
  | _ => dropEntry e.id

/-- A fault met at the point of coherence (R188): of a job's read, it ends the job. -/
def pointFault (e : Entry) (cause sub : Nat) : M Unit :=
  match e.act with
  | .jread job => failJob job cause sub ((e.els.head?.map (·.va)).getD 0)
  | _ => onlyIf (e.party != 0) (entryFault e e.replyKind cause sub)

/-- The number under which an access was issued: a copy's read goes by its job's. -/
def Entry.issued (e : Entry) : Nat :=
  match e.act with
  | .jread job => job
  | _ => e.ins

/-- Something must be served before an entry that has drained (R195, R225): an older access of its group to its line, where
one of the two is an atomic, and of its team, where they travel from different clusters; before an entry of a synchronisation
engine, what stands before it in the engine's serial queue, and what drained before it to a port queue of its cluster or lies
in the write queue of the line. -/
def Ctl.lineWaits (c : Ctl) (e : Entry) : Bool :=
  c.entries.any (fun o => !o.isJob && decide (o.ins < e.issued) && o.shareLine e && (o.stage == .port || o.stage == .sync) &&
    ((!e.isJob && o.ofGroup e && (o.isAtom || e.isAtom)) || (o.team == e.team && o.cluster != e.cluster))) ||
  (e.stage == .sync &&
    ((c.entries.takeWhile (fun o => o.id != e.id)).any (fun o => o.shareLine e &&
      (o.stage == .sync || (o.stage == .port && o.cluster == e.cluster))) ||
     c.entries.any (fun o => o.stage == .wq && o.shareLine e)))

/-- Lines that a die's synchronisation engine can hold (R192): its SRAM less the fixed shares of the waiter records and, on
die 0, of the step counters, and less the records of the die's barrier words. -/
def Ctl.varRoom (c : Ctl) (die : Nat) : Nat :=
  65536 - 1024 - (if die = 0 then 32 else 0) - (c.bars.filter (fun b => b.loc.sp == .dp && b.loc.key / 2 ^ 27 == die)).length

/-- An engine has served an entry for a line (R192): it holds the line, and gives up those served least recently that its SRAM
no longer has room for. -/
def Ctl.holdLine (c : Ctl) (rctx line : Nat) : Ctl :=
  let die := syncDie (line * 64)
  let here := (c.vars.filter (fun v => v.1 != line && syncDie (v.1 * 64) == die)) ++ [(line, rctx)]
  { c with vars := c.vars.filter (fun v => syncDie (v.1 * 64) != die) ++ here.drop (here.length - c.varRoom die) }

/-- A request is served by a stack's memory-side cache, or by the synchronisation engine that holds its line: its seal is
checked first (R168, R195, R203, R213, R251). A request whose tile fails changes nothing. -/
def serveDevice (e : Entry) (dest : Nat) : M Unit := do
  let c ← getC
  let l := e.line
  if c.lineWaits e || c.partialWrite e || c.stalled (e.cluster / 16) dest || (e.isJob && c.stalled dest (e.cluster / 16)) then
    pure ()
  else do
    match ← sealAccess e.kslot l.key (e.writes || e.act == .join) with
    | .wait => pure ()
    | .fail b => do
      dropEntry e.id
      pointFault e 11 b
    | .ok => do
      servePoint e (e.stage == .port)
      onlyIf (e.stage == .sync) (modC (fun c => c.holdLine (c.team e.team).rctx (l.key / 64)))
    retest

/-- A request at the head of a synchronisation engine's queue is served (ATOMIC_SERVE; R195, R203). -/
def execAtomicServe (id : Nat) (s : State) : Host.Outcome State Fault Refusal :=
  event (do
    let c ← getC
    match c.entries.find? (fun x => x.id == id && x.stage == .sync) with
    | none => pure ()
    | some x => do
      forEach (c.runOf x) (fun y => serveDevice y (syncDie y.line.key))
      tryTrigger x.team false) s

/-- The fault that another device returns for an access (R236): of a page whose leaf says so, what its permissions refuse; by
the tables as they stand (assumption 21). -/
def State.remoteFault (s : State) (e : Entry) : Option (Nat × Nat) :=
  let need : Need := { rd := e.reads || e.isJob, wr := e.writes, x := false }
  if e.isJob then none
  else e.els.findSome? (fun x =>
    match s.walk (s.ctl.ctx (s.ctl.team e.team).rctx).root x.va with
    | .leaf v _ _ => if entBit v 62 then permFault v e.user need else none
    | .fault _ _ => none)

/-- The head of a port queue leaves for another device: an address that cannot be reached, or that its permissions refuse,
faults with the reply (R236, R398). -/
def serveRemote (e : Entry) : M Unit := do
  let c ← getC
  let l := e.line
  let dev := l.key / 2 ^ 42
  if c.lineWaits e || c.fabricStalled (e.cluster / 16) dev then pure ()
  else if (c.fabricDie dev).isNone || !offOk (l.key % 2 ^ 42) then do
    dropEntry e.id
    pointFault e 10 0x30
  else
    match (← getS).remoteFault e with
    | some (k, b) => do
      dropEntry e.id
      pointFault e k b
    | none => servePoint e false

/-- The head of the host link reaches host memory: the device caches the line it reads or writes; an atomic goes to the
host, and the device gives the line up (R202, R389). -/
def serveHost (e : Entry) : M Unit := do
  let c ← getC
  if c.lineWaits e then pure ()
  else do
    let line := e.line.key / 64
    modHost (fun h => { h with hostLines := (if e.isAtom then [] else [line]) ++ h.hostLines.filter (· != line) })
    servePoint e false

/-- An access of a party reaches the host link behind every earlier host-memory write of it, from whichever cluster (R213). -/
def Ctl.linkWaits (c : Ctl) (e : Entry) : Bool :=
  c.entries.any (fun o => !o.isJob && o.writes && o.stage == .port && o.line.sp == .hm && o.team == e.team &&
    o.cluster != e.cluster && decide (o.ins < e.issued))

/-- A queue passes an entry on. -/
def portServe (dest : Nat) (e : Entry) : M Unit := do
  let c ← getC
  if dest = 16 then (if c.linkWaits e then pure () else stageEntry e .link)
  else if dest = 17 then serveHost e
  else if 32 ≤ dest then serveRemote e
  else serveDevice e (dest / 2)

/-- A queue passes its head on (PORT_SERVE; R212, R213): a request for host memory first goes onto the host link. -/
def execPortServe (cluster dest : Nat) (s : State) : Host.Outcome State Fault Refusal :=
  event (do
    let c ← getC
    match c.portHead cluster dest with
    | none => pure ()
    | some e => do
      forEach (c.runOf e) (portServe dest)
      tryTrigger e.team false) s

/-- A stack's oldest queued write goes into its cache (WRITE_QUEUE_DRAIN; R169). -/
def execWriteQueueDrain (stk : Nat) (s : State) : Host.Outcome State Fault Refusal :=
  event (do
    let c ← getC
    match c.entries.find? (fun e => e.stage == .wq && e.dest == stk) with
    | none => pure ()
    | some e => dropEntry e.id) s

/-- The result of a scoreboarded load lands (LOAD_REPLY_LAND; R115). -/
def execLoadReplyLand (id : Nat) (s : State) : Host.Outcome State Fault Refusal :=
  event (do
    let c ← getC
    match c.replies.find? (fun r => r.id == id && r.kind == .load && !c.replyStalled r) with
    | none => pure ()
    | some r => do
      takeReply id
      match r.fault with
      | some (k, b) => recordFault r.team r.home r.lane k b 1 (wd r.addr)
      | none => landSink r.team r.sink r.data) s

end Sys2Proof.Machine
end

