-- ==== Sys2Proof/Machine/Helpers.lean ====
section
/-! DEFINITION. Helper lanes, major 0x1C, and their release (R273 to R284). -/

namespace Sys2Proof.Machine

/-- A lane of a group hosts a helper. -/
def Ctl.hosts (c : Ctl) (uid g lane : Nat) : Bool :=
  c.recruits.any (fun x => x.team == uid && x.lanes.any (fun h => h.group == g && h.lane == lane))

/-- PMASK of a group's spilled reconvergence records, as far as they can be read. -/
def State.spilledPmask (s : State) (t : Team) (g : Group) : Word :=
  let spl := s.csrOf t.uid g.who.idx 5
  (List.range g.spilled.length).foldl (fun m i =>
    if g.spilled.getD i .ras == .ras then m
    else
      match s.dmAt t.rctx (recAddr spl i) with
      | some l => m ||| wd (s.load (l.plus 0x18) 8)
      | none => m) 0

/-- The recruiter group's own lendable lanes (R273). -/
def Env.ownLendable (e : Env) : List Nat :=
  let busy := e.g.paths.foldl (fun m p => m ||| p.act) 0 ||| e.g.recon.foldl (fun m t => m ||| t.pmask) 0 |||
    e.s.spilledPmask e.t e.g ||| (if e.g.inTrap then e.g.held else 0)
  (List.range e.gw).filter (fun l => !busy.getLsbD l && !e.s.ctl.hosts e.uid e.g.who.idx l)

/-- A group is in the Parked state: every live path is parked (R100). -/
def Group.isParked (g : Group) : Bool := !g.retired && !g.live.isEmpty && g.live.all (fun p => p.park.isSome)

/-- The lendable lanes of parked groups of the team in the recruiter's slot: (group, lane), in grant order (R273). -/
def Env.donorLendable (e : Env) : List (Nat × Nat) :=
  let c := e.s.ctl
  ((e.t.groups.filter (fun g => g.who != e.g.who && g.isParked && c.slotKey e.uid g.who == c.slotKey e.uid e.g.who)).map
    (fun g => ((List.range g.width).filter (fun l => !c.hosts e.uid g.who.idx l && !(g.inTrap && g.held.getLsbD l))).map (fun l => (g.who.idx, l)))).flatten

/-- Free entries of the recruiter's slot's helper bank: 128 less one for each helper but the helpers 0. -/
def Env.bankFree (e : Env) : Nat :=
  let c := e.s.ctl
  128 - ((c.recruits.filter (fun x => c.slotKey x.team (.group x.group) == c.slotKey e.uid e.g.who)).map
    (fun x => (x.lanes.filter (fun h => !(h.group == x.group && h.lane == x.lane))).length)).sum

/-- What a bank entry holds when it is granted: the manual gives no value (assumption 2). -/
def drawBank (uid g lane : Nat) : M Unit :=
  forEach (List.range 8) (fun i => do
    let x ← drawFree
    emits (updPair uid (64 + g) lane (2 * i) x))

/-- A helper path starts in a donor group (R273, R274). -/
def startDonor (x : Recruit) (g : Nat) (lanes : List Nat) : M Unit := do
  let c ← getC
  let d ← getGroup x.team (.group g)
  modGroup x.team (.group g) (fun d => { d with
    nextPid := d.nextPid + 1,
    paths := d.paths ++ [{ pid := d.nextPid, pc := advPc x.entry, act := maskOf lanes, fmt := x.fmt, chain := none,
                           lat := [], park := none, born := c.nextId, fence := c.nextId, helper := some x.id, hk := [],
                           stalled := false, age := none, prog := none }] })
  modRecruit x.id (fun y => { y with
    lanes := y.lanes ++ lanes.map (fun l => { group := g, pid := d.nextPid, lane := l, iter := none }) })
  forEach lanes (fun l => drawBank x.team g l)

/-- How many helpers a recruitment grants, and why no more (R281): the limits in the order of their reasons. -/
def Env.grant (e : Env) (want lendable : Nat) : Nat × Nat :=
  let zero := e.gst.getLsbD 8 || e.t.phase == .saving
  let n := if zero then 0 else min (min want 63) (min e.bankFree lendable)
  let reason :=
    if n = want then 0 else if e.gst.getLsbD 8 then 2 else if e.t.phase == .saving then 4
    else if n = e.bankFree then 6 else if n = lendable then 1 else 5
  (n, reason)

/-- `recruit` (R281). -/
def execRecruit (f : Fields) (s : State) : Host.Outcome State Fault Refusal :=
  issue (.recruit f) f (fun e => do
    if popc e.ex ≠ 1 then return .trap (mkTrap 10 0x60 e.ex)
    else
      let r := (lowest e.ex).getD 0
      if e.hst ≠ 0 then do
        emits (e.putLane f.dst.toNat r false 0x300)
        return .done
      else do
        let own := e.ownLendable
        let all := own.map (fun l => (e.g.who.idx, l)) ++ e.donorLendable
        let want := if f.sc = 324 then 63 else e.n32 f.sc.toNat r
        let g := e.grant want all.length
        let lo := e.n32 f.sa.toNat r
        let hi := e.n32 f.sb.toNat r
        let got := all.take g.1
        let mine := (got.filter (fun x => x.1 == e.g.who.idx)).map (·.2)
        emits (e.putLane f.dst.toNat r false (wd (g.2 * 256 + g.1)))
        let id ← freshId
        let x : Recruit := {
          id := id, team := e.uid, group := e.g.who.idx, lane := r, pid := e.p.pid, act := e.p.act, fmt := e.p.fmt,
          entry := e.target 32 f.imm32b, lo := lo, hi := hi, next := lo, returned := [], committed := [], aborted := [],
          lanes := (r :: mine).map (fun l => { group := e.g.who.idx, pid := e.p.pid, lane := l, iter := none }),
          pending := [], contribs := [], ops := [], fault := none, hk := [], suspended := false, trapped := false, freed := [] }
        modC (fun c => { c with recruits := c.recruits ++ [x] })
        modGroup e.uid e.g.who (fun g => { g with recruit := some id })
        modPath e.cur.p (fun p => { p with
          pc := advPc x.entry, act := maskOf (r :: mine), helper := some id, hk := [], born := id, fence := id })
        forEach (r :: mine) (fun l => drawBank e.uid e.g.who.idx l)
        forEach ((got.map (·.1)).dedup.filter (fun k => k != e.g.who.idx)) (fun k =>
          startDonor x k ((got.filter (fun y => y.1 == k)).map (·.2)))
        return .jump) s

/-- Run an instruction of helper code: outside it, PROT 0x61 of its lanes, if it runs on any (R8, R282). -/
def Env.helping (e : Env) (body : Recruit → M Res) : M Res :=
  match e.rec? with
  | some x => body x
  | none => pure (if e.ex = 0 then .done else .trap (mkTrap 10 0x61 e.ex))

/-- Something is still to land in these registers of the recruiter lane. -/
def Env.recruiterWaits (e : Env) (x : Recruit) (code n : Nat) : Bool :=
  e.s.ctl.scored.any (fun q => q.1 == e.uid && q.2.1 == .group x.group && q.2.2.2.2.vp == x.group &&
    overlap q.2.2.2.2.code (if q.2.2.2.2.w = 64 then 2 else 1) code n)

/-- `hget` (R281). -/
def execHget (f : Fields) (s : State) : Host.Outcome State Fault Refusal :=
  issue (.hget f) f (fun e => e.helping (fun x => do
    let d := f.mod.getLsbD 0
    if e.recruiterWaits x f.sa.toNat (if d then 2 else 1) then return .hold
    else
      let v (n : Nat) : Nat := (e.s.v.get (vKey e.uid x.group x.lane n)).toNat
      let y := wd (v f.sa.toNat + (if d then 2 ^ 32 * v (f.sa.toNat + 1) else 0))
      emits ((lanesOf e.ex e.gw).map (fun l => e.putLane f.dst.toNat l d y)).flatten
      return .push ((List.range e.gw).map (fun l => if e.ex.getLsbD l then y else 0)))) s

/-- Whether a helper lane of the path at this lane. -/
def HelperLane.at_ (h : HelperLane) (p : PathId) (lane : Nat) : Bool :=
  .group h.group == p.who && h.pid == p.pid && h.lane == lane

/-- The iteration that a lane of a path holds. -/
def Recruit.held (x : Recruit) (p : PathId) (lane : Nat) : Option Nat :=
  (x.lanes.find? (fun h => h.at_ p lane)).bind (·.iter)

/-- An iteration is committed with its contributions; the first of a slot fixes its operation and type (R277). -/
def Recruit.commit (x : Recruit) (it : Nat) : Recruit :=
  let cs := x.pending.filter (fun k => k.iter == it)
  { x with
    committed := x.committed ++ [it],
    pending := x.pending.filter (fun k => k.iter != it),
    contribs := x.contribs ++ cs,
    ops := cs.foldl (fun o k => if o.any (fun y => y.1 == k.slot) then o else o ++ [(k.slot, k.op, k.t)]) x.ops,
    lanes := x.lanes.map (fun h => if h.iter == some it then { h with iter := none } else h) }

/-- Commit what these lanes of a path hold. -/
def Recruit.commitLanes (x : Recruit) (p : PathId) (ls : List Nat) : Recruit :=
  (ls.filterMap (x.held p)).foldl Recruit.commit x

/-- The lowest iteration that is not yet combined (R276). -/
def Recruit.lowest (x : Recruit) : Nat :=
  let held := x.lanes.filterMap (·.iter)
  (held ++ x.returned).foldl min x.next

/-- One claim (R276): the lowest returned iteration, else the lowest unclaimed one: the iteration, if there is one, and
whether it lies inside the window. -/
def Recruit.claim (x : Recruit) : Recruit × Option Nat × Bool :=
  match x.returned with
  | a :: r =>
    let m := r.foldl min a
    ({ x with returned := x.returned.filter (fun i => i != m) }, some m, true)
  | [] =>
    if x.hi ≤ x.next then (x, none, true)
    else ({ x with next := x.next + 1 }, some x.next, decide (x.next ≤ x.lowest + 256))

/-- Claims of several lanes, ascending: the lanes' iterations, and whether all lie inside the window. -/
def Recruit.claims (x : Recruit) (p : PathId) : List Nat → Recruit × List (Nat × Option Nat) × Bool
  | [] => (x, [], true)
  | l :: r =>
    let c := x.claim
    let y : Recruit := { c.1 with lanes := c.1.lanes.map (fun (h : HelperLane) => if h.at_ p l then { h with iter := c.2.1 } else h) }
    let rest := y.claims p r
    (rest.1, (l, c.2.1) :: rest.2.1, c.2.2 && rest.2.2)

/-- Some entry of these helper lanes has still to leave its pending queue (R219). -/
def Ctl.helperBusy (c : Ctl) (uid : Nat) (hs : List HelperLane) : Bool :=
  c.entries.any (fun o => o.stage == .pend && o.team == uid &&
    hs.any (fun h => o.who == .group h.group && h.pid == o.pid && o.hl == some h.lane))

/-- `hnext` (R281); an iteration that was taken back is handed out once the queue of the helper that held it has drained
(R219). -/
def execHnext (f : Fields) (s : State) : Host.Outcome State Fault Refusal :=
  issue (.hnext f) f (fun e => e.helping (fun x => do
    let ls := lanesOf e.ex e.gw
    let y := x.commitLanes e.cur.p ls
    let c := y.claims e.cur.p ls
    let again (h : HelperLane) : Bool := c.2.1.any (fun v => v.2.isSome && v.2 == h.iter)
    if c.2.2 && !(← getC).helperBusy e.uid (y.freed.filter again) then do
      modRecruit x.id (fun _ => { c.1 with freed := c.1.freed.filter (fun h => !again h) })
      emits (c.2.1.map (fun v => e.putLane f.dst.toNat v.1 false (wd (v.2.getD (2 ^ 32 - 1))))).flatten
      return .done
    else do
      modRecruit x.id (fun _ => y)
      return .await)) s

/-- The operation of a reduction slot. -/
def redOp (n : Nat) : AtOp :=
  if n = 0 then .add else if n = 1 then .min else if n = 2 then .max else if n = 3 then .and else if n = 4 then .or
  else if n = 5 then .xor else if n = 6 then .fadd else if n = 7 then .fmin else .fmax

/-- Combining two contributions: the value and its flags (R277). -/
def redStep (op t a b : Nat) : Nat × Nat :=
  (redOp op).apply (if t = 0 then 2 else if t = 1 then 6 else 8) a b 0

/-- A lane's contribution is added to its iteration's (R277). -/
def Recruit.contribute (x : Recruit) (it slot op t v : Nat) : Recruit :=
  if x.pending.any (fun k => k.iter == it && k.slot == slot) then
    { x with pending := x.pending.map (fun k =>
        if k.iter == it && k.slot == slot then
          let r := redStep op t k.val.toNat v
          { k with val := BitVec.ofNat 32 r.1, flags := k.flags ||| r.2 }
        else k) }
  else { x with pending := x.pending ++ [{ iter := it, slot := slot, op := op, t := t, val := BitVec.ofNat 32 v, flags := 0 }] }

/-- The operation and type that a lane's contribution to a slot must have: those of the slot, else those of its
iteration's earlier contribution. -/
def Recruit.opOf (x : Recruit) (it slot : Nat) : Option (Nat × Nat) :=
  match x.ops.find? (fun o => o.1 == slot) with
  | some o => some o.2
  | none => (x.pending.find? (fun k => k.iter == it && k.slot == slot)).map (fun k => (k.op, k.t))

/-- `hred` (R281). -/
def execHred (f : Fields) (s : State) : Host.Outcome State Fault Refusal :=
  issue (.hred f) f (fun e => e.helping (fun x => do
    let op := mfld f 5 2
    let t := mfld f 1 0
    let slot := scfld f 1 0
    let ls := lanesOf e.ex e.gw
    let bad := ls.filter (fun l =>
      match x.held e.cur.p l with
      | none => true
      | some it => (match x.opOf it slot with
          | some o => o != (op, t)
          | none => false))
    match bad with
    | b :: r => return .trap (mkTrap 10 0x64 (maskOf (b :: r)))
    | [] => do
      modRecruit x.id (fun y => ls.foldl (fun y l => y.contribute ((x.held e.cur.p l).getD 0) slot op t
        (e.n32 f.sa.toNat l)) y)
      return .done)) s

/-- Helper lanes of a path quit: they commit and are released without return; a path of a donor group whose last lane
quits ends (R281). -/
def Env.quit (e : Env) (x : Recruit) (ls : List Nat) : M Unit := do
  modRecruit x.id (fun y =>
    let z := y.commitLanes e.cur.p ls
    { z with lanes := z.lanes.filter (fun h => !ls.any (fun l => h.at_ e.cur.p l)) })
  let left := e.p.act &&& ~~~(maskOf ls)
  if left = 0 then endPath e.uid e.g.who e.p.pid
  else modPath e.cur.p (fun p => { p with act := left })

/-- Helper 0's lane is on this path. -/
def Env.hasHelper0 (e : Env) (x : Recruit) : Bool := x.group == e.g.who.idx && x.pid == e.p.pid

/-- `hquit` (R281, R282). -/
def execHquit (f : Fields) (s : State) : Host.Outcome State Fault Refusal :=
  issue (.hquit f) f (fun e => e.helping (fun x => do
    if e.hasHelper0 x && e.ex.getLsbD x.lane then return .trap (mkTrap 10 0x62 (wd (2 ^ x.lane)))
    else do
      e.quit x (lanesOf e.ex e.gw)
      return .done)) s

/-- The result of a slot (R277): contributions combined in ascending iteration order, with their flags; 0 without one.
None where its contributions do not agree on an operation and type. -/
def Recruit.result (x : Recruit) (slot : Nat) : Option (BitVec 32 × Nat) :=
  match sortBy (fun a b => decide (a.iter < b.iter)) (x.contribs.filter (fun k => k.slot == slot)) with
  | [] => some (0, 0)
  | k :: r =>
    if r.any (fun y => y.op != k.op || y.t != k.t) then none
    else
      let z := r.foldl (fun (a : Nat × Nat) y =>
        let q := redStep k.op k.t a.1 y.val.toNat
        (q.1, a.2 ||| q.2 ||| y.flags)) (k.val.toNat, k.flags)
      some (BitVec.ofNat 32 z.1, z.2)

/-- A recruitment ends: its results go to the recruiter's registers, the path leaves helper mode, and the recruiter's
later entries come after every helper entry (R219, R281). -/
def Env.endRecruit (e : Env) (x : Recruit) (dst m : Nat) : M Unit := do
  forEach (List.range m) (fun j => do
    let r ← (match x.result j with
      | some r => pure r
      | none => do
        let y ← drawFree
        pure (y.setWidth 32, 0))
    emit (updV e.uid x.group x.lane (dst + j) r.1.toNat))
  orGst e.uid x.group (orFlags ((List.range 4).map (fun j => ((x.result j).getD (0, 0)).2)))
  modC (fun c => { c with recruits := c.recruits.filter (fun y => y.id != x.id) })
  modGroup e.uid e.g.who (fun g => { g with recruit := none })
  let id ← freshId
  modPath e.cur.p (fun p => { p with act := x.act, fmt := x.fmt, helper := none, hk := [], born := id, fence := id })

/-- HELPER at `hjoin`, for the kept fault (R283). -/
def helperFaultTrap (lane : Nat) (k : Nat × Nat × Nat × Word) : TrapReq :=
  { mkTrap 0x12 k.2.1 (wd (2 ^ lane)) with
    addrs := [(lane, k.2.2.2)], aux0 := wd k.1, aux1 := wd k.2.2.1 }

/-- `hjoin` (R281 to R283). -/
def execHjoin (f : Fields) (s : State) : Host.Outcome State Fault Refusal :=
  issue (.hjoin f) f (fun e => e.helping (fun x => do
    let h0 := e.hasHelper0 x && e.ex.getLsbD x.lane
    let ls := (lanesOf e.ex e.gw).filter (fun l => !(h0 && l == x.lane))
    onlyIf (!ls.isEmpty) (e.quit x ls)
    if !h0 then return .done
    else
      match (← getC).recruits.find? (fun y => y.id == x.id) with
      | none => return .done
      | some y =>
        if 1 < y.lanes.length then return .await
        else if e.recruiterWaits x f.dst.toNat (scfld f 2 0) then return .hold
        else if !y.returned.isEmpty then do
          e.go (advPc y.entry)
          return .jump
        else do
          let z := y.commitLanes e.cur.p [x.lane]
          modRecruit x.id (fun _ => z)
          match z.fault with
          | some k => return .trap (helperFaultTrap x.lane k)
          | none => do
            e.endRecruit z f.dst.toNat (scfld f 2 0)
            return .done)) s

/-- What a group's parked path waits for has come, or its wait ends in a trap: its lent lanes are taken back (R278). -/
def Ctl.wantsBack (c : Ctl) (t : Team) (met : Path → Park → Bool) (g : Nat) : Bool :=
  t.phase == .saving || (t.party (.group g)).live.any (fun p => match p.park with
    | some k => met p k
    | none => true) || !c.hasTeam t.uid

end Sys2Proof.Machine
end

