-- ==== Sys2Proof/Machine/CopyJobs.lean ====
section
/-! DEFINITION. The copy instructions, majors 0x15 and 0x16, and the steps of their jobs (R177 to R189). -/

namespace Sys2Proof.Machine

/-- The lane a job is charged to: the lowest of exec (R177). -/
def Env.chargeLane (e : Env) : Nat := (lowest e.ex).getD 0

/-- An operand of a copy as an address of a space: spaces 1 to 3 read 32 bits (R180). -/
def Env.addrOf (e : Env) (sp : Nat) (code : Nat) : Nat := wrapSp sp (e.usrcB code).toNat

/-- The first failure among fixed ranges (R181 step 3): 0x10 outranks 0x11 within the order of the ranges. -/
def Env.fixedOut (e : Env) (rs : List (Nat × Nat × Nat)) : Option Nat :=
  rs.findSome? (fun r => rangeOut e.s.ctl e.t r.1 r.2.1 r.2.2)

/-- The completion object of a job with its checks (R179, R181 step 4). -/
def Env.completion (e : Env) : Except TrapReq Compl :=
  let k := e.f.xmod / 4
  if k = 0 then .ok .none
  else if k = 4 then .ok (.counter (aKey e.uid e.home (e.f.sd - 336)))
  else
    let o := (e.usrc e.f.sd).toNat % 2 ^ 32
    if o % 16 ≠ 0 then .error (mkTrap 8 0 e.ex)
    else
      match classify e.s.ctl e.t k o 16 with
      | .data l => .ok (.barrier l o)
      | .selv => .error (mkTrap 10 0x10 e.ex)
      | .out b => .error (mkTrap 10 b e.ex)

/-- An element of an entry touches a range of a space: compared as addresses, and in device memory also as the bytes
that the tables place there. -/
def State.elemIn (s : State) (t : Team) (x : Elem) (r : Nat × Nat × Nat) : Bool :=
  if r.1 = 0 then
    (x.vs == 0 && overlap x.va x.n r.2.1 r.2.2) ||
    (List.range (r.2.2 / 4096 + 2)).any (fun i =>
      let lo := max r.2.1 ((r.2.1 / 4096 + i) * 4096)
      let hi := min (r.2.1 + r.2.2) ((r.2.1 / 4096 + i + 1) * 4096)
      decide (lo < hi) &&
        (match s.placeAt t.rctx lo with
         | some l => x.loc.touches x.n l (hi - lo)
         | none => false))
  else
    (cutRange r.2.1 r.2.2 0).any (fun q =>
      let a := fenceAddr t r.1 q.1
      x.vs == a.1 && overlap x.va x.n a.2 q.2.1)

/-- What path `pid` of a party issued under number n comes before the executing path's next instruction in program order
(R97): its own, or what the party issued before the path began. -/
def Env.past (e : Env) (team : Nat) (who : Who) (pid n : Nat) : Bool :=
  team == e.uid && who == e.g.who && (pid == e.p.pid || decide (n < e.p.born))

/-- Earlier jobs of the party. -/
def Env.olderJobs (e : Env) : List Nat :=
  (e.s.ctl.jobs.filter (fun j => e.past j.team j.who j.pid j.id)).map (·.id)

/-- Older accesses of a job's party that touch some range, or any byte of some space (R216): their numbers. -/
def State.olderTouching (s : State) (j : Job) (rs : List (Nat × Nat × Nat)) (sps : List Nat) : List Nat :=
  let t := s.ctl.team j.team
  (s.ctl.entries.filter (fun o => !o.isJob && o.team == j.team && o.home == j.home && decide (o.ins < j.id) &&
    ((o.who == j.who && o.pid == j.pid) || decide (o.ins < j.born)) &&
    o.els.any (fun x => rs.any (s.elemIn t x) || sps.contains x.vs || (sps.contains 3 && x.vs == 2)))).map (·.ins)

/-- What a copy moves, from its operands (R182 to R187): its kind, its two sides and its bytes; the ranges that are checked
before acceptance (R181), the others it reads, and spaces in which it may touch any byte. -/
structure Shape where
  kind : JobKind
  dsp : Nat
  dst : Nat
  ssp : Nat
  src : Nat
  size : Nat
  fixed : List (Nat × Nat × Nat)
  more : List (Nat × Nat × Nat)
  sps : List Nat
deriving DecidableEq, Repr, Inhabited

/-- The shape of a copy of a kind, its operands read by `rd` (R180, R182 to R187). The format of a `cpx` and the record of a
`spat` are those read at issue (R83, R177). -/
def shapeOf (f : Fields) (rd : Nat → Word) (k : JobKind) : Shape :=
  let d := mfld f 5 4
  let s := mfld f 3 2
  let a := wrapSp d (rd f.sa.toNat).toNat
  let b := wrapSp s (rd f.sb.toNat).toNat
  let n := (rd f.sc.toNat).toNat
  match k with
  | .fill _ _ =>
    { kind := .fill (rd f.sb.toNat) (2 ^ (f.xmod % 4)), dsp := d, dst := a, ssp := 1, src := 0, size := n, fixed := [(d, a, n)],
      more := [], sps := [] }
  | .cpz _ =>
    let m := (rd f.se).toNat
    { kind := .cpz m, dsp := d, dst := a, ssp := s, src := b, size := n, fixed := [(d, a, n), (s, b, m)], more := [], sps := [] }
  | .cpx fa _ _ =>
    let st := (rd f.se).toNat
    let z := planes fa * n * planeBytes fa
    { kind := .cpx fa n st, dsp := 1, dst := wrapSp 1 (rd f.sa.toNat).toNat, ssp := s, src := b, size := z,
      fixed := [(1, wrapSp 1 (rd f.sa.toNat).toNat, z)],
      more := (List.range n).map (fun r => (s, wrapSp s (b + r * st), 512)), sps := [] }
  | .spat sc r =>
    let z := r.es * r.count
    let p := r.range
    { kind := k, dsp := if sc then r.space else d, dst := if sc then p.1 else a, ssp := if sc then d else r.space,
      src := if sc then a else p.1, size := z, fixed := [(d, a, z)],
      more := if r.ind then [] else [(r.space, p.1, p.2)], sps := if r.ind then [r.space, r.isp] else [] }
  | _ =>
    { kind := .cpy, dsp := d, dst := a, ssp := s, src := b, size := n, fixed := [(d, a, n), (s, b, n)], more := [], sps := [] }

/-- A job of the executing path that has not been accepted. -/
def Env.newJob (e : Env) (id : Nat) (kind : JobKind) (dsp dst ssp src size : Nat) (compl : Compl) : Job :=
  { id := id, team := e.uid, who := e.g.who, pid := e.p.pid, lane := e.chargeLane, die := e.t.die,
    cluster := e.t.core / 4, engine := 0, user := e.pl == 0, kslot := (e.s.ctl.ctx e.t.rctx).kslot, rctx := e.t.rctx,
    depth := e.t.depth, kind := kind, dsp := dsp, dst := wd dst, ssp := ssp, src := wd src, size := size, compl := compl,
    home := e.home, pl := e.pl, f := e.f, born := e.p.born, accepted := false, acceptedAt := 0, seq := id, got := [],
    landed := [], early := [], earlyJobs := e.olderJobs, bound := none, lost := false, guard := false, err := none }

/-- Submit a job whose checked ranges are given: steps 3 and 4 of R181, its GUARD hit, its place behind older accesses of
its party to these ranges. Its precise traps name the executing lanes, with no address (assumption 149). -/
def Env.submit (e : Env) (kind : JobKind) (dsp dst ssp src size : Nat) (rs : List (Nat × Nat × Nat))
    (bound : Option (Nat × Nat)) : M Res := do
  match e.fixedOut rs with
  | some b => return .trap (mkTrap 10 b e.ex)
  | none =>
    match e.completion with
    | .error r => return .trap r
    | .ok compl => do
      let id ← freshId
      let hits := rs.filterMap (fun r => (rangeSelv e.s.ctl e.t r.1 r.2.1 r.2.2).map (fun a => (r.1, a)))
      let k ← drawBelow hits.length
      onlyIf (!hits.isEmpty)
        (recordHit e.uid e.g.who e.chargeLane (hitWord (hits.getD k (1, 0)).1 (hits.getD k (1, 0)).2) true)
      let j := e.newJob id kind dsp dst ssp src size compl
      modC (fun c => { c with jobs := c.jobs ++ [{ j with early := e.s.olderTouching j rs [], bound := bound,
                                                          guard := !hits.isEmpty }] })
      return .done

/-- Submit a copy of a shape; pre: ranges checked ahead of its own. -/
def Env.submitShape (e : Env) (x : Shape) (pre : List (Nat × Nat × Nat)) (bound : Option (Nat × Nat)) : M Res :=
  e.submit x.kind x.dsp x.dst x.ssp x.src x.size (pre ++ x.fixed) bound

/-- MOD [63:62], the destination's space. -/
def Env.cpD (e : Env) : Nat := mfld e.f 5 4
/-- MOD [61:60], the source's space. -/
def Env.cpS (e : Env) : Nat := mfld e.f 3 2

/-- `cpy` (R182). -/
def execCpy (f : Fields) (s : State) : Host.Outcome State Fault Refusal :=
  issue (.cpy f) f (fun e => do
    let x := shapeOf f e.usrcB .cpy
    if 2 ^ 30 < x.size then return .trap (mkTrap 10 0x41 e.ex)
    else e.submitShape x [] none) s

/-- `cpfill` (R185). -/
def execCpfill (f : Fields) (s : State) : Host.Outcome State Fault Refusal :=
  issue (.cpfill f) f (fun e => do
    let x := shapeOf f e.usrcB (.fill 0 1)
    if 2 ^ 30 < x.size then return .trap (mkTrap 10 0x41 e.ex)
    else e.submitShape x [] none) s

/-- `cpz` (R187). -/
def execCpz (f : Fields) (s : State) : Host.Outcome State Fault Refusal :=
  issue (.cpz f) f (fun e => do
    if 2 ^ 22 < (e.usrcB f.sc.toNat).toNat ∨ 2 ^ 22 < (e.usrcB f.se).toNat then return .trap (mkTrap 10 0x41 e.ex)
    else e.submitShape (shapeOf f e.usrcB (.cpz 0)) [] none) s

/-- `cpx` (R186): its format is FA of `fmt` at issue (R83). -/
def execCpx (f : Fields) (s : State) : Host.Outcome State Fault Refusal :=
  issue (.cpx f) f (fun e => do
    let rows := (e.usrcB f.sc.toNat).toNat
    let fa := wfld e.p.fmt 4 0
    if 20 ≤ fa then return .trap (e.illenc 9)
    else if rows = 0 ∨ 64 < rows then return .trap (mkTrap 10 0x41 e.ex)
    else e.submitShape (shapeOf f e.usrcB (.cpx fa 0 0)) [] none) s

/-- A pattern record from its 64 bytes; none when it is malformed (R183, R184). -/
def spatOf (scatter : Bool) (w : List Word) : Option Spat :=
  let g (i : Nat) : Word := w.getD i 0
  let c := g 1
  let r : Spat := {
    base := (g 0).toNat, isp := wfld c 31 30, isz := wfld c 29 28, idim := wfld c 27 26, ind := c.getLsbD 25,
    elog := wfld c 19 16, space := wfld c 1 0,
    strs := (List.range 4).map (fun d => sextNat 40 (wfld (g (2 + d)) 63 24)),
    cnts := (List.range 4).map (fun d => wfld (g (2 + d)) 23 0), ibase := (g 6).toNat }
  if wfld c 63 32 ≠ 0 ∨ wfld c 24 20 ≠ 0 ∨ wfld c 15 2 ≠ 0 ∨ 12 < r.elog ∨ r.cnts.contains 0 ∨ (!r.ind ∧ g 6 ≠ 0) ∨
      g 7 ≠ 0 ∨ 2 ^ 30 < r.es * r.count ∨ (scatter ∧ r.space = 1 ∧ r.ind) then none
  else some r

/-- The record of a `spat` is read (R181 step 2): its doublewords, or how the instruction ends. -/
def Env.spatRecord (e : Env) (sp a : Nat) : M (Except Res (List Word)) := do
  if a % 64 ≠ 0 then return .error (.trap (mkTrap 8 0 e.ex))
  else if sp = 0 then
    let xs := e.serves.map (fun l => (l, a))
    match ← attempt (e.reachLanes xs { rd := true, wr := false, x := false }) with
    | .trap r => return .error (.trap (if e.f.u then e.whole r else r))
    | .wait => return .error .hold
    | .ok os =>
      match ← e.fillCheck xs with
      | some (.trap r) => return .error (.trap (if e.f.u then e.whole r else r))
      | some r => return .error r
      | none => do
        let l := (os.head?.map (·.2)).getD (dmLoc 0)
        let c ← getC
        if c.busyAt e.uid e.g.who l 64 then return .error .hold
        else
          match ← (if l.sp == .dm then sealAccess (c.ctx e.t.rctx).kslot l.key false else pure .ok) with
          | .wait => return .error .hold
          | .fail k => return .error (.trap (if e.f.u then e.wholeTrap 11 k a else laneTrap 11 k xs))
          | .ok => do
            let s ← getS
            match s.farFault e.t.die e.t.rctx a (e.pl == 0) { rd := true, wr := false, x := false } l with
            | .wait => return .error .hold
            | .fault k b => return .error (.trap (if e.f.u then e.wholeTrap k b a else laneTrap k b xs))
            | .ok l => return .ok ((List.range 8).map (fun i => wd (s.load (l.plus (8 * i)) 8)))
  else
    match e.fixedOut [(sp, a, 64)] with
    | some b => return .error (.trap (mkTrap 10 b e.ex))
    | none =>
      match classify e.s.ctl e.t sp a 64 with
      | .data l =>
        let fa := fenceAddr e.t sp a
        let x := e.entry 0 0 .read [{ lane := 0, loc := l, n := 64, vs := fa.1, va := fa.2, data := 0, data2 := 0, sink := .none }]
        if e.s.ctl.wouldBar x then return .error .hold
        else if sp == 1 && e.s.ctl.absent e.uid (tmLine l) then return .error (.park (.absent e.uid (tmLine l)) (wd a))
        else return .ok ((List.range 8).map (fun i => wd (e.s.load (l.plus (8 * i)) 8)))
      | _ => return .ok (List.replicate 8 0)

/-- Bytes that an engine's jobs have outstanding. -/
def Ctl.engineBytes (c : Ctl) (die cluster engine : Nat) : Nat :=
  ((c.jobs.filter (fun q => q.isCopy && q.accepted && q.die == die && q.cluster == cluster && q.engine == engine)).map
    (fun q => q.size - q.done)).sum

/-- Job entries that an engine holds. -/
def Ctl.engineJobs (c : Ctl) (die cluster engine : Nat) : Nat :=
  (c.jobs.filter (fun q => q.isCopy && q.accepted && q.die == die && q.cluster == cluster && q.engine == engine)).length

/-- Engine 1 of a cluster has fewer bytes outstanding than engine 0 (R177). -/
def Ctl.lessBusy (c : Ctl) (die cluster : Nat) : Bool := decide (c.engineBytes die cluster 1 < c.engineBytes die cluster 0)

/-- An engine and a team have room for one more job (R173). -/
def Ctl.copyRoom (c : Ctl) (t : Team) (engine : Nat) : Bool :=
  decide ((c.jobs.filter (fun q => q.isCopy && q.accepted && q.team == t.uid)).length < (if t.hdr.pair then 32 else 16)) &&
    decide (c.engineJobs t.die (t.core / 4) engine < 32)

/-- A malformed record (R181, R183, R184): the job is accepted, once there is room for it, and ends at once in error. -/
def Env.spatBad (e : Env) (sp rec_ : Nat) : M Res := do
  if !e.s.ctl.copyRoom e.t (if e.s.ctl.lessBusy e.t.die (e.t.core / 4) then 1 else 0) then return .hold
  else do
    match rangeSelv e.s.ctl e.t sp rec_ 64 with
    | some h => recordHit e.uid e.g.who e.chargeLane (hitWord sp h) true
    | none => pure ()
    recordFault e.uid e.home e.chargeLane 0x1C 0x10 3 (wd rec_)
    return .done

/-- `spat` (R183, R184). -/
def execSpat (f : Fields) (s : State) : Host.Outcome State Fault Refusal :=
  issue (.spat f) f (fun e => do
    let sp := e.cpS
    let sc := f.mod.getLsbD 0
    let rec_ := e.addrOf sp f.sb.toNat
    match ← e.spatRecord sp rec_ with
    | .error r => return r
    | .ok w =>
      match spatOf sc w with
      | none => e.spatBad sp rec_
      | some r =>
        e.submitShape (shapeOf f e.usrcB (.spat sc r)) (if sp = 0 then [] else [(sp, rec_, 64)])
          (if sc && r.space == 1 then some r.range else none)) s

/-- An operand of a job as it stands at acceptance (R177). -/
def Job.rd (j : Job) (s : State) (code : Nat) : Word :=
  if code = 324 then wd j.f.imm32b else s.wreg j.team j.home (code - 256) j.pl

/-- The completion object as acceptance reads it (R177, R179): an address that names no barrier word is that of an unbound
one. -/
def Job.complNow (j : Job) (s : State) : Compl :=
  match j.compl with
  | .barrier _ _ =>
    let o := (j.rd s j.f.sd).toNat % 2 ^ 32
    (match classify s.ctl (s.ctl.team j.team) (j.f.xmod / 4) o 16 with
     | .data l => .barrier l o
     | _ => .barrier (dmLoc 0) o)
  | x => x

/-- A job as a copy engine accepts it: its operands are read (R177). -/
def Job.accept (j : Job) (s : State) (x : Shape) (en seq : Nat) (early : List Nat) : Job :=
  { j with kind := x.kind, dsp := x.dsp, dst := wd x.dst, ssp := x.ssp, src := wd x.src, size := x.size,
           compl := j.complNow s, accepted := true, acceptedAt := s.ctl.cyc, engine := en, seq := seq, early := early }

/-- A copy engine accepts a job (COPY_ACCEPT; R173, R177, R216): older accesses of its party to its bytes have entered their
queues or been served. -/
def execCopyAccept (job : Nat) (s : State) : Host.Outcome State Fault Refusal :=
  event (do
    let s ← getS
    let c := s.ctl
    match c.jobs.find? (fun j => j.id == job && !j.accepted && j.isCopy) with
    | none => pure ()
    | some j =>
      let en := match j.kind with
        | .cpz _ => 1
        | _ => if c.lessBusy j.die j.cluster then 1 else 0
      let x := shapeOf j.f (j.rd s) j.kind
      let early := s.olderTouching j (x.fixed ++ x.more) x.sps
      let clear := !c.entries.any (fun o => early.contains o.ins && !o.reached (j.die * 16 + j.cluster) 2)
      if clear && c.copyRoom (c.team j.team) en then do
        let seq ← freshId
        modJob job (fun q => q.accept s x en seq early)
        finishJob job
      else pure ()) s

/-- A job of a material evaluator. -/
def Job.isEval (j : Job) : Bool :=
  match j.kind with
  | .matld .. | .matev .. => true
  | _ => false

/-- The commands of a cluster's evaluator in acceptance order (R351). -/
def Ctl.evalQueue (c : Ctl) (die cluster : Nat) : List Job :=
  c.jobs.filter (fun j => j.isEval && j.accepted && j.err.isNone && j.die == die && j.cluster == cluster)

/-- A `matev` that its evaluator runs now. -/
def Ctl.evaluates (c : Ctl) (j : Job) : Bool :=
  (match j.kind with
   | .matev .. => true
   | _ => false) && ((c.evalQueue j.die j.cluster).head?.map (·.id)) == some j.id

/-- A job reads source bytes, or lands destination bytes (COPY_BYTE_LAND; R178, R352). -/
def execCopyByteLand (job : Nat) (act : LandAct) (s : State) : Host.Outcome State Fault Refusal :=
  event (do
    let c ← getC
    match c.jobs.find? (fun j => j.id == job && j.accepted && j.err.isNone && (j.isCopy || c.evaluates j)) with
    | none => pure ()
    | some j =>
      match act with
      | .read i n => jobRead j i n
      | .land i n => do
        jobLand j i n
        retest) s

/-- The error of a job, if it has one: what its bytes met, or what decoding found once the landed bytes are a prefix of
the output (R187). -/
def Job.error? (j : Job) : Option (Nat × Nat × Word) :=
  match j.err with
  | some x => some x
  | none =>
    match j.kind with
    | .cpz clen =>
      (match (j.decoded clen).2 with
       | .err b p =>
         if j.landed.all (fun r => decide (r.1 + r.2 ≤ j.done)) then
           some (0x1C, b, wd (if b = 0x11 then wrapSp j.ssp (j.src.toNat + p) else wrapSp j.dsp (j.dst.toNat + p)))
         else none
       | _ => none)
    | _ => none

/-- A job ends in error (JOB_ERROR; R188, R189): its fault is recorded in its party and its bytes are abandoned. -/
def execJobError (job : Nat) (s : State) : Host.Outcome State Fault Refusal :=
  event (do
    let c ← getC
    match c.jobs.find? (fun j => j.id == job && j.accepted) with
    | none => pure ()
    | some j =>
      match j.error? with
      | none => pure ()
      | some (k, b, a) => do
        endJob job
        match j.kind with
        | .epi tile .. => modC (fun c => { c with mtiles := c.mtiles.filter (fun m => m.uid != tile) })
        | _ => pure ()
        recordFault j.team j.who.idx j.lane k b 3 a) s

end Sys2Proof.Machine
end

