-- ==== Sys2Proof/Machine/Matrix.lean ====
section
/-! DEFINITION. The matrix instructions, majors 0x1E and 0x1F (R297 to R301, R309 to R319). -/

namespace Sys2Proof.Machine

/-- Bytes of one packed row of 64 elements (R86). -/
def rowBytes (fmt : Nat) : Nat := 64 * container fmt / 8

/-- The cycles of one pass (R85). -/
def passCycles (fa : Nat) : Nat := kOf fa / 64 * planes fa

/-- The data bytes of operand `op` in a range of a scratchpad space, piece by piece (R301). -/
def dataSpans (c : Ctl) (t : Team) (op sp a n : Nat) : List PSpan :=
  let at_ (x : Nat) : Loc := if sp = 1 then tmLoc t.uid x else if sp = 3 then dpLoc t.die (t.resv + x) else dpLoc t.die (fld x 26 0)
  let part (lo hi off : Nat) : List PSpan := ((zones c t sp).filter (fun z => !z.2.2)).filterMap (fun z =>
    let x := max lo z.1
    let y := min hi (z.1 + z.2.1)
    if x < y then some { loc := at_ x, n := y - x, op := op, off := off + (x - lo) } else none)
  part a (min (a + n) (2 ^ 32)) 0 ++ part 0 (a + n - 2 ^ 32) (2 ^ 32 - a)

/-- A tile of a team by its number. -/
def Ctl.tileNo (c : Ctl) (uid n : Nat) : Option MTile := c.mtiles.find? (fun m => m.team == uid && m.num == n)

/-- A tile that is OPEN. -/
def Ctl.openTile (c : Ctl) (uid n : Nat) : Option MTile :=
  match c.tileNo uid n with
  | some m => if m.st == .opened then some m else none
  | none => none

/-- An earlier `mfence.op` of the party has still to leave (R311, R314). -/
def Env.mfencePending (e : Env) : Bool :=
  e.s.ctl.entries.any (fun o => o.act == .fin .dropOperands && o.stage == .pend && e.past o.team o.who o.pid o.ins)

/-- The reservation table takes another entry of the team (R297). -/
def Env.tableFree (e : Env) : Bool :=
  let c := e.s.ctl
  decide ((c.passes.filter (fun p => p.team == e.uid)).length < (if e.t.hdr.pair then 16 else 8)) &&
    decide ((c.passes.filter (fun p => p.engine == e.t.cluster)).length < 32)

/-- A new reservation-table entry of the path. -/
def Env.newPass (e : Env) (id : Nat) (kind : PassKind) (rs : List (Nat × Nat × Nat)) (cycles : Nat) : Pass :=
  { id := id, engine := e.t.cluster, team := e.uid, who := e.g.who, pid := e.p.pid, prio := e.t.mprio,
    acceptedAt := e.s.ctl.cyc, granted := false, fa := wfld e.p.fmt 4 0, fb := wfld e.p.fmt 9 5, kind := kind,
    spans := (((List.range rs.length).zip rs).map (fun r => dataSpans e.s.ctl e.t r.1 r.2.1 r.2.2.1 r.2.2.2)).flatten, cycles := cycles, got := 0, ops := [] }

/-- The lines of an entry's spans. -/
def Pass.lines (p : Pass) : List Loc :=
  ((p.spans.map (fun r => (linesOf r.loc r.n).map (fun i => ({ r.loc with key := i * 64 } : Loc)))).flatten).dedup

/-- A line as a pass of a party reads it (R217, R302): each byte as it stands, or as it stood at some moment since the party's
last `mfence.op`; which is open (assumption 151). -/
def readLine (uid : Nat) (who : Who) (l : Loc) : M (List Byte) := do
  let s ← getS
  let since := ((s.ctl.team uid).party who).opFence
  forMap (List.range 64) (fun i => do
    let x := l.plus i
    let now := (s.mem x.sp).get x.key
    let vs := now :: (s.ctl.olds.filter (fun o => o.loc == x && decide (since ≤ o.at_))).map (·.byte)
    let k ← drawBelow vs.length
    return vs.getD k now)

/-- A line is read when its entry is accepted, unless it is absent: it is read once it is present (R301). -/
def readPresent (uid : Nat) (who : Who) (l : Loc) : M (List Byte) := do
  let c ← getC
  if l.sp == .tm && c.absent uid (tmLine l) then return [] else readLine uid who l

/-- An entry is accepted, with its GUARD hit for selvage bytes (R128, R301, R311). -/
def Env.acceptPass (e : Env) (kind : PassKind) (rs : List (Nat × Nat × Nat)) (cycles : Nat) : M Unit := do
  let hits := rs.filterMap (fun r => (rangeSelv e.s.ctl e.t r.1 r.2.1 r.2.2).map (fun a => (r.1, a)))
  let k ← drawBelow hits.length
  onlyIf (!hits.isEmpty)
    (recordHit e.uid e.g.who e.chargeLane (hitWord (hits.getD k (1, 0)).1 (hits.getD k (1, 0)).2) true)
  let id ← freshId
  let p := e.newPass id kind rs cycles
  let ops ← forMap p.lines (readPresent e.uid e.g.who)
  modC (fun c => { c with passes := c.passes ++ [{ p with ops := ops }] })

/-- `mmx` (R310, R311). -/
def execMmx (f : Fields) (s : State) : Host.Outcome State Fault Refusal :=
  issue (.mmx f) f (fun e => do
    let fa := wfld e.p.fmt 4 0
    let fb := wfld e.p.fmt 9 5
    let ctl := e.usrc f.sc.toNat
    let bstr := if wfld ctl 47 32 = 0 then rowBytes fb else wfld ctl 47 32
    let pa := mfld f 5 4
    let pb := mfld f 3 2
    let k := kOf fa
    let a := wrapSp pa (e.usrc f.sa.toNat).toNat
    let b := wrapSp pb (e.usrc f.sb.toNat).toNat
    let sa := if isMx fa then some (pa, wrapSp pa (e.usrc f.sd).toNat) else none
    let sb := if isMx fb then some (pb, wrapSp pb (e.usrc f.se).toNat) else none
    let odd (x : Option (Nat × Nat)) (n : Nat) : Bool := x.any (fun y => y.2 % n != 0)
    let rs := [(pa, a, planes fa * 64 * planeBytes fa), (pb, b, k * bstr)] ++
      (sa.toList.map (fun x => (x.1, x.2, 64 * k / 32))) ++ (sb.toList.map (fun x => (x.1, x.2, k / 32 * 64)))
    if wfld ctl 31 4 ≠ 0 ∨ bstr % 8 ≠ 0 ∨ bstr < rowBytes fb then return .trap (mkTrap 10 0x84 e.ex)
    else if (isMx fa ∧ f.sd = 324) ∨ (isMx fb ∧ f.se = 324) then return .trap (mkTrap 10 0x84 e.ex)
    else if a % 64 != 0 || odd sa 64 || b % 8 != 0 || odd sb 8 then return .trap (mkTrap 8 0 e.ex)
    else
      match e.fixedOut rs with
      | some n => return .trap (mkTrap 10 n e.ex)
      | none =>
        match e.s.ctl.openTile e.uid (wfld ctl 3 0) with
        | none => return .trap (mkTrap 10 0x80 e.ex)
        | some m =>
          if m.int != (isIntFmt fa && isIntFmt fb) then return .trap (mkTrap 10 0x81 e.ex)
          else if e.mfencePending || !e.tableFree then return .hold
          else do
            e.acceptPass (.mmx m.uid (f.mod.getLsbD 1) (sextNat 16 (wfld ctl 63 48)) (BitVec.ofNat 32 f.imm32b) bstr
              (pa, a) (pb, b) sa sb) rs (passCycles fa)
            return .done) s

/-- `mring.open` (R312). -/
def execMringOpen (f : Fields) (s : State) : Host.Outcome State Fault Refusal :=
  issue (.mringOpen f) f (fun e => do
    let c := e.s.ctl
    let full := decide (16 ≤ (c.mtiles.filter (fun m => m.engine == e.t.cluster)).length)
    match (if full then none else (List.range 16).find? (fun n => (c.tileNo e.uid n).isNone)) with
    | none => do
      emits (e.putWd allOnes)
      return .done
    | some n => do
      let id ← freshId
      let v := (e.usrc f.sa.toNat).setWidth 32
      modC (fun c => { c with mtiles := c.mtiles ++ [{
        uid := id, team := e.uid, num := n, engine := e.t.cluster, st := .opened, int := f.mod.getLsbD 0, status := 0,
        fillv := v, els := List.replicate 4096 v }] })
      emits (e.putWd (wd n))
      return .done) s

/-- A pass of a tile. -/
def Pass.onTile (p : Pass) (tile : Nat) : Bool :=
  match p.kind with
  | .mmx t _ _ _ _ _ _ _ _ => t == tile
  | .vxm _ _ _ => false

/-- A tile is closed: entries that have not been granted go, and its slot is free once nothing remains (R312). -/
def Ctl.closeTile (c : Ctl) (tile : Nat) : Ctl :=
  let ps := c.passes.filter (fun p => !(p.onTile tile && !p.granted))
  if ps.any (fun p => p.onTile tile) then
    { c with passes := ps, mtiles := c.mtiles.map (fun m => if m.uid == tile then { m with st := .closing } else m) }
  else { c with passes := ps, mtiles := c.mtiles.filter (fun m => m.uid != tile) }

/-- `mring.close` (R312). -/
def execMringClose (f : Fields) (s : State) : Host.Outcome State Fault Refusal :=
  issue (.mringClose f) f (fun e => do
    match e.s.ctl.openTile e.uid (e.usrc f.sa.toNat).toNat with
    | none => return .trap (mkTrap 10 0x80 e.ex)
    | some m => do
      modC (fun c => c.closeTile m.uid)
      return .done) s

/-- Output formats of an epilogue (R313). -/
def outAllowed (o : Nat) : Bool := decide (o ≤ 7) || (decide (14 ≤ o) && decide (o ≤ 16))

/-- `epi` (R310, R313). -/
def execEpi (f : Fields) (s : State) : Host.Outcome State Fault Refusal :=
  issue (.epi f) f (fun e => do
    let ctl := e.usrc f.sc.toNat
    let act := wfld ctl 11 8
    let bias := ctl.getLsbD 4
    let out := wfld e.p.fmt 18 14
    let rb := rowBytes out
    let st := if wfld ctl 47 32 = 0 then rb else wfld ctl 47 32
    let d := mfld f 5 4
    let bs := mfld f 3 2
    let a := wrapSp d (e.usrc f.sa.toNat).toNat
    let b := wrapSp bs (e.usrc f.sb.toNat).toNat
    let rows := (List.range 64).map (fun i => (d, wrapSp d (a + i * st), rb))
    let rs := rows ++ (if bias then [(bs, b, 256)] else [])
    if wfld ctl 63 48 ≠ 0 ∨ wfld ctl 31 12 ≠ 0 ∨ wfld ctl 7 5 ≠ 0 ∨ 4 ≤ act ∨ (bias ∧ f.sb = 324) then
      return .trap (mkTrap 10 0x84 e.ex)
    else if !outAllowed out then return .trap (mkTrap 10 0x85 e.ex)
    else if st % 8 ≠ 0 ∨ st < rb then return .trap (mkTrap 10 0x84 e.ex)
    else if a % 64 ≠ 0 ∨ (bias ∧ b % 4 ≠ 0) then return .trap (mkTrap 8 0 e.ex)
    else
      match e.fixedOut rs, e.completion with
      | some n, _ => return .trap (mkTrap 10 n e.ex)
      | none, .error r => return .trap r
      | none, .ok compl =>
        match e.s.ctl.openTile e.uid (wfld ctl 3 0) with
        | none => return .trap (mkTrap 10 0x80 e.ex)
        | some m => do
          let x ← e.submit (.epi m.uid (BitVec.ofNat 32 f.imm32b) act out rb st (if bias then some (bs, b) else none)
            (e.p.fmt.getLsbD 13)) d a 1 0 (64 * rb) rs none
          modC (fun c => { c with
            jobs := c.jobs.map (fun j => if j.id + 1 == c.nextId && !j.accepted then
              { j with accepted := true, acceptedAt := c.cyc, compl := compl } else j)
            mtiles := c.mtiles.map (fun y => if y.uid == m.uid then { y with st := .draining } else y) })
          return x) s

/-- `mfence.op` (R314). -/
def execMfenceOp (f : Fields) (s : State) : Host.Outcome State Fault Refusal :=
  issue (.mfenceOp f) f (fun e => do
    e.appendFin false 0 .dropOperands
    return .done) s

/-- `mprio` (R315). -/
def execMprio (f : Fields) (s : State) : Host.Outcome State Fault Refusal :=
  issue (.mprio f) f (fun e => do
    let p := wfld (e.usrc f.sa.toNat) 3 0
    modTeam e.uid (fun t => { t with mprio := max p t.prio })
    return .done) s

/-- The status word of a tile (R316). -/
def Ctl.tileStatus (c : Ctl) (m : MTile) : Word :=
  wd ((c.passes.filter (fun p => p.onTile m.uid)).length * 2 ^ 32 + (if m.st == .draining then 2 ^ 8 else 0) + 2 ^ 7 +
    (if m.int then 2 ^ 6 else 0) + m.status % 64)

/-- The units that a die's engines hold together (R306). -/
def Slew.grant (x : Slew) : Nat := x.held.sum

/-- The status word of an engine (R316). -/
def Ctl.engineStatus (c : Ctl) (engine : Nat) : Word :=
  let x := c.slews.getD (engine / 16) Slew.init
  wd ((c.passes.filter (fun p => p.engine == engine)).length * 2 ^ 32 + x.grant * 2 ^ 16 + x.held.getD (engine % 16) 0)

/-- `mstat` (R316). -/
def execMstat (f : Fields) (s : State) : Host.Outcome State Fault Refusal :=
  issue (.mstat f) f (fun e => do
    let c := e.s.ctl
    emits (e.putWd (if f.mod.getLsbD 0 then c.engineStatus e.t.cluster else
      match c.tileNo e.uid (e.usrc f.sa.toNat).toNat with
      | some m => c.tileStatus m
      | none => 0))
    return .done) s

/-- Elements of the vector that one lane holds (R317). -/
def vecPer (fb : Nat) : Nat := 32 / container fb

/-- `vxm` (R317). -/
def execVxm (f : Fields) (s : State) : Host.Outcome State Fault Refusal :=
  issue (.vxm f) f (fun e => do
    let fa := wfld e.p.fmt 4 0
    let fb := wfld e.p.fmt 9 5
    let kx := e.gw * vecPer fb
    let rb := kx * container fa / 8
    let l := f.mod.getLsbD 3
    let sp := mfld f 5 4
    let ls := lanesOf e.ex e.gw
    let base := (e.usrc f.sa.toNat).toNat
    let row (x : Nat) : Nat := if l then e.v f.sa.toNat x else wrapSp sp (base + x * roundUp rb 64)
    let bad := if l then ls.filter (fun x => row x == 0 || row x % 64 != 0) else if base % 64 ≠ 0 then ls else []
    let out (b : Nat) : List Nat := ls.filter (fun x => rangeOut e.s.ctl e.t sp (row x) rb == some b)
    match bad, out 0x10, out 0x11 with
    | b :: r, _, _ => return .trap (laneTrap 8 0 ((b :: r).map (fun x => (x, row x))))
    | [], b :: r, _ => return .trap (laneTrap 10 0x10 ((b :: r).map (fun x => (x, row x))))
    | [], [], b :: r => return .trap (laneTrap 10 0x11 ((b :: r).map (fun x => (x, row x))))
    | [], [], [] =>
      if ls.isEmpty then return .done
      else if e.mfencePending || !e.tableFree then return .hold
      else do
        let init (x : Nat) : BitVec 32 := BitVec.ofNat 32 (e.bits f.sc.toNat x 32 f.rawImm)
        let rows := ls.map (fun x => (x, (sp, row x), init x))
        let runs := if l then ((rows.map (fun r => r.2)).dedup).length else 1
        e.acceptPass (.vxm rows ((List.range e.gw).map (fun x => BitVec.ofNat 32 (e.v f.sb.toNat x)))
          (ls.map (fun x => e.sinkFor x 32 false true))) (ls.map (fun x => (sp, row x, rb)))
          (runs * (planes fa * ((kx + 63) / 64)))
        return .done) s

end Sys2Proof.Machine
end

