-- ==== Sys2Proof/Machine/Raster.lean ====
section
/-! DEFINITION. Views as a raster dimension, majors 0x20 to 0x22 (R323 to R341). -/

namespace Sys2Proof.Machine

/-- The owner die of a region's pixel (R324). -/
def regionOf (w px py : Nat) : Nat := px / 64 + py / 64 * ((w + 63) / 64)

/-- The cell of a pixel and global view (R324). -/
def cellOf (w nv px py gv : Nat) : Nat :=
  ((regionOf w px py) / 8 * nv + gv) * 4096 + py % 64 * 64 + px % 64

/-- The three values E[e] and the area at a sample, exact (R330). -/
def edgeAt (vs : List Vertex) (px py gv e : Nat) : Int :=
  let p := vs.getD e default
  let q := vs.getD ((e + 1) % 3) default
  let x : Int := 256 * px + 128
  let y : Int := 256 * py + 128
  ((q.x - p.x) + gv * (q.d - p.d)) * (y - p.y) - (q.y - p.y) * (x - (p.x + gv * p.d))

/-- Area(gv) (R330). -/
def areaAt (vs : List Vertex) (px py gv : Nat) : Int := edgeAt vs px py gv 0 + edgeAt vs px py gv 1 + edgeAt vs px py gv 2

/-- Coverage with facing s (R330). -/
def covered (vs : List Vertex) (cull w h nv px py gv : Nat) (s : Int) : Bool :=
  decide (px < w) && decide (py < h) && decide (gv < nv) &&
    !((cull == 1 && decide (s < 0)) || (cull == 2 && decide (0 < s))) &&
    (List.range 3).all (fun e =>
      let p := vs.getD e default
      let q := vs.getD ((e + 1) % 3) default
      let dx := (q.x - p.x) + gv * (q.d - p.d)
      let dy := q.y - p.y
      let v := edgeAt vs px py gv e
      let own := decide (s * dy < 0) || (dy == 0 && decide (0 < s * dx))
      decide (0 < s * v) || (v == 0 && own)) &&
    decide (0 < s * areaAt vs px py gv)

/-- A tile's pixel p (R336). -/
def RTile.px (t : RTile) (p : Nat) : Nat := 8 * t.tx + p % 8
/-- Its row. -/
def RTile.py (t : RTile) (p : Nat) : Nat := 8 * t.ty + p / 8

/-- cov(p, 64b + v, s) of a tile. -/
def RTile.cov (t : RTile) (p v : Nat) (s : Int) : Bool :=
  covered t.vs t.cull t.w t.h t.nv (t.px p) (t.py p) (64 * t.b + v) s

/-- cm(p): the local views covered under either facing (R338). -/
def RTile.mask (t : RTile) (p : Nat) : Word := maskOf ((List.range 64).filter (fun v => t.cov p v 1 || t.cov p v (-1)))

/-- The interval word of a set of local views (R331, R337). -/
def intervalOf (vs : List Nat) : Nat :=
  match vs with
  | [] => 0x10000
  | v :: r => r.foldl max v * 256 + r.foldl min v

/-- The views of an interval word. -/
def intervalMask (x : Nat) : Word :=
  if bitOf x 16 then 0 else maskOf ((List.range 64).filter (fun v => decide (fld x 5 0 ≤ v) && decide (v ≤ fld x 13 8)))

/-- The depth of a sample, rounded once; an exact zero is +0 (R332). -/
def depthAt (vs : List Vertex) (px py gv : Nat) : Nat :=
  let z (k : Nat) : FV := f32.unpack (vs.getD k default).z.toNat
  let term (e k : Nat) : Int × Int :=
    match z k with
    | .fin n m x => (edgeAt vs px py gv e * (if n then -(m : Int) else m), x)
    | _ => (0, 0)
  let ts := [term 0 2, term 1 0, term 2 1]
  let e0 := ts.foldl (fun m t => min m t.2) 0
  let num := (ts.map (fun t => t.1 * ((2 ^ (t.2 - e0).toNat : Nat) : Int))).sum
  if num = 0 then 0 else (f32.give .ne (xdiv (intVal num e0) (intVal (areaAt vs px py gv) 0))).1

/-- A stream of a context by its number. -/
def Ctl.stream (c : Ctl) (rctx num : Nat) : Option Stream := c.streams.find? (fun s => s.rctx == rctx && s.num == num)

/-- Change a stream. -/
def modStream (id : Nat) (f : Stream → Stream) : M Unit :=
  modC (fun c => { c with streams := c.streams.map (fun s => if s.id == id then f s else s) })

/-- A stream whose end marker every die has passed is free (R326). -/
def Ctl.freeStreams (c : Ctl) : Ctl :=
  { c with streams := c.streams.filter (fun s => !(s.closing && s.markerDies.isEmpty)) }

/-- A panel descriptor: W, H, NV, FBO, VBO; none when it breaks R323. -/
def panelOf (w : List Word) : Option (Nat × Nat × Nat × Nat × Nat) :=
  let g (i : Nat) : Word := w.getD i 0
  let nv := wfld (g 0) 40 32
  let hh := wfld (g 0) 31 16
  let ww := wfld (g 0) 15 0
  let ok := wfld (g 0) 63 41 == 0 && decide (1 ≤ nv) && decide (nv ≤ 256) && decide (1 ≤ hh) && decide (hh ≤ 4096) &&
    decide (1 ≤ ww) && decide (ww ≤ 4096) && wfld (g 1) 63 27 == 0 && wfld (g 1) 11 0 == 0 && wfld (g 2) 63 27 == 0 &&
    wfld (g 2) 11 0 == 0 && (List.range 5).all (fun i => g (3 + i) == 0)
  if ok then some (ww, hh, nv, wfld (g 1) 26 0, wfld (g 2) 26 0) else none

/-- The stream number of an instruction. -/
def Env.sNum (e : Env) : Nat := scfld e.f 1 0

/-- `prim.open` (R335): its descriptor is read as `ldg` reads. -/
def execPrimOpen (f : Fields) (s : State) : Host.Outcome State Fault Refusal :=
  issue (.primOpen f) f (fun e => do
    let a := (e.usrc f.sa.toNat).toNat
    if (e.s.ctl.stream e.t.rctx e.sNum).isSome then do
      emits (e.putWd 1)
      return .done
    else if a % 64 ≠ 0 then do
      emits (e.putWd 2)
      return .done
    else
      match ← e.spatRecord 0 a with
      | .error r => return r
      | .ok w =>
        match panelOf w with
        | none => do
          emits (e.putWd 2)
          return .done
        | some p => do
          let id ← freshId
          modC (fun c => { c with streams := c.streams ++ [{
            id := id, rctx := e.t.rctx, num := e.sNum, team := e.uid, die := e.t.die, w := p.1, h := p.2.1, nv := p.2.2.1,
            fbo := p.2.2.2.1, vbo := p.2.2.2.2, nextSeq := 0, prims := [], closing := false, markerDies := [] }] })
          emits (e.putWd 0)
          return .done) s

/-- A primitive record from its 64 bytes: vertices, CULL and PID; none when it is malformed (R325). -/
def primOf (w : List Word) : Option (List Vertex × Nat × BitVec 32) :=
  let g (i : Nat) : Word := w.getD i 0
  let sx (x : Nat) : Int := sextNat 32 x
  let vs : List Vertex := (List.range 3).map (fun k =>
    { x := sx (wfld (g (2 * k)) 31 0), y := sx (wfld (g (2 * k)) 63 32), d := sx (wfld (g (2 * k + 1)) 31 0),
      z := BitVec.ofNat 32 (wfld (g (2 * k + 1)) 63 32) })
  let inR (v b : Int) : Bool := decide (-b ≤ v) && decide (v < b)
  let ok := vs.all (fun v => inR v.x (2 ^ 24) && inR v.y (2 ^ 24) && inR v.d (2 ^ 16) && fld v.z.toNat 30 23 != 255) &&
    wfld (g 6) 63 34 == 0 && wfld (g 6) 33 32 != 3 && g 7 == 0
  if ok then some (vs, wfld (g 6) 33 32, BitVec.ofNat 32 (wfld (g 6) 31 0)) else none

/-- The pixels of a primitive's bounding box over every view (R327), cut to the panel: x and y ranges, if any. -/
def boxOf (vs : List Vertex) (w h nv : Nat) : Option (Nat × Nat × Nat × Nat) :=
  let xs := vs.map (·.x) ++ vs.map (fun v => v.x + ((nv - 1 : Nat) : Int) * v.d)
  let ys := vs.map (·.y)
  let lo (l : List Int) : Int := l.foldl min (l.headD 0)
  let hi (l : List Int) : Int := l.foldl max (l.headD 0)
  let x0 := max 0 (Int.fdiv (lo xs) 256)
  let x1 := min (w - 1 : Int) (Int.fdiv (hi xs) 256)
  let y0 := max 0 (Int.fdiv (lo ys) 256)
  let y1 := min (h - 1 : Int) (Int.fdiv (hi ys) 256)
  if x0 ≤ x1 ∧ y0 ≤ y1 then some (x0.toNat, x1.toNat, y0.toNat, y1.toNat) else none

/-- The dies that own a region the box touches (R324, R327). -/
def boxDies (vs : List Vertex) (w h nv : Nat) : List Nat :=
  match boxOf vs w h nv with
  | none => []
  | some (x0, x1, y0, y1) =>
    let rs := ((List.range (y1 / 64 + 1 - y0 / 64)).map (fun j =>
      (List.range (x1 / 64 + 1 - x0 / 64)).map (fun i => regionOf w (64 * (x0 / 64 + i)) (64 * (y0 / 64 + j)) % 8))).flatten
    (List.range 8).filter (fun d => rs.contains d)

/-- An open stream of the executing team. -/
def Env.myStream (e : Env) : Option Stream :=
  match e.s.ctl.stream e.t.rctx e.sNum with
  | some s => if s.team == e.uid && !s.closing then some s else none
  | none => none

/-- `prim` (R335). -/
def execPrim (f : Fields) (s : State) : Host.Outcome State Fault Refusal :=
  issue (.prim f) f (fun e => do
    match e.myStream with
    | none => return .trap (mkTrap 10 0x90 e.ex)
    | some st =>
      let o := (e.usrc f.sa.toNat).toNat % 2 ^ 32
      if o % 64 ≠ 0 then return .trap (mkTrap 8 0 e.ex)
      else
        match classify e.s.ctl e.t 1 o 64 with
        | .data l =>
          let el : Elem := { lane := 0, loc := l, n := 64, vs := 1, va := o, data := 0, data2 := 0, sink := .none }
          if e.s.ctl.wouldBar (e.entry 0 0 .read [el]) then return .hold
          else if e.s.ctl.absent e.uid (tmLine l) then return .park (.absent e.uid (tmLine l)) (wd o)
          else
            match primOf ((List.range 8).map (fun i => wd (e.s.load (l.plus (8 * i)) 8))) with
            | none => return .trap (mkTrap 10 0x92 e.ex)
            | some r =>
              let dies := boxDies r.1 st.w st.h st.nv
              if dies.any (fun d => decide (64 ≤ (st.prims.filter (fun p => p.dies.any (fun x => x.1 == d))).length)) then
                return .await
              else do
                modStream st.id (fun q => { q with
                  nextSeq := (q.nextSeq + 1) % 2 ^ 32,
                  prims := if dies.isEmpty then q.prims else q.prims ++ [{
                    seq := st.nextSeq, vs := r.1, cull := r.2.1, pid := r.2.2, dies := dies.map (fun d => (d, 0)) }] })
                emits (e.putWd (wd st.nextSeq))
                return .done
        | _ => return .trap (mkTrap 10 0x10 e.ex)) s

/-- `prim.close` (R326, R335). -/
def execPrimClose (f : Fields) (s : State) : Host.Outcome State Fault Refusal :=
  issue (.primClose f) f (fun e => do
    match e.myStream with
    | none => return .trap (mkTrap 10 0x90 e.ex)
    | some st => do
      modStream st.id (fun q => { q with closing := true, markerDies := List.range 8 })
      return .done) s

/-- The consumer of a stream number on a die. -/
def Ctl.binding (c : Ctl) (rctx num die : Nat) : Option Binding :=
  c.binds.find? (fun b => b.rctx == rctx && b.num == num && b.die == die)

/-- `ptile.bind` (R335). -/
def execPtileBind (f : Fields) (s : State) : Host.Outcome State Fault Refusal :=
  issue (.ptileBind f) f (fun e => do
    match e.s.ctl.binding e.t.rctx e.sNum e.t.die with
    | some b => do
      emits (e.putWd (if b.team = e.uid then 0 else 1))
      return .done
    | none => do
      modC (fun c => { c with binds := c.binds ++ [{ rctx := e.t.rctx, num := e.sNum, die := e.t.die, team := e.uid }] })
      emits (e.putWd 0)
      return .done) s

/-- The tile queue of a binding. -/
def Ctl.queueOf (c : Ctl) (b : Binding) : List RTile :=
  c.rtiles.filter (fun x => x.state == .queued && x.rctx == b.rctx && x.num == b.num && x.die == b.die)

/-- A die has passed a stream's end marker (R326). -/
def passMarker (stream die : Nat) : M Unit := do
  modStream stream (fun q => { q with markerDies := q.markerDies.filter (fun d => d != die) })
  modC Ctl.freeStreams

/-- A binding ends with its consumer team (R326): queued tiles are retired unapplied, a queued marker is consumed. -/
def endBinding (b : Binding) : M Unit := do
  let q := (← getC).queueOf b
  modC (fun c => { c with
    binds := c.binds.filter (fun x => x != b)
    rtiles := c.rtiles.filter (fun x => !q.any (fun y => y.id == x.id)) })
  forEach (q.filter (·.marker)) (fun m => passMarker m.stream b.die)

/-- `ptile` (R335): the group's tile is retired first, and the path waits for a tile or the end marker. -/
def execPtile (f : Fields) (s : State) : Host.Outcome State Fault Refusal :=
  issue (.ptile f) f (fun e => do
    retireTile e.uid e.g.who
    let c ← getC
    match c.binding e.t.rctx e.sNum e.t.die with
    | none => do
      emits (e.putWd allOnes)
      return .done
    | some b =>
      if b.team ≠ e.uid then do
        emits (e.putWd allOnes)
        return .done
      else
        match c.queueOf b with
        | [] => return .await
        | x :: _ =>
          if x.marker then do
            modC (fun c => { c with binds := c.binds.filter (fun y => y != b), rtiles := c.rtiles.filter (fun y => y.id != x.id) })
            passMarker x.stream e.t.die
            emits (e.putWd allOnes)
            return .done
          else do
            modC (fun c => { c with rtiles := c.rtiles.map (fun y => if y.id == x.id then { y with state := .held } else y) })
            modGroup e.uid e.g.who (fun g => { g with tile := some { stream := x.stream, tile := x.id } })
            emits (e.putWd (wd (x.pid.toNat * 2 ^ 32 + x.b * 2 ^ 24 + x.ty * 2 ^ 12 + x.tx)))
            return .done) s

/-- `ptile.done` (R335). -/
def execPtileDone (f : Fields) (s : State) : Host.Outcome State Fault Refusal :=
  issue (.ptileDone f) f (fun e => do
    retireTile e.uid e.g.who
    return .done) s

/-- The tiles of a primitive on a die, in order: (b, ty, tx) (R328). -/
def Stream.tilesOn (s : Stream) (p : Prim) (die : Nat) : List (Nat × Nat × Nat) :=
  match boxOf p.vs s.w s.h s.nv with
  | none => []
  | some (x0, x1, y0, y1) =>
    ((List.range ((s.nv + 63) / 64)).map (fun b =>
      ((List.range (y1 / 8 + 1 - y0 / 8)).map (fun j =>
        (List.range (x1 / 8 + 1 - x0 / 8)).filterMap (fun i =>
          let tx := x0 / 8 + i
          let ty := y0 / 8 + j
          if regionOf s.w (8 * tx) (8 * ty) % 8 = die ∧
              (List.range 64).any (fun q => (List.range 64).any (fun v =>
                covered p.vs p.cull s.w s.h s.nv (8 * tx + q % 8) (8 * ty + q / 8) (64 * b + v) 1 ||
                covered p.vs p.cull s.w s.h s.nv (8 * tx + q % 8) (8 * ty + q / 8) (64 * b + v) (-1))) then
            some (b, ty, tx)
          else none))).flatten)).flatten

/-- A tile of a primitive. -/
def Stream.tileOf (s : Stream) (p : Prim) (die id : Nat) (x : Nat × Nat × Nat) : RTile :=
  { id := id, stream := s.id, rctx := s.rctx, num := s.num, die := die, seq := p.seq, tx := x.2.2, ty := x.2.1, b := x.1,
    marker := false, vs := p.vs, cull := p.cull, pid := p.pid, w := s.w, h := s.h, nv := s.nv, fbo := s.fbo,
    vbo := s.vbo, state := .queued }

/-- An end marker in a tile queue. -/
def Stream.markerOf (s : Stream) (die id : Nat) : RTile :=
  { id := id, stream := s.id, rctx := s.rctx, num := s.num, die := die, seq := s.nextSeq, tx := 0, ty := 0, b := 0,
    marker := true, vs := [], cull := 0, pid := 0, w := s.w, h := s.h, nv := s.nv, fbo := s.fbo, vbo := s.vbo,
    state := .queued }

/-- A die's part of a primitive is swept: its place in the stream's list goes when no die has it left. -/
def Stream.swept (s : Stream) (seq die : Nat) (emitted : Option Nat) : Stream :=
  { s with prims := (s.prims.map (fun p =>
      if p.seq == seq then
        { p with dies := match emitted with
            | some n => p.dies.map (fun d => if d.1 == die then (die, n) else d)
            | none => p.dies.filter (fun d => d.1 != die) }
      else p)).filter (fun p => !p.dies.isEmpty) }

/-- The end marker reaches a die: into its consumer's queue, or consumed at once where there is none (R326). -/
def markerAt (s : Stream) (die : Nat) : M Unit := do
  let c ← getC
  match c.binding s.rctx s.num die with
  | none => passMarker s.id die
  | some b =>
    let q := c.queueOf b
    if 64 ≤ q.length ∨ q.any (fun x => x.marker && x.stream == s.id) then pure ()
    else do
      let id ← freshId
      modC (fun c => { c with rtiles := c.rtiles ++ [s.markerOf die id] })

/-- A die takes the next record of a stream and emits its tiles as far as the consumer's queue has room, or takes the
end marker (PRIM_RECORD_SWEEP; R327, R328). -/
def execPrimRecordSweep (die : Nat) (rctx stream : Nat) (s : State) : Host.Outcome State Fault Refusal :=
  event (do
    let c ← getC
    match c.stream rctx stream with
    | none => pure ()
    | some st =>
      if c.stalled st.die die then pure ()
      else
        match st.prims.find? (fun p => p.dies.any (fun d => d.1 == die)) with
        | none => if st.closing ∧ st.markerDies.contains die then markerAt st die else pure ()
        | some p =>
          let done := ((p.dies.find? (fun d => d.1 == die)).map (·.2)).getD 0
          let ts := (st.tilesOn p die).drop done
          let room := match c.binding rctx stream die with
            | none => 0
            | some b => 64 - (c.queueOf b).length
          let now := ts.take room
          forEach now (fun x => do
            let id ← freshId
            modC (fun c => { c with rtiles := c.rtiles ++ [st.tileOf p die id x] }))
          modStream st.id (fun q => q.swept p.seq die (if ts.length ≤ room then none else some (done + now.length)))) s

/-- The tile that the group holds. -/
def Env.tile (e : Env) : Option RTile :=
  e.g.tile.bind (fun r => e.s.ctl.rtiles.find? (fun x => x.id == r.tile))

/-- An instruction on the tile state (R337, R338); on no lane it does nothing, and no lane traps (R8). -/
def Env.onTile (e : Env) (body : RTile → M Res) : M Res :=
  match e.tile with
  | some t => body t
  | none => pure (if e.ex = 0 then .push (List.replicate e.gw 0) else .trap (mkTrap 10 0x91 e.ex))

/-- The pixel that a lane names. -/
def Env.pixel (e : Env) (lane : Nat) : Nat := e.n32 e.f.sa.toNat lane % 64

/-- Updates and latch values of an instruction as its end. -/
def Out.res (o : Out) : M Res := do
  emits o.upds
  return .push o.lat

/-- `edge` (R337). -/
def execEdge (f : Fields) (s : State) : Host.Outcome State Fault Refusal :=
  issue (.edge f) f (fun e => e.onTile (fun t =>
    (e.alu 64 false true (fun l =>
      let gv := 64 * t.b + e.n32 f.sb.toNat l % 64
      let k := mfld f 1 0
      let x := t.px (e.pixel l)
      let y := t.py (e.pixel l)
      (wrapInt 64 (if k = 3 then areaAt t.vs x y gv else edgeAt t.vs x y gv k), 0))).res)) s

/-- A result for view-interval register n of each executing lane; it goes to the latch too. -/
def Env.viOut (e : Env) (n : Nat) (g : Nat → Nat) : M Res := do
  let ls := lanesOf e.ex e.gw
  onlyIf (!e.f.ws)
    (emits (ls.map (fun l => .reg32 .vi (viKey e.uid e.g.who.idx l n) (BitVec.ofNat 32 (g l)))))
  return .push ((List.range e.gw).map (fun l => if e.ex.getLsbD l then wd (g l) else 0))

/-- View-interval register n of a lane. -/
def Env.vi (e : Env) (n lane : Nat) : Nat := (e.s.vi.get (viKey e.uid e.g.who.idx lane n)).toNat

/-- `edgev` (R337). -/
def execEdgev (f : Fields) (s : State) : Host.Outcome State Fault Refusal :=
  issue (.edgev f) f (fun e => e.onTile (fun t =>
    let sgn : Int := if f.mod.getLsbD 0 then -1 else 1
    e.viOut (f.dst.toNat - 328) (fun l => intervalOf ((List.range 64).filter (fun v => t.cov (e.pixel l) v sgn))))) s

/-- `vmask` (R337). -/
def execVmask (f : Fields) (s : State) : Host.Outcome State Fault Refusal :=
  issue (.vmask f) f (fun e => e.onTile (fun _ =>
    (e.alu 64 false true (fun l => ((intervalMask (e.vi (f.sa.toNat - 328) l)).toNat, 0))).res)) s

/-- The word that `vimov` puts into a view-interval register (R337). -/
def toInterval (x : Nat) : Nat :=
  if bitOf x 16 || decide (fld x 13 8 < fld x 5 0) then 0x10000 else x &&& 0x3F3F

/-- `vimov` (R337). -/
def execVimov (f : Fields) (s : State) : Host.Outcome State Fault Refusal :=
  issue (.vimov f) f (fun e => e.onTile (fun _ =>
    if f.mod.getLsbD 0 then e.viOut (f.dst.toNat - 328) (fun l => toInterval (e.v f.sa.toNat l))
    else (e.alu 32 false false (fun l => (e.vi (f.sa.toNat - 328) l, 0))).res)) s

/-- Hand an instruction's lanes to the raster output (R338). -/
def Env.handOver (e : Env) (t : RTile) (op : ROp) (colour : Nat → BitVec 32) (sink : Nat → Sink) : M Res := do
  let ls := lanesOf e.ex e.gw
  if ls.isEmpty then return .done
  else do
    let id ← freshId
    let m (l : Nat) : Word := e.opnd e.f.sb.toNat l true 0 &&& t.mask (e.pixel l)
    modC (fun c => { c with rents := c.rents ++ [{
      id := id, die := t.die, team := e.uid, who := e.g.who, pid := e.p.pid, tile := t.id, op := op,
      lanes := ls.map (fun l => (l, e.pixel l, m l, colour l, sink l)), waits := [] }] })
    return .done

/-- `zview` (R338). -/
def execZview (f : Fields) (s : State) : Host.Outcome State Fault Refusal :=
  issue (.zview f) f (fun e => e.onTile (fun t =>
    e.handOver t (.zview (mfld f 5 4) (f.mod.getLsbD 3)) (fun _ => 0) (fun l => e.sinkFor l 64 false true))) s

/-- `rop.w` (R338). -/
def execRopW (f : Fields) (s : State) : Host.Outcome State Fault Refusal :=
  issue (.ropW f) f (fun e => e.onTile (fun t =>
    e.handOver t .ropw (fun l => BitVec.ofNat 32 (e.n32 f.sc.toNat l)) (fun _ => .none))) s

/-- `rop.rel` (R218, R338): a release, and the arrival that the raster output makes after it. -/
def execRopRel (f : Fields) (s : State) : Host.Outcome State Fault Refusal :=
  issue (.ropRel f) f (fun e => e.onWord (fun l => do
    let c ← getC
    let id ← freshId
    appendEntry { e.entry id id (.fin .nothing) [] with rel := true, scope := if l.sp == .tm then 1 else 3 }
    let rid ← freshId
    let lane := (lowest e.ex).getD 0
    modC (fun d => { d with rents := d.rents ++ [{
      id := rid, die := e.t.die, team := e.uid, who := e.g.who, pid := e.p.pid, tile := rid, op := .rel l e.barOff lane,
      lanes := [],
      waits := id :: (c.rents.filter (fun r => r.team == e.uid && r.who == e.g.who && r.lanes != [])).map (·.id) }] })
    return .done)) s

/-- An entry of the raster output must wait (R333): for an earlier entry of its tile, or for an earlier tile of its
screen tile that is unretired or has entries left. -/
def Ctl.ropBehind (c : Ctl) (r : REntry) (t : RTile) : Bool :=
  (c.rents.takeWhile (fun x => x.id != r.id)).any (fun x => x.tile == t.id && x.lanes != []) ||
  c.rtiles.any (fun x => decide (x.id < t.id) && !x.marker && x.stream == t.stream && x.die == t.die && x.tx == t.tx &&
    x.ty == t.ty && x.b == t.b && (x.state != .retired || c.rents.any (fun q => q.tile == x.id)))

/-- Whether a depth passes a test against a stored one (R338). -/
def depthPass (op z old : Nat) : Bool :=
  let o := fcompare (f32.unpack z) (f32.unpack old)
  if op = 0 then o == some .lt else if op = 1 then o == some .lt || o == some .eq else true

/-- A cell of a buffer, if it lies in the die's pool. -/
def RTile.cellLoc (t : RTile) (base cell : Nat) : Option Loc :=
  if base + 4 * cell + 4 ≤ 2 ^ 27 then some (dpLoc t.die (base + 4 * cell)) else none

/-- One lane of an entry is applied: what `zview` returns (R338). -/
def applyLane (t : RTile) (op : ROp) (x : Nat × Nat × Word × BitVec 32 × Sink) : List Nat → M (List Nat)
  | [] => pure []
  | v :: r => do
    let gv := 64 * t.b + v
    let cell := cellOf t.w t.nv (t.px x.2.1) (t.py x.2.1) gv
    match op with
    | .zview k w => do
      let s ← getS
      let z := depthAt t.vs (t.px x.2.1) (t.py x.2.1) gv
      let old ← (match t.cellLoc t.vbo cell with
        | some l => pure (s.load l 4)
        | none => do
          let y ← drawFree
          pure (y.toNat % 2 ^ 32))
      let ok := depthPass k z old
      match t.cellLoc t.vbo cell with
      | some l => onlyIf (ok && w) (do
          storeN l z 4
          modC (fun c => c.dropOpAt l 4))
      | none => pure ()
      let rest ← applyLane t op x r
      return if ok then v :: rest else rest
    | .ropw => do
      match t.cellLoc t.fbo cell with
      | some l => do
        storeN l x.2.2.2.1.toNat 4
        modC (fun c => c.dropOpAt l 4)
      | none => pure ()
      applyLane t op x r
    | .rel _ _ _ => return []

/-- A die's raster output applies an entry (RASTER_APPLY; R333, R338). -/
def execRasterApply (id : Nat) (s : State) : Host.Outcome State Fault Refusal :=
  event (do
    let c ← getC
    match c.rents.find? (fun r => r.id == id && r.lanes != []) with
    | none => pure ()
    | some r =>
      match c.rtiles.find? (fun t => t.id == r.tile) with
      | none => pure ()
      | some t =>
        if c.ropBehind r t then pure ()
        else do
          forEach r.lanes (fun x => do
            let vs ← applyLane t r.op x (lanesOf x.2.2.1 64)
            landSink r.team x.2.2.2.2 (maskOf vs))
          modC (fun c =>
            let d : Ctl := { c with rents := c.rents.filter (fun q => q.id != id) }
            { d with rtiles := d.rtiles.filter (fun x => x.state != .retired || d.rents.any (fun q => q.tile == x.id)) })) s

/-- A raster output serves a `rop.rel` (ROP_REL_SERVE; R338): it counts into the word, or records ENGINE 0x14 when the
word is no longer bound. -/
def execRopRelServe (id : Nat) (s : State) : Host.Outcome State Fault Refusal :=
  event (do
    let c ← getC
    match c.rents.find? (fun r => r.id == id) with
    | none => pure ()
    | some r =>
      match r.op with
      | .rel l off lane =>
        if r.waits.any (fun w => c.entries.any (fun e => e.id == w) || c.rents.any (fun q => q.id == w)) then pure ()
        else do
          modC (fun c => { c with rents := c.rents.filter (fun q => q.id != id) })
          if (c.barAt l).isSome then countInto l 1 0 r.team r.who.idx
          else recordFault r.team r.who.idx lane 0x1C 0x14 3 (wd off)
      | _ => pure ()) s

end Sys2Proof.Machine
end

