-- ==== Sys2Proof/Machine/Rings.lean ====
section
/-! DEFINITION. Message rings, major 0x1D, and the moves of their messages (R285 to R296). -/

namespace Sys2Proof.Machine

/-- Ring r of a team. -/
def Ctl.ring (c : Ctl) (uid r : Nat) : Option Ring := c.rings.find? (fun x => x.team == uid && x.r == r)

/-- TAIL of a ring. -/
def State.tail (s : State) (x : Ring) : Nat := s.load x.loc 4

/-- HEAD of a ring. -/
def State.head (s : State) (x : Ring) : Nat := s.load (x.loc.plus 4) 4

/-- Messages in a ring. -/
def State.ringCount (s : State) (x : Ring) : Nat := (s.tail x + 2 ^ 32 - s.head x) % 2 ^ 32

/-- Send credits of a team that are out (R292). -/
def Ctl.creditsOut (c : Ctl) (uid : Nat) : Nat := (c.msgs.filter (fun m => m.team == uid)).length

/-- Send credits of a team (R292). -/
def Team.credits (t : Team) : Nat := if t.hdr.pair then 32 else 16

/-- A send credit is free. -/
def Ctl.creditFree (c : Ctl) (uid : Nat) : Bool := decide (c.creditsOut uid < (c.team uid).credits)

/-- DEVID of a destination word (R290). -/
def devOf (dst : Word) : Nat := wfld dst 63 44

/-- `msend` (R293, R295): a releasing send leaves once its release has. -/
def execMsend (f : Fields) (s : State) : Host.Outcome State Fault Refusal :=
  issue (.msend f) f (fun e => do
    let dst := e.usrc f.sa.toNat
    let c := e.s.ctl
    if wfld dst 43 40 ≠ 0 ∨ wfld dst 36 12 ≠ 0 then return .trap (mkTrap 10 0x72 e.ex)
    else if !c.creditFree e.uid then return .park .credit dst
    else do
      let id ← freshId
      let rel := f.mod.getLsbD 5
      let m : Msg := {
        id := id, team := e.uid, who := e.g.who, lane := (lowest e.ex).getD 0, domain := (c.ctx e.t.rctx).domain, dst := dst,
        die := e.t.die, bytes := ((List.range 8).map (fun j => bytesOf (e.w (f.sb.toNat - 256 + j)).toNat 8)).flatten,
        cluster := e.t.cluster, sent := !rel, held := false, stored := false, dead := false }
      modC (fun c => { c with msgs := c.msgs ++ [m] })
      onlyIf rel (e.appendFin true (if devOf dst = c.host.devid.toNat then 4 else 5) (.send id))
      return .done) s

/-- An instruction on a registered ring (R295). -/
def Env.onRing (e : Env) (body : Ring → M Res) : M Res :=
  match e.s.ctl.ring e.uid (scfld e.f 3 0) with
  | some x => body x
  | none => pure (.trap (mkTrap 10 0x71 e.ex))

/-- `mwait` (R295). -/
def execMwait (f : Fields) (s : State) : Host.Outcome State Fault Refusal :=
  issue (.mwait f) f (fun e => e.onRing (fun x => do
    if e.s.ringCount x = 0 then return .park (.ring x.r) (wd x.r)
    else do
      emits (e.putWd (wd (e.s.tail x)))
      return .done)) s

/-- `mack` (R295). -/
def execMack (f : Fields) (s : State) : Host.Outcome State Fault Refusal :=
  issue (.mack f) f (fun e => e.onRing (fun x => do
    let k := (e.usrc f.sb.toNat).toNat % 2 ^ 32
    if e.s.ringCount x < k then return .trap (mkTrap 10 0x73 e.ex)
    else do
      let h := (e.s.head x + k) % 2 ^ 32
      storeN (x.loc.plus 4) h 4
      emits (e.putWd (wd h))
      return .done)) s

/-- The lowest ring number that a team has free. -/
def Ctl.freeRing (c : Ctl) (uid : Nat) : Option Nat := (List.range 16).find? (fun r => (c.ring uid r).isNone)

/-- The header of a ring that is registered: HEAD and TAIL zero, then LOG, RNUM and PORT (R289). -/
def ringWords (log r port : Nat) : List Byte :=
  bytesOf 0 8 ++ bytesOf (log * 2 ^ 16 + r * 2 ^ 12 + port) 8 ++ List.replicate 48 0

/-- `mack.reg` (R295): it waits while something on its way writes the region. -/
def execMackReg (f : Fields) (s : State) : Host.Outcome State Fault Refusal :=
  issue (.mackReg f) f (fun e => do
    let c := e.s.ctl
    let sp := mfld f 5 4
    let b := (e.usrc f.sa.toNat).toNat % 2 ^ 32
    let g := e.usrc f.sb.toNat
    let log := wfld g 19 16
    let n := 64 + 64 * 2 ^ log
    let dom := (c.ctx e.t.rctx).domain
    if b % 64 ≠ 0 then return .trap (mkTrap 8 0 e.ex)
    else
      match classify c e.t sp b n with
      | .selv => return .trap (mkTrap 10 0x10 e.ex)
      | .out k => return .trap (mkTrap 10 k e.ex)
      | .data l =>
        if log = 0 ∨ 12 < log then return .trap (mkTrap 10 0x74 e.ex)
        else
          match c.freeRing e.uid with
          | none => do
            emits (e.putWd 0x101)
            return .done
          | some r =>
            if c.rings.any (fun x => x.die == e.t.die && x.domain == dom && x.port == wfld g 11 0) then do
              emits (e.putWd 0x102)
              return .done
            else if c.entryAt l 64 then return .hold
            else do
              storeBytes l (ringWords log r (wfld g 11 0))
              modC (fun c => { c with rings := c.rings ++ [{ team := e.uid, r := r, die := e.t.die, loc := l, log := log,
                                                             port := wfld g 11 0, domain := dom }] })
              emits (e.putWd (wd r))
              return .done) s

/-- A message is addressed to this ring of the device (R290). -/
def Ctl.addressed (c : Ctl) (m : Msg) (x : Ring) : Bool :=
  m.sent && !m.dead && devOf m.dst == c.host.devid.toNat && x.die == wfld m.dst 39 37 && x.port == wfld m.dst 11 0 &&
    x.domain == m.domain

/-- Paths of a team that wait on a ring take PROT 0x71 instead (R295). -/
def Team.doomRing (t : Team) (r : Nat) : Team :=
  let f (p : Path) : Path :=
    match p.park with
    | some k => if k.kind == .ring r then { p with park := some { k with doom := some (mkTrap 10 0x71 k.ex) } } else p
    | none => p
  let h (g : Group) : Group := { g with paths := g.paths.map f }
  { t with groups := t.groups.map h, bobbin := t.bobbin.map h }

/-- A ring is dropped: messages that were held for it are to be returned (R292, R295). -/
def dropRing (x : Ring) : M Unit := do
  modC (fun c => { c with
    rings := c.rings.filter (fun y => !(y.team == x.team && y.r == x.r))
    msgs := c.msgs.map (fun m => if (m.held || m.stored) && c.addressed m x then { m with dead := true } else m) })
  modTeam x.team (fun t => t.doomRing x.r)

/-- `mack.drop` (R295). -/
def execMackDrop (f : Fields) (s : State) : Host.Outcome State Fault Refusal :=
  issue (.mackDrop f) f (fun e => e.onRing (fun x => do
    dropRing x
    return .done)) s

/-- Two messages travel the same way: from one cluster to one die of one device (R288). -/
def Msg.sameWay (a b : Msg) : Bool :=
  a.cluster == b.cluster && devOf a.dst == devOf b.dst && wfld a.dst 39 37 == wfld b.dst 39 37

/-- An earlier message that travels the same way has still to arrive (R288). -/
def Ctl.msgBehind (c : Ctl) (m : Msg) : Bool :=
  (c.msgs.takeWhile (fun x => x.id != m.id)).any (fun x => x.sent && !x.held && !x.stored && x.sameWay m)

/-- An earlier message of the same source for the same ring has arrived and is still to be appended (R291). -/
def Ctl.heldBehind (c : Ctl) (m : Msg) : Bool :=
  (c.msgs.takeWhile (fun x => x.id != m.id)).any (fun x => (x.held || x.stored) && !x.dead && x.cluster == m.cluster &&
    x.dst == m.dst && x.domain == m.domain)

/-- A message leaves, and its sender has its credit back. -/
def dropMsg (id : Nat) : M Unit := modC (fun c => { c with msgs := c.msgs.filter (fun m => m.id != id) })

/-- The ring that a message reaches: none where there is none, or its team retires (R292, R32). -/
def Ctl.ringFor (c : Ctl) (m : Msg) : Option Ring :=
  c.rings.find? (fun x => c.addressed m x && (c.team x.team).phase != .retiring)

/-- Messages that a die's inbox holds (R291). -/
def inboxSize : Nat := 256
/-- How many a die's inbox holds now. -/
def Ctl.inboxCount (c : Ctl) (die : Nat) : Nat :=
  (c.msgs.filter (fun m => m.held && devOf m.dst == c.host.devid.toNat && wfld m.dst 39 37 == die)).length

/-- The entry of a ring that its next message takes. -/
def State.entryOf (s : State) (x : Ring) : Loc := x.loc.plus (64 + 64 * (s.tail x % 2 ^ x.log))

/-- The network interface of a die can write the next entry of a ring (R291): the ring has room, its team is not saved, the
entry's line is not pinned, and no message of the die is half appended. -/
def State.ringTakes (s : State) (x : Ring) : Bool :=
  decide (s.ringCount x < 2 ^ x.log) && !(x.loc.sp == .tm && s.ctl.pinned (s.entryOf x)) &&
    ((s.ctl.team x.team).phase == .running || (s.ctl.team x.team).phase == .saving) &&
    !s.ctl.msgs.any (fun m => m.stored && wfld m.dst 39 37 == x.die)

/-- Change a message. -/
def modMsg (id : Nat) (f : Msg → Msg) : M Unit :=
  modC (fun c => { c with msgs := c.msgs.map (fun m => if m.id == id then f m else m) })

/-- The bytes of a message are in their entry: TAIL advances, and the sender's credit returns (R291). -/
def advanceTail (x : Ring) (msg : Nat) : M Unit := do
  let s ← getS
  storeN x.loc ((s.tail x + 1) % 2 ^ 32) 4
  dropMsg msg

/-- A message goes on (RING_APPEND; R288, R291): another device accepts it; or it arrives, its 64 bytes are written, and in a
later step TAIL advances. One that its ring cannot take is held in the die's inbox; where that is full, whatever arrives waits
in the routers. -/
def execRingAppend (msg : Nat) (s : State) : Host.Outcome State Fault Refusal :=
  event (do
    let s ← getS
    let c := s.ctl
    match c.msgs.find? (fun m => m.id == msg && m.sent && !m.dead) with
    | none => pure ()
    | some m =>
      if !m.held && !m.stored && c.msgBehind m then pure ()
      else if devOf m.dst ≠ c.host.devid.toNat then
        onlyIf ((c.fabricDie (devOf m.dst)).isSome && !c.fabricStalled m.die (devOf m.dst)) (dropMsg msg)
      else
        match c.ringFor m with
        | none => pure ()
        | some x =>
          if m.stored then advanceTail x msg
          else if !m.held && (c.stalled m.die x.die || decide (inboxSize ≤ c.inboxCount x.die)) then pure ()
          else if s.ringTakes x && !c.heldBehind m then do
            keepOld (s.entryOf x) 64
            storeBytes (s.entryOf x) m.bytes
            modMsg msg (fun m => { m with held := false, stored := true })
          else modMsg msg (fun m => { m with held := true })) s

/-- Why a message cannot be delivered (R292): its subcause. -/
def Ctl.undeliverable (c : Ctl) (m : Msg) : Option Nat :=
  if devOf m.dst = c.host.devid.toNat then (if m.dead || (c.ringFor m).isNone then some 0x20 else none)
  else if (c.fabricDie (devOf m.dst)).isNone then some 0x21
  else if c.fabricStalled m.die (devOf m.dst) then none else some 0x20

/-- A die boundary on the way of an undeliverable message there, if it has still to arrive, or back to its source retrains
(R288). -/
def Ctl.returnStalled (c : Ctl) (m : Msg) : Bool :=
  let d := wfld m.dst 39 37
  decide (devOf m.dst = c.host.devid.toNat) && ((!m.held && !m.stored && c.stalled m.die d) || c.stalled d m.die)

/-- A message comes back undelivered, and its fault is recorded (RING_RETURN; R292). Whether another device has the
ring is not known here. -/
def execRingReturn (msg : Nat) (s : State) : Host.Outcome State Fault Refusal :=
  event (do
    let c ← getC
    match c.msgs.find? (fun m => m.id == msg && m.sent) with
    | none => pure ()
    | some m =>
      if (!m.held && !m.stored && c.msgBehind m) || c.returnStalled m then pure ()
      else
        match c.undeliverable m with
        | none => pure ()
        | some b => do
          dropMsg msg
          recordFault m.team m.who.idx m.lane 0x1C b 0 m.dst) s

end Sys2Proof.Machine
end

