-- ==== Sys2Proof/Machine/Launch.lean ====
section
/-! DEFINITION. Launch headers (R26 to R29), the shares of cores and dies (R24, R25, R30, R263, R364), and the start of a
team (R31, R262, R364, R378). -/

namespace Sys2Proof.Machine

/-- A role from its two words (R27). -/
def roleOf (a b : Word) : Role := { entry := a, ngrp := wfld b 23 16, gwc := wfld b 9 8, regc := wfld b 4 0 }

/-- A header from its 16 words (R26). -/
def headerOf (ws : List Word) : Header :=
  let g (i : Nat) : Word := ws.getD i 0
  let w := g 0
  { aff := wfld w 63 56, nbar := wfld w 47 40, bob := w.getLsbD 36, pair := w.getLsbD 35, tmem := wfld w 12 0,
    bobEntry := g 1, dpool := wfld (g 2) 15 0,
    roles := (List.range (wfld w 33 32 + 1)).map (fun i => roleOf (g (8 + 2 * i)) (g (9 + 2 * i))) }

/-- A role word has a bit that must be zero, or a malformed field (R27). -/
def badRole (a b : Word) : Bool :=
  wfld a 4 0 != 0 || wfld b 63 24 != 0 || wfld b 15 10 != 0 || wfld b 7 5 != 0 || wfld b 23 16 == 0 || wfld b 9 8 == 3

/-- BADHDR (R29). -/
def badHeader (ws : List Word) : Bool :=
  let g (i : Nat) : Word := ws.getD i 0
  let w := g 0
  wfld w 55 48 != 0 || wfld w 39 37 != 0 || wfld w 34 34 != 0 || wfld w 31 13 != 0 || wfld (g 1) 4 0 != 0 ||
    (!w.getLsbD 36 && g 1 != 0) || wfld (g 2) 63 16 != 0 || (List.range 5).any (fun i => g (3 + i) != 0) ||
    (List.range (wfld w 33 32 + 1)).any (fun i => badRole (g (8 + 2 * i)) (g (9 + 2 * i)))

/-- The role of each group, in team order (R28). -/
def Header.groupRoles (h : Header) : List (Nat × Role) :=
  (((List.range h.roles.length).zip h.roles).map (fun r => List.replicate r.2.ngrp r)).flatten

/-- Lanes of a role's groups. -/
def Role.width (r : Role) : Nat := 16 * 2 ^ r.gwc

/-- Registers per lane. -/
def Role.regs (r : Role) : Nat := 8 * (r.regc + 1)

/-- Slots over which groups are placed (R28). -/
def Header.slots (h : Header) : Nat := if h.pair then 8 else 4

/-- The roles of the groups that lie in a slot. -/
def Header.inSlot (h : Header) (k : Nat) : List Role :=
  let gs := h.groupRoles
  ((List.range gs.length).filter (fun g => g % h.slots == k)).filterMap (fun g => (gs[g]?).map (·.2))

/-- Register bytes in a slot. -/
def Header.slotBytes (h : Header) (k : Nat) : Nat := ((h.inSlot k).map (fun r => r.regs * r.width * 4)).sum

/-- The status of a header (R29), with the number of teams. -/
def hdrStatus (ws : List Word) (teams : Nat) : Nat :=
  let h := headerOf ws
  let ks := List.range h.slots
  if badHeader ws then 1
  else if (if h.pair then 32 else 16) < h.groupRoles.length ∨ ks.any (fun k => decide (16 < (h.inSlot k).length)) then 2
  else if ks.any (fun k => decide (131072 < h.slotBytes k)) then 3
  else if (if h.pair then 6142 else 3070) < h.tmem then 4
  else if (if h.pair then 128 else 64) < h.nbar then 5
  else if 30719 < h.dpool then 6
  else if teams = 0 then 7
  else 0

/-- Shares of one core (R24). groups and regs: by slot. -/
structure Use where
  teams : Nat
  bobs : Nat
  bars : Nat
  tm : Nat
  groups : List Nat
  regs : List Nat
deriving DecidableEq, Repr

/-- No shares. -/
def Use.zero : Use := { teams := 0, bobs := 0, bars := 0, tm := 0, groups := [0, 0, 0, 0], regs := [0, 0, 0, 0] }

/-- Shares together. -/
def Use.add (a b : Use) : Use :=
  { teams := a.teams + b.teams, bobs := a.bobs + b.bobs, bars := a.bars + b.bars, tm := a.tm + b.tm,
    groups := (List.range 4).map (fun i => a.groups.getD i 0 + b.groups.getD i 0),
    regs := (List.range 4).map (fun i => a.regs.getD i 0 + b.regs.getD i 0) }

/-- Within the inventory of a core. -/
def Use.le (a b : Use) : Bool :=
  decide (a.teams ≤ b.teams) && decide (a.bobs ≤ b.bobs) && decide (a.bars ≤ b.bars) && decide (a.tm ≤ b.tm) &&
    (List.range 4).all (fun i => decide (a.groups.getD i 0 ≤ b.groups.getD i 0) && decide (a.regs.getD i 0 ≤ b.regs.getD i 0))

/-- The inventory of a core (R24). -/
def Use.core : Use :=
  { teams := 8, bobs := 8, bars := 64, tm := 786432, groups := [16, 16, 16, 16],
    regs := [131072, 131072, 131072, 131072] }

/-- One reserve unit (R263). -/
def Use.unit : Use :=
  { teams := 1, bobs := 1, bars := 8, tm := 65536, groups := [4, 4, 4, 4], regs := [32768, 32768, 32768, 32768] }

/-- What a header takes of its even core (odd = false) or its odd core, with the given barrier objects (R24, R25). -/
def Header.use (h : Header) (odd : Bool) (bars : Nat) : Use :=
  let tm := if h.tmem = 0 then 0 else h.tmem * 256 + 512
  let k (i : Nat) : Nat := if odd then i + 4 else i
  { teams := 1, bobs := if h.bob && !odd then 1 else 0, bars := bars,
    tm := if odd then tm - 786432 else if h.pair then min tm 786432 else tm,
    groups := (List.range 4).map (fun i => (h.inSlot (k i)).length),
    regs := (List.range 4).map (fun i => h.slotBytes (k i)) }

/-- A team holds shares: from its start until it is saved or released (R24). -/
def Team.holds (t : Team) : Bool :=
  match t.phase with
  | .running | .saving | .retiring => true
  | _ => false

/-- What a team takes of a core of its die. -/
def Team.useOf (t : Team) (core : Nat) : Use :=
  if t.core = core then t.hdr.use false t.barEven
  else if t.hdr.pair ∧ t.core + 1 = core then t.hdr.use true (t.hdr.nbar - t.barEven)
  else Use.zero

/-- The core of a reserve unit: units 0 to 15 on distinct clusters; where they lie is the device's choice (R263). -/
def unitCore (u : Nat) : Nat := 4 * (u % 16) + u / 16

/-- A generator or shading team holds the unit. -/
def Ctl.unitHeld (c : Ctl) (die u : Nat) : Bool := c.teams.any (fun t => t.die == die && t.unit == some u && t.holds)

/-- Shares of a core that ordinary teams hold. -/
def Ctl.ordinary (c : Ctl) (die core : Nat) : Use :=
  (c.teams.filter (fun t => t.die == die && t.unit.isNone && t.holds)).foldl (fun a t => a.add (t.useOf core)) Use.zero

/-- Units of the reserve whose shares ordinary work may not take: 0 to 7, and others that a generator holds. -/
def Ctl.kept (c : Ctl) (die core : Nat) : Use :=
  ((List.range c.host.nresNow).filter (fun u => unitCore u == core && (decide (u < 8) || c.unitHeld die u))).foldl
    (fun a _ => a.add Use.unit) Use.zero

/-- The shares of a core that are taken for ordinary work. -/
def Ctl.takenOn (c : Ctl) (die core : Nat) : Use := (c.ordinary die core).add (c.kept die core)

/-- Free spill segments of a die: ordinary ones, or those of generators and shading teams (R364). -/
def Ctl.freeSegs (c : Ctl) (rctx die : Nat) (special : Bool) : List Nat :=
  let x := c.ctx rctx
  let all := if special then (List.range c.host.nresNow).map (fun i => x.nseg + i) else List.range x.nseg
  all.filter (fun s => !c.teams.any (fun t => t.rctx == rctx && t.die == die && t.seg == s && t.phase != .claimed))

/-- Where a reservation of a header may lie for ordinary work: below units 0 to 7 (R29, R263). -/
def Ctl.resvFits (c : Ctl) (die : Nat) (h : Header) : List Nat :=
  if h.dpool = 0 then [0] else c.poolFits die (h.dpool * 4096) 256 (2 ^ 27 - 8 * 2 ^ 20)

/-- Barrier objects that a pair takes from its even core; the split is the device's choice (R25). -/
def Ctl.barSplit (c : Ctl) (die core : Nat) (h : Header) : Nat :=
  if h.pair then min h.nbar (64 - (c.takenOn die core).bars) else h.nbar

/-- A core is the even core of a pair of one cluster. -/
def evenCore (core : Nat) : Bool := core % 2 == 0

/-- The compute shares of a header are free on a core or pair. -/
def Ctl.coreFits (c : Ctl) (die core : Nat) (h : Header) : Bool :=
  let b := c.barSplit die core h
  decide (die < 8) && decide (core < 64) && (!h.pair || evenCore core) &&
    ((c.takenOn die core).add (h.use false b)).le Use.core &&
    (!h.pair || ((c.takenOn die (core + 1)).add (h.use true (h.nbar - b))).le Use.core)

/-- Every share of an ordinary team is free (R30, R364). -/
def Ctl.roomFor (c : Ctl) (rctx die core : Nat) (h : Header) : Bool :=
  c.coreFits die core h && (h.aff == 0 || bitOf h.aff die) && !(c.resvFits die h).isEmpty &&
    !(c.freeSegs rctx die false).isEmpty

/-- A reserve unit is free to a generator: no generator holds it, and no ordinary work holds its shares (R263). -/
def Ctl.unitFree (c : Ctl) (die u : Nat) (pool : Bool) : Bool :=
  decide (u < c.host.nresNow) && !c.unitHeld die u &&
    ((c.takenOn die (unitCore u)).add (if u < 8 then Use.zero else Use.unit)).le Use.core &&
    ((decide (u < 8) && !pool) || !(c.poolTaken die).any (fun r => overlap r.1 r.2 (2 ^ 27 - (u + 1) * 2 ^ 20) (2 ^ 20)))

/-- A header fits one reserve unit (R257, R262, R263). -/
def Header.fitsUnit (h : Header) : Bool := !h.pair && (h.use false h.nbar).le Use.unit && decide (h.dpool ≤ 255)

/-- The first byte of a spill segment (R364). -/
def Ctl.segAddr (c : Ctl) (rctx die seg : Nat) : Nat :=
  let x := c.ctx rctx
  (x.segbase.toNat + (die * (x.nseg + c.host.nresNow) + seg) * roundUp (32 * x.gsz + 131072) 65536) % 2 ^ 64

/-- A path at an entry point. -/
def newPath (pc act : Word) : Path :=
  { pid := 0, pc := pc, act := act, fmt := 0, chain := none, lat := [], park := none, born := 0, fence := 0,
    helper := none, hk := [], stalled := false, age := none, prog := none }

/-- A party at its entry (R31). -/
def newGroup (who : Who) (role width regs : Nat) (pc spb : Word) : Group :=
  { who := who, role := role, width := width, regs := regs, paths := [newPath (advPc pc) (gwMask width)], nextPid := 1,
    lastPid := 0, recon := [], ras := [], spilled := [], dsp := spb, inTrap := false, held := 0, gone := 0, retired := false, hits := [],
    faults := [], triggered := false, dqRead := 0, vsr := 0, tile := none, recruit := none, opFence := 0 }

/-- A team that has been claimed and holds nothing yet. -/
def newTeam (uid rctx : Nat) (origin : Origin) (h : Header) (index ixbase ixcount prio : Nat) (frame : List Word)
    (die core : Nat) : Team :=
  { uid := uid, rctx := rctx, origin := origin, hdr := h, index := index, ixbase := ixbase, ixcount := ixcount,
    prio := prio, frame := frame, die := die, core := core, slot := 0, seg := 0, unit := none, barEven := 0, resv := 0,
    phase := .claimed, groups := [], bobbin := none, dq := [], dqBase := 0, signalled := false, fillEnded := false,
    mprio := prio, since := 0, savedAt := 0, drainTo := 0, code := 0, quant := 0, service := none }

/-- The lowest team slot that is free on a core, for a paired team on both of its cores; a paired team takes its slot on both. -/
def Ctl.freeSlot (c : Ctl) (die core : Nat) (pair : Bool) : Nat :=
  let on (t : Team) (k : Nat) : Bool := t.core == k || (t.hdr.pair && t.core + 1 == k)
  ((List.range 16).find? (fun k => !c.teams.any (fun t => t.die == die && t.holds && t.slot == k &&
    (on t core || (pair && on t (core + 1)))))).getD 0

/-- The groups and the bobbin of a team at its start (R28, R31, R364). -/
def Team.populate (t : Team) (segAddr gsz : Nat) : Team :=
  let gs := t.hdr.groupRoles
  { t with
    groups := ((List.range gs.length).zip gs).map (fun g =>
      newGroup (.group g.1) g.2.1 g.2.2.width g.2.2.regs g.2.2.entry (wd (segAddr + g.1 * gsz))),
    bobbin := if t.hdr.bob then some (newGroup .bobbin 0 1 0 t.hdr.bobEntry 0) else none }

/-- The registers of a party at team start (R54, R364, R378): preloads in w0 to w55, `tvec`, and for groups `tfa`, `spb`
and `spl`. -/
def startRegs (uid p : Nat) (frame : List Word) (handler segAddr gsz : Nat) (group : Bool) : List Upd :=
  (List.range 56).map (fun i => .reg64 .w (wKey uid p i) (frame.getD i 0)) ++
  [.csr (csrKey uid p 2) (wd handler)] ++
  (if group then
    [.csr (csrKey uid p 3) (wd (segAddr + 32 * gsz + 4096 * p)), .csr (csrKey uid p 4) (wd (segAddr + p * gsz)),
     .csr (csrKey uid p 5) (wd (segAddr + p * gsz + gsz))]
  else [])

/-- A core, or a pair, leaves its gated state (R155). -/
def Ctl.wake (c : Ctl) (die core : Nat) (pair : Bool) : Ctl :=
  let d := c.stamp die core
  { (if pair then d.stamp die (core + 1) else d) with
    gates := c.gates.filter (fun g => !(g.die == die && (g.core == core || (pair && g.core == core + 1)))) }

/-- A team starts with its shares (R31): unit: the reserve unit it takes; resv: its reservation. -/
def startTeam (t : Team) (seg : Nat) (unit : Option Nat) (resv : Nat) : M Unit := do
  let c ← getC
  let x := c.ctx t.rctx
  let sa := c.segAddr t.rctx t.die seg
  let t1 : Team := { t with
    seg := seg, unit := unit, resv := resv, phase := .running, since := c.cyc, code := c.ver, quant := c.host.quantum * 1800,
    slot := c.freeSlot t.die t.core t.hdr.pair,
    barEven := if unit.isSome then t.hdr.nbar else c.barSplit t.die t.core t.hdr }
  modC fun c => (c.wake t.die t.core t.hdr.pair).sweepFreed
  modC fun c => { c with teams := c.teams.filter (fun y => y.uid != t.uid) ++ [t1.populate sa x.gsz] }
  onlyIf (t.hdr.dpool != 0)
    (do
      emit (.wipe .dp (t.die * 2 ^ 27 + resv - 256) (t.die * 2 ^ 27 + resv + t.hdr.dpool * 4096 + 256))
      modC (fun c => c.dropOpAt (dpLoc t.die resv) (t.hdr.dpool * 4096)))
  forEach (List.range t.hdr.groupRoles.length) (fun g =>
    emits (startRegs t.uid g t.frame x.handler.toNat sa x.gsz true))
  onlyIf t.hdr.bob (emits (startRegs t.uid 63 t.frame x.handler.toNat sa x.gsz false))

/-- n doublewords of a context's memory by the tables; none where a byte has no place there. -/
def State.wordsAt (s : State) (rctx va : Nat) : Nat → Option (List Word)
  | 0 => some []
  | n + 1 =>
    match s.placeAt rctx va, s.wordsAt rctx (va + 8) n with
    | some l, some r => some (wd (s.load l 8) :: r)
    | _, _ => none

/-- The device reads n bytes of a context's memory for itself, under the context's slot: the seal of every tile is checked
(R245, R246), and while a page migrates or is re-sealed it waits (R224, R250). -/
def readSealed (rctx va n : Nat) : M Sealed :=
  go ((List.range ((va + n + 1023) / 1024 - va / 1024)).map (fun i => max va ((va / 1024 + i) * 1024)))
where
  /-- The tiles of some addresses, in turn. -/
  go : List Nat → M Sealed
    | [] => pure .ok
    | a :: r => do
      let s ← getS
      match ← (if s.ctl.migrating rctx a then pure none else sealedWalk rctx a) with
      | none => return .wait
      | some (.fault c b) => if c = 11 then return .fail b else go r
      | some (.leaf _ _ _) =>
        match s.dmAt rctx a with
        | none => go r
        | some l =>
          match ← sealAccess (s.ctl.ctx rctx).kslot l.key false with
          | .ok => go r
          | x => return x

/-- A die reads n lines of 64 bytes of a context's memory for itself (R236, R245, R262, R342): their doublewords, `some none` where
one may not be read or fails its seal; or it waits. -/
def readWords (die rctx va : Nat) : Nat → M (Option (Option (List Word)))
  | 0 => pure (some (some []))
  | n + 1 => do
    match ← deviceReach die rctx va { rd := true, wr := false, x := false } with
    | .wait => return none
    | .fault _ _ => return some none
    | .ok l => do
      let s ← getS
      match ← readWords die rctx (va + 64) n with
      | some (some r) => return some (some ((List.range 8).map (fun i => wd (s.load (l.plus (8 * i)) 8)) ++ r))
      | x => return x

/-- A continuation starts its team on ordinary shares of a core, or on a reserve unit (R262, R263, R344). Answers
whether it did. -/
def startCont (k : Cont) (h : Header) (origin : Origin) (index : Nat) (frame : List Word) (unit : Option Nat)
    (core depth : Nat) : M Bool := do
  let c ← getC
  let segs := c.freeSegs k.rctx k.die true
  let ok := match unit with
    | none => c.coreFits k.die core h && !(c.resvFits k.die h).isEmpty
    | some u => unitCore u == core && c.unitFree k.die u (h.dpool != 0) && (u == depth - 1 || decide (8 ≤ u))
  match (if ok && c.host.pstate == 0 then segs else []) with
  | [] => return false
  | g :: r => do
    let i ← drawBelow (r.length + 1)
    let resv ← (match unit with
      | some u => pure (2 ^ 27 - (u + 1) * 2 ^ 20 + 256)
      | none => do
        let fs := c.resvFits k.die h
        let j ← drawBelow fs.length
        pure (fs.getD j 0))
    let c ← getC
    let t := newTeam c.nextUid k.rctx origin h index index 1 0 frame k.die core
    setC { c with nextUid := c.nextUid + 1, teams := c.teams ++ [t],
                  conts := c.conts.map (fun x => if x.id == k.id then { x with team := some t.uid } else x) }
    startTeam t ((g :: r).getD i g) unit (if h.dpool = 0 then 0 else resv)
    return true

end Sys2Proof.Machine
end

