-- ==== Sys2Proof/Machine/Procedural.lean ====
section
/-! DEFINITION. Procedural ranges, major 0x1B, and the start of a generator (R256 to R270). -/

namespace Sys2Proof.Machine

/-- The traps of an instruction that ends a fill (R264, R269). -/
def Env.fillEndTrap (e : Env) : Option TrapReq :=
  match e.t.origin with
  | .fill _ _ _ _ _ => if e.t.fillEnded then some (mkTrap 10 0x52 e.ex) else none
  | _ => some (mkTrap 10 0x51 e.ex)

/-- An instruction claims the end of its team's fill and appends what ends it (R264, R267). -/
def Env.endFill (e : Env) (rel full : Bool) (reason : Nat) : M Res := do
  match e.fillEndTrap with
  | some r => return .trap r
  | none => do
    modTeam e.uid (fun t => { t with fillEnded := true })
    e.appendFin rel 4 (.fillEnd full reason)
    return .done

/-- `pfill.done` (R269). -/
def execPfillDone (f : Fields) (s : State) : Host.Outcome State Fault Refusal :=
  issue (.pfillDone f) f (fun e => e.endFill true true 0) s

/-- `pfill.fail` (R269): no release. -/
def execPfillFail (f : Fields) (s : State) : Host.Outcome State Fault Refusal :=
  issue (.pfillFail f) f (fun e => e.endFill false false (scfld f 1 0)) s

/-- `pstate` (R269): read by the engine that holds the block's fill state. -/
def execPstate (f : Fields) (s : State) : Host.Outcome State Fault Refusal :=
  issue (.pstate f) f (fun e => do
    let a := (e.usrc f.sa.toNat).toNat
    match e.s.ctl.blockAt e.t.rctx a with
    | none => do
      emits (e.putWd allOnes)
      return .done
    | some (r, b) =>
      match ← fillAccess e.t.rctx r b false with
      | .wait => return .hold
      | .fail sub => return .trap (e.wholeTrap 11 sub a)
      | .ok => do
        emits (e.putWd (wd (e.s.fillState e.t.rctx r b)))
        return .done) s

/-- The blocks of every range of a context that overlap [lo, lo + n), ascending (R269). -/
def Ctl.blocksIn (c : Ctl) (rctx lo n : Nat) : List (PRange × Nat) :=
  ((sortBy (fun a b => decide (a.base < b.base)) (c.ctx rctx).ranges).map (fun r =>
    let z := 2 ^ r.blog
    let first := (lo - r.base) / z
    let last := min ((lo + n - r.base + z - 1) / z) r.nblk
    if lo + n ≤ r.base then [] else (List.range (last - first)).map (fun i => (r, first + i)))).flatten

/-- How far a `preset` comes in one step (R269): the count of blocks it has emptied, at most one more than before; what is left; and
the subcause of SEAL where a fill state fails. -/
def presetEach (rctx : Nat) : List (PRange × Nat) → Nat → M (Nat × List (PRange × Nat) × Option Nat)
  | [], n => pure (n, [], none)
  | (r, b) :: q, n => do
    match ← fillAccess rctx r b false with
    | .wait => return (n, (r, b) :: q, none)
    | .fail sub => return (n, (r, b) :: q, some sub)
    | .ok =>
      let s ← getS
      if s.fillState rctx r b < 2 then presetEach rctx q n
      else if s.blockWaits rctx r b then return (n, (r, b) :: q, none)
      else do
        emptyBlock rctx r b
        return (n + 1, q, none)

/-- `preset` (R269): FULL and FAILED blocks become EMPTY in ascending order, each in a step of its own in the manner of a drop;
until the last has changed the instruction stays on its scoreboard. -/
def execPreset (f : Fields) (s : State) : Host.Outcome State Fault Refusal :=
  issue (.preset f) f (fun e => do
    let a := (e.usrc f.sa.toNat).toNat
    let n := (e.usrc f.sb.toNat).toNat
    if 2 ^ 64 < a + n then return .trap (mkTrap 10 0x31 e.ex)
    else do
      let start : Nat × List (PRange × Nat) := match e.p.prog with
        | some g => (g.count, g.left.filterMap (fun x => (e.s.ctl.range e.t.rctx x.1).map (fun r => (r, x.2))))
        | none => (0, if n = 0 then [] else e.s.ctl.blocksIn e.t.rctx a n)
      let x ← presetEach e.t.rctx start.2 start.1
      retest
      match x with
      | (_, _, some sub) => return .trap (e.wholeTrap 11 sub a)
      | (k, [], none) => e.listDone (wd k)
      | (k, l, none) => e.listWaits k (l.map (fun y => (y.1.num, y.2)))) s

/-- The preloads of a generator (R262). -/
def genFrame (r : PRange) (block arg depth : Nat) : List Word :=
  [wd block, wd (r.base + block * 2 ^ r.blog), wd arg, wd r.num, wd depth]

/-- A generator's continuation starts its team on a core, on ordinary shares or on a reserve unit; a header that fails
ends the fill (GENERATOR_START; R262, R263). -/
def execGeneratorStart (cont : Nat) (core : Nat) (unit : Option Nat) (s : State) : Host.Outcome State Fault Refusal :=
  event (do
    let c ← getC
    match c.conts.find? (fun k => k.id == cont && k.team.isNone) with
    | none => pure ()
    | some k =>
      match k.kind with
      | .shade _ _ _ => pure ()
      | .fill range block depth => do
        match c.range k.rctx range, ← readWords k.die k.rctx k.hdr.toNat 2 with
        | none, _ | _, none => pure ()
        | some r, some got =>
          let ws := got.getD []
          let h := headerOf ws
          if hdrStatus ws 1 != 0 || !h.fitsUnit then
            onlyIf ((← fillAccess k.rctx r block true) != .wait) (endFill k (some (0x0C, 3)))
          else do
            let _ ← startCont k h (.fill k.id k.rctx range block depth) block
              (genFrame r block k.arg.toNat depth) unit core depth
            pure ()) s

end Sys2Proof.Machine
end

