-- ==== Sys2Proof/Machine/Sched.lean ====
section
/-! DEFINITION. Launches and the queue instructions, major 0x24 (R357 to R373). -/

namespace Sys2Proof.Machine

/-- The tile-buffer indices of four 16-bit fields; 0xFFFF is none (R357). -/
def bufsOf (w : Word) : List Nat := ((List.range 4).map (fun i => wfld w (16 * i + 15) (16 * i))).filter (· != 0xFFFF)

/-- BADREC but for what translation finds (R357). -/
def badRecord (ws : List Word) (tbn : Nat) : Bool :=
  let g (i : Nat) : Word := ws.getD i 0
  let bufs := bufsOf (g 6) ++ bufsOf (g 7)
  wfld (g 5) 63 4 != 0 || wfld (g 0) 5 0 != 0 || wfld (g 1) 5 0 != 0 || wfld (g 2) 2 0 != 0 || wfld (g 3) 2 0 != 0 ||
    decide (2 ^ 32 < wfld (g 4) 31 0 + wfld (g 4) 63 32) || decide (2 ^ 31 ≤ wfld (g 4) 63 32) ||
    bufs.any (fun i => decide (tbn ≤ i)) || decide (bufs.dedup.length < bufs.length)

/-- The status of a record image before its counters are translated: the checks of R29, then BADREC (R368). A misaligned HDR
names no header that could be read: of R29, the check of the team count is left. -/
def recordStatus (ws hdr : List Word) (tbn : Nat) : Nat :=
  let ixc := wfld (ws.getD 4 0) 63 32
  let s := if wfld (ws.getD 0 0) 5 0 = 0 then hdrStatus hdr ixc else if ixc = 0 then 7 else 0
  if s ≠ 0 then s else if badRecord ws tbn then 9 else 0

/-- The queue of a context holds QDEPTH records, those whose release has still to leave among them (R368). -/
def Ctl.queueFull (c : Ctl) (rctx : Nat) : Bool :=
  let x := c.ctx rctx
  let coming := c.entries.filter (fun e =>
    match e.act with
    | .fin (.launch r) => r.rctx == rctx
    | _ => false)
  decide (x.qdepth ≤ x.recs.length + coming.length)

/-- A record from its image, header and frame; join and waitj are its translated counters (R359, R364). -/
def recordOf (id rctx prio : Nat) (ws hdr frame : List Word) (join waitj : Option Nat) : Rec :=
  let g (i : Nat) : Word := ws.getD i 0
  { id := id, rctx := rctx, hdr := headerOf hdr, frame := frame, join := join, waitj := waitj,
    ixcount := wfld (g 4) 63 32, ixbase := wfld (g 4) 31 0, prio := prio, ins := bufsOf (g 6), outs := bufsOf (g 7),
    eligible := false, eligAt := 0, waitAt := 0, claimed := 0, retired := 0 }

/-- n blocks of 64 bytes as `ldg` reads them. -/
def Env.readBlocks (e : Env) (a : Nat) : Nat → M (Except Res (List Word))
  | 0 => pure (.ok [])
  | n + 1 => do
    match ← e.spatRecord 0 (a % 2 ^ 64) with
    | .error r => return .error r
    | .ok x =>
      match ← e.readBlocks (a + 64) n with
      | .error r => return .error r
      | .ok y => return .ok (x ++ y)

/-- The counter that a record names: none where it lies outside this device's memory (R359). -/
def Env.joinAt (e : Env) (a : Word) : M (Except Res (Option (Option Nat))) := do
  if a = 0 then return .ok (some none)
  else
    match ← attempt (e.reachLanes [(0, a.toNat)] { rd := true, wr := true, x := false }) with
    | .trap r => return .error (.trap (e.whole r))
    | .wait => return .error .hold
    | .ok os =>
      match os.head?.map (·.2) with
      | some l => return .ok (if l.sp == .dm then some (some l.key) else none)
      | none => return .ok none

/-- PRIO of a team's record; a generator or shading team is of the reserved level. -/
def Ctl.teamPrio (c : Ctl) (t : Team) : Nat := ((c.recOf t).map (·.prio)).getD 0

/-- The counters of a record and its end: the status, and the record to enqueue. -/
def Env.launchEnd (e : Env) (ws hdr frame : List Word) : M (Except Res (Nat × Option Rec)) := do
  let c ← getC
  let st := recordStatus ws hdr (c.ctx e.t.rctx).tbn
  if st ≠ 0 then return .ok (st, none)
  else
    match ← e.joinAt (ws.getD 2 0) with
    | .error r => return .error r
    | .ok j =>
      match ← e.joinAt (ws.getD 3 0) with
      | .error r => return .error r
      | .ok w =>
        match j, w with
        | some j, some w =>
          if c.queueFull e.t.rctx then return .ok (8, none)
          else do
            let id ← freshId
            return .ok (0, some (recordOf id e.t.rctx (max (wfld (ws.getD 5 0) 3 0) (c.teamPrio e.t)) ws hdr frame j w))
        | _, _ => return .ok (9, none)

/-- `launch` (R368). -/
def execLaunch (f : Fields) (s : State) : Host.Outcome State Fault Refusal :=
  issue (.launch f) f (fun e => do
    let ea := (e.usrc f.sa.toNat).toNat
    if ea % 64 ≠ 0 then return .trap (e.wholeTrap 8 0 ea)
    else
      match ← e.readBlocks ea 1 with
      | .error r => return r
      | .ok ws =>
        let ha := (ws.getD 0 0).toNat
        let fa := (ws.getD 1 0).toNat
        match ← e.readBlocks ha (if ha % 64 = 0 then 2 else 0) with
        | .error r => return r
        | .ok hdr =>
          match ← e.readBlocks fa (if fa = 0 ∨ fa % 64 ≠ 0 then 0 else 7) with
          | .error r => return r
          | .ok frame =>
            match ← e.launchEnd ws hdr frame with
            | .error r => return r
            | .ok (st, r) => do
              match r with
              | some r => e.appendFin true 4 (.launch r)
              | none => pure ()
              emits (e.putWd (wd st))
              return .done) s

/-- `cjoin` (R369). -/
def execCjoin (f : Fields) (s : State) : Host.Outcome State Fault Refusal :=
  issue (.cjoin f) f (fun e => do
    let a := (e.usrc f.sa.toNat).toNat
    if a % 8 ≠ 0 then return .trap (e.wholeTrap 8 0 a)
    else
      match ← attempt (e.reachLanes [(0, a)] { rd := true, wr := true, x := false }) with
      | .trap r => return .trap (e.whole r)
      | .wait => return .hold
      | .ok os =>
        let l := (os.head?.map (·.2)).getD (dmLoc 0)
        if l.sp ≠ .dm then return .trap (e.wholeTrap 10 0xB4 a)
        else
          match (← getC).refusedWrites e.t (← getS) [(0, a)] with
          | _ :: _ => return .trap (e.wholeTrap 10 0x50 a)
          | [] => do
            e.appendFence 2 4 none
            let ins ← freshId
            e.append (fun x => { x with party := 1 }) .cjoin ins
              [{ lane := 0, loc := l, n := 8, vs := 0, va := a, data := wd ((e.usrc f.sb.toNat).toNat % 2 ^ 32),
                 data2 := 0, sink := e.sinkFor 0 64 false true }]
            return .done) s

/-- The tile-buffer index of an instruction. -/
def Env.bufNo (e : Env) : Nat := (e.usrc e.f.sa.toNat).toNat

/-- `tbset` (R370): after a release, the entry moves to FULL. -/
def execTbset (f : Fields) (s : State) : Host.Outcome State Fault Refusal :=
  issue (.tbset f) f (fun e => do
    let c := e.s.ctl
    let x := c.ctx e.t.rctx
    if x.tbn ≤ e.bufNo then return .trap (mkTrap 10 0xB0 e.ex)
    else if !(c.recOf e.t).any (fun r => x.reservedBy e.bufNo r.id) then return .trap (mkTrap 10 0xB1 e.ex)
    else do
      e.appendFin true 4 (.tbset e.bufNo)
      return .done) s

/-- `tbclr` (R370). -/
def execTbclr (f : Fields) (s : State) : Host.Outcome State Fault Refusal :=
  issue (.tbclr f) f (fun e => do
    let x := e.s.ctl.ctx e.t.rctx
    if x.tbn ≤ e.bufNo then return .trap (mkTrap 10 0xB0 e.ex)
    else if x.tb e.bufNo ≠ 1 then return .trap (mkTrap 10 0xB2 e.ex)
    else do
      modC (fun c => c.updCtx e.t.rctx (fun x => x.setTb e.bufNo 0))
      retest
      return .done) s

/-- Entries that a decision queue holds (R36). -/
def dqDepth : Nat := 16

/-- `more.put` (R372). -/
def execMorePut (f : Fields) (s : State) : Host.Outcome State Fault Refusal :=
  issue (.morePut f) f (fun e => do
    if !e.bob then return .trap (mkTrap 10 0xB3 e.ex)
    else if dqDepth ≤ e.t.dq.length then return .park .decision 0
    else do
      modTeam e.uid (fun t => ({ t with dq := t.dq ++ [e.usrc f.sa.toNat] } : Team).freeDq)
      return .done) s

/-- The bobbin of a team is gone: it has none, or it has executed `exit` (R36, R372). -/
def Team.noBobbin (t : Team) : Bool := t.bobbin.elim true (·.retired)

/-- `more.get` (R372): entry dqRead of all that were appended. -/
def execMoreGet (f : Fields) (s : State) : Host.Outcome State Fault Refusal :=
  issue (.moreGet f) f (fun e => do
    let i := e.g.dqRead
    if e.t.bobbin.isNone then return .trap (mkTrap 0x1C 1 e.ex)
    else if i < e.t.dqBase + e.t.dq.length then do
      modGroup e.uid e.g.who (fun g => { g with dqRead := i + 1 })
      modTeam e.uid Team.freeDq
      emits (e.putWd (e.t.dq.getD (i - e.t.dqBase) 0))
      return .done
    else if e.t.noBobbin then return .trap (mkTrap 0x1C 1 e.ex)
    else return .park .decision 0) s

end Sys2Proof.Machine
end

