-- ==== Sys2Proof/Machine/Shading.lean ====
section
/-! DEFINITION. The texel shading cache and the material evaluator, major 0x23 (R342 to R354). -/

namespace Sys2Proof.Machine

/-- A surface descriptor (R342): the shading kernel's header, its argument, levels, width and height. -/
structure Surface where
  shdr : Word
  arg : Word
  levels : Nat
  w : Nat
  h : Nat
deriving DecidableEq, Repr, Inhabited

/-- A surface from the 64 bytes of its descriptor; none when it is malformed. -/
def surfaceOf (ws : List Word) : Option Surface :=
  let g (i : Nat) : Word := ws.getD i 0
  let lv := wfld (g 2) 27 24
  if wfld (g 2) 63 28 ≠ 0 ∨ lv = 0 ∨ 10 < lv ∨ (List.range 5).any (fun i => g (3 + i) != 0) then none
  else some { shdr := g 0, arg := g 1, levels := lv, w := wfld (g 2) 11 0 + 1, h := wfld (g 2) 23 12 + 1 }

/-- Texels of a level in one direction (R342). -/
def levelSize (n lv : Nat) : Nat := max 1 (n / 2 ^ lv)

/-- The key of a block in a cluster's cache (R343); cluster is numbered over the device. -/
def blockKey (cluster lv by_ bx : Nat) : Nat := cluster % 16 * 2 ^ 22 + lv * 2 ^ 18 + by_ * 2 ^ 9 + bx

/-- A cache's entry for a block. -/
def Ctl.texBlock (c : Ctl) (cluster rctx desc key : Nat) : Option TexBlock :=
  c.tex.find? (fun b => b.cluster == cluster && b.rctx == rctx && b.desc == desc && b.key == key)

/-- Whether an entry is this block. -/
def TexBlock.is (b : TexBlock) (cluster rctx desc key : Nat) : Bool :=
  b.cluster == cluster && b.rctx == rctx && b.desc == desc && b.key == key

/-- The state of a block: 0 PRESENT, 1 PENDING, 2 MISSING (R347). -/
def Ctl.texState (c : Ctl) (cluster rctx desc key : Nat) : Nat :=
  match c.texBlock cluster rctx desc key with
  | some b => if b.bytes.isSome then 0 else 1
  | none => 2

/-- A place for a new entry: what must be evicted for it, or none when it has to wait (R343). -/
def Ctl.texRoom (c : Ctl) (cluster : Nat) : Option (List TexBlock) :=
  let es := c.tex.filter (fun b => b.cluster == cluster)
  if 4096 ≤ (es.filter (fun b => b.bytes.isNone)).length then none
  else if es.length < 8192 then some []
  else (es.find? (fun b => b.bytes.isSome)).map (fun b => [b])

/-- A request of a block (R343, R344): its state before; it waits when no entry can be had. -/
def requestBlock (die cluster rctx desc key : Nat) (sf : Surface) : M (Got Nat) := do
  let c ← getC
  match c.texBlock cluster rctx desc key with
  | some b => do
    modC (fun c => { c with tex := c.tex.filter (fun x => !x.is cluster rctx desc key) ++ [b] })
    return .ok (if b.bytes.isSome then 0 else 1)
  | none =>
    match c.texRoom cluster with
    | none => return .wait
    | some gone => do
      let id ← freshId
      modC (fun c => { c with
        tex := c.tex.filter (fun x => !gone.contains x) ++
          [{ cluster := cluster, rctx := rctx, desc := desc, key := key, cont := id, bytes := none }]
        conts := c.conts ++ [{ id := id, rctx := rctx, die := die, kind := .shade cluster desc key, hdr := sf.shdr,
                               arg := sf.arg, team := none }] })
      return .ok 2

/-- Requests of several blocks, all or none. -/
def requestAll (die cluster rctx desc : Nat) (sf : Surface) : List Nat → M (Got (List (Nat × Nat)))
  | [] => pure (.ok [])
  | k :: r => do
    match ← requestBlock die cluster rctx desc k sf with
    | .trap t => return .trap t
    | .wait => return .wait
    | .ok st =>
      match ← requestAll die cluster rctx desc sf r with
      | .trap t => return .trap t
      | .wait => return .wait
      | .ok xs => return .ok ((k, st) :: xs)

/-- The surface a texel request names, with its checks (R347). -/
def Env.surface (e : Env) : M (Except Res (Nat × Surface)) := do
  let a := (e.usrc e.f.sa.toNat).toNat
  match e.t.origin with
  | .shade .. => return .error (.trap (mkTrap 10 0xA3 e.ex))
  | _ =>
    if a % 64 ≠ 0 then return .error (.trap (mkTrap 10 0xA0 e.ex))
    else
      match ← e.spatRecord 0 a with
      | .error r => return .error r
      | .ok ws =>
        match surfaceOf ws with
        | none => return .error (.trap (mkTrap 10 0xA0 e.ex))
        | some sf => return .ok (a, sf)

/-- The updates that write the results of a `texq` (R347). -/
def putSinks (uid : Nat) (wr : List (RegSink × Nat)) : List Upd := (wr.map (fun x => updSink uid x.1 (wd x.2))).flatten

/-- The key a lane of `texq` names, in its own cluster's cache; none outside the surface. -/
def Env.texKey (e : Env) (sf : Surface) (lane : Nat) : Option Nat :=
  let k := e.v e.f.sb.toNat lane
  let lv := fld k 21 18
  let inside := decide (lv < sf.levels) && decide (8 * fld k 8 0 < levelSize sf.w lv) &&
    decide (8 * fld k 17 9 < levelSize sf.h lv)
  if inside then some (blockKey e.t.cluster lv (fld k 17 9) (fld k 8 0)) else none

/-- `texq` (R347): states and requests lane by lane, lowest first; `.w` parks and writes when all are PRESENT. -/
def execTexq (f : Fields) (s : State) : Host.Outcome State Fault Refusal :=
  issue (.texq f) f (fun e => do
    if e.ex = 0 then return .done
    else
      match ← e.surface with
      | .error r => return r
      | .ok (a, sf) => do
        let ks := (lanesOf e.ex e.gw).map (fun l => (l, e.texKey sf l))
        match ← attempt (requestAll e.t.die e.t.cluster e.t.rctx a sf (ks.filterMap (·.2))) with
        | .trap r => return .trap r
        | .wait => return .hold
        | .ok xs => do
          let first (k : Nat) (l : Nat) : Nat :=
            let n := ((ks.filter (fun y => decide (y.1 < l))).filterMap (·.2)).length
            ((xs.getD n (k, 2)).2)
          let wr := if f.ws then [] else ks.map (fun x =>
            (({ vp := e.vp, wp := e.home, pl := e.pl, code := f.dst.toNat, lane := x.1, w := 32, sgn := false } : RegSink),
              match x.2 with
              | none => 3
              | some k => first k x.1))
          let c ← getC
          let open_ := ((xs.map (·.1)).dedup).filter (fun k => c.texState e.t.cluster e.t.rctx a k != 0)
          if f.mod.getLsbD 0 && !open_.isEmpty then
            return .park (.texel e.t.cluster e.t.rctx a open_ (some wr)) (wd a)
          else do
            emits (putSinks e.uid wr)
            return .done) s

/-- `texq.inv` (R347): it reads the descriptor as every texel request does, waits while a block of the surface is PENDING, then drops every one. -/
def execTexqInv (f : Fields) (s : State) : Host.Outcome State Fault Refusal :=
  issue (.texqInv f) f (fun e => do
    match ← e.surface with
    | .error r => return r
    | .ok (a, _) =>
      let mine (b : TexBlock) : Bool := b.rctx == e.t.rctx && b.desc == a
      if (← getC).tex.any (fun b => mine b && b.bytes.isNone) then return .hold
      else do
        modC (fun c => { c with tex := c.tex.filter (fun b => !mine b) })
        return .done) s

/-- The four texels of a lane of `texs` with their weights in units of 2^-16 (R348): (x, y, weight). -/
def bilinear (w h : Nat) (u v : Int) : List (Nat × Nat × Nat) :=
  let u1 := u - 128
  let v1 := v - 128
  let fu := (u1 % 256).toNat
  let fv := (v1 % 256).toNat
  let cl (x : Int) (n : Nat) : Nat := (clampInt x 0 ((n : Int) - 1)).toNat
  let xa := cl (u1 / 256) w
  let xb := cl (u1 / 256 + 1) w
  let ya := cl (v1 / 256) h
  let yb := cl (v1 / 256 + 1) h
  [(xa, ya, (256 - fu) * (256 - fv)), (xb, ya, fu * (256 - fv)), (xa, yb, (256 - fu) * fv), (xb, yb, fu * fv)]

/-- The 8 bytes of a texel of a block that is PRESENT (R342). -/
def Ctl.texel (c : Ctl) (cluster rctx desc lv x y : Nat) : Word :=
  match (c.texBlock cluster rctx desc (blockKey cluster lv (y / 8) (x / 8))).bind (·.bytes) with
  | some bs => wd (ofBytes ((bs.drop (8 * (x % 8 + 8 * (y % 8)))).take 8))
  | none => 0

/-- The level and the texels that a lane of `texs` reads. -/
def Env.taps (e : Env) (sf : Surface) (lane : Nat) : Nat × List (Nat × Nat × Nat) :=
  let lv := e.n32 e.f.sc.toNat lane
  (lv, bilinear (levelSize sf.w lv) (levelSize sf.h lv) (sextNat 32 (e.v e.f.sb.toNat lane))
    (sextNat 32 (e.v (e.f.sb.toNat + 1) lane)))

/-- `texs` (R347, R348). -/
def execTexs (f : Fields) (s : State) : Host.Outcome State Fault Refusal :=
  issue (.texs f) f (fun e => do
    if e.ex = 0 then return .done
    else
      match ← e.surface with
      | .error r => return r
      | .ok (a, sf) =>
        let ls := lanesOf e.ex e.gw
        match ls.filter (fun l => decide (sf.levels ≤ e.n32 f.sc.toNat l)) with
        | b :: r => return .trap (mkTrap 10 0xA2 (maskOf (b :: r)))
        | [] => do
          let cl := e.t.cluster
          let ts := ls.map (fun l => (l, e.taps sf l))
          let keys := ((ts.map (fun t => t.2.2.map (fun x => blockKey cl t.2.1 (x.2.1 / 8) (x.1 / 8)))).flatten).dedup
          match ← attempt (requestAll e.t.die cl e.t.rctx a sf keys) with
          | .trap r => return .trap r
          | .wait => return .hold
          | .ok _ => do
            let c ← getC
            let open_ := keys.filter (fun k => c.texState cl e.t.rctx a k != 0)
            if !open_.isEmpty then return .park (.texel cl e.t.rctx a open_ none) (wd a)
            else do
              let chan (t : Nat × Nat × List (Nat × Nat × Nat)) (ch : Nat) : Nat :=
                filterHalf (t.2.2.map (fun x => (x.2.2, chanOf (c.texel cl e.t.rctx a t.2.1 x.1 x.2.1) ch)))
              let val (t : Nat × Nat × List (Nat × Nat × Nat)) : Word :=
                wd (((List.range 4).map (fun ch => chan t ch * 2 ^ (16 * ch))).sum)
              onlyIf (!f.ws) (emits ((ts.map (fun t => e.putLane f.dst.toNat t.1 true (val t))).flatten))
              return .done) s

/-- The job submitted last is accepted at once (R349, R351, R352). -/
def acceptNow : M Unit := do
  let c ← getC
  modC (fun c => { c with jobs := c.jobs.map (fun j =>
    if j.id + 1 == c.nextId && !j.accepted then { j with accepted := true, acceptedAt := c.cyc } else j) })
  finishJob (c.nextId - 1)

/-- A range with bytes outside data class: the subcause of PROT (R349). -/
def Env.notData (e : Env) (sp a n : Nat) : Option Nat :=
  match rangeOut e.s.ctl e.t sp a n with
  | some b => some b
  | none => (rangeSelv e.s.ctl e.t sp a n).map (fun _ => 0x10)

/-- A job that is accepted as it issues and writes no addressed bytes. -/
def Env.acceptRead (e : Env) (kind : JobKind) (ssp src size : Nat) : M Unit := do
  let id ← freshId
  let j := e.newJob id kind 0 0 ssp src size .none
  modC (fun c => { c with jobs := c.jobs ++ [{ j with early := e.s.olderTouching j [(ssp, src, size)] [] }] })
  acceptNow

/-- `texw` (R349). -/
def execTexw (f : Fields) (s : State) : Host.Outcome State Fault Refusal :=
  issue (.texw f) f (fun e => do
    let sp := mfld f 1 0
    let desc := (e.usrc f.sa.toNat).toNat
    let key := (e.usrc f.sb.toNat).toNat % 2 ^ 26
    let cl := e.t.die * 16 + fld key 25 22
    let src := wrapSp sp (e.usrc f.sc.toNat).toNat
    let mine := match e.s.ctl.texBlock cl e.t.rctx desc key, e.t.origin with
      | some b, .shade k _ _ _ => b.bytes.isNone && b.cont == k
      | _, _ => false
    if !mine then return .trap (mkTrap 10 0xA1 e.ex)
    else if src % 64 ≠ 0 then return .trap (mkTrap 8 0 e.ex)
    else
      match e.notData sp src 512 with
      | some b => return .trap (mkTrap 10 b e.ex)
      | none => do
        e.acceptRead (.texw cl desc key) sp src 512
        return .done) s

/-- Every path that waits on a block takes a trap (R344). -/
def doomTexel (cluster rctx desc key sub : Nat) : M Unit := modC fun c =>
  let f (p : Path) : Path :=
    match p.park with
    | some k =>
      (match k.kind with
       | .texel cl r d ks _ =>
         if cl == cluster && r == rctx && d == desc && ks.contains key then
           { p with park := some { k with doom := some (mkTrap 0x1C sub k.ex) } } else p
       | _ => p)
    | none => p
  let h (g : Group) : Group := { g with paths := g.paths.map f }
  { c with teams := c.teams.map (fun t => { t with groups := t.groups.map h, bobbin := t.bobbin.map h }) }

/-- A block is PRESENT: it holds nobody back any more (R349). -/
def readyTexel (cluster rctx desc key : Nat) : M Unit := modC fun c =>
  let f (p : Path) : Path :=
    match p.park with
    | some k =>
      (match k.kind with
       | .texel cl r d ks wr =>
         if cl == cluster && r == rctx && d == desc then
           { p with park := some { k with kind := .texel cl r d (ks.filter (· != key)) wr } } else p
       | _ => p)
    | none => p
  let h (g : Group) : Group := { g with paths := g.paths.map f }
  { c with teams := c.teams.map (fun t => { t with groups := t.groups.map h, bobbin := t.bobbin.map h }) }

/-- Shading failed: the block is MISSING again and its waiters take ENGINE (R344). -/
def failShade (k : Cont) (sub : Nat) : M Unit := do
  let c ← getC
  match k.kind with
  | .fill .. => pure ()
  | .shade cl desc key =>
    if c.conts.any (fun x => x.id == k.id) then do
      dropWaiter (.cont k.id)
      modC (fun c => { c with
        conts := c.conts.filter (fun x => x.id != k.id)
        tex := c.tex.filter (fun b => !(b.is cl k.rctx desc key && b.cont == k.id && b.bytes.isNone)) })
      doomTexel cl k.rctx desc key sub
    else pure ()

/-- A continuation's touch of the procedural blocks that it reads from (R258, R342): it may go on, it fails, or, none, it waits for
a fill. It touches at depth 1, the depth of its team (R344; assumption 150). -/
def contTouch (k : Cont) (vas : List Nat) : M (Option Bool) := do
  let c ← getC
  let ts ← touchAll k.rctx (.cont k.id) 2 1 (c.touches { (default : Team) with rctx := k.rctx } vas)
  if ts.any (fun t => match t.2.2 with
      | .failed _ _ => true
      | _ => false) then return some false
  else if ts.all (fun t => t.2.2 == .full) then return some true
  else return none

/-- Lines that a continuation reads as `ldg` reads (R342): some none where they cannot be read; none where it waits. -/
def contWords (k : Cont) (va n : Nat) : M (Option (Option (List Word))) := do
  if va % 64 ≠ 0 then return some none
  else
    match ← contTouch k ((List.range n).map (fun i => va + 64 * i)) with
    | none => return none
    | some false => return some none
    | some true => readWords k.die k.rctx va n

/-- A shading continuation starts its team (SHADING_START; R344, R262, R263): its descriptor is read again. -/
def execShadingStart (cont : Nat) (core : Nat) (unit : Option Nat) (s : State) : Host.Outcome State Fault Refusal :=
  event (do
    let c ← getC
    match c.conts.find? (fun k => k.id == cont && k.team.isNone) with
    | none => pure ()
    | some k =>
      match k.kind with
      | .fill .. => pure ()
      | .shade cl desc key => do
        match ← contWords k desc 1 with
        | none => pure ()
        | some dw =>
          match dw.bind surfaceOf with
          | none => failShade k 0x31
          | some sf =>
            match ← contWords k sf.shdr.toNat 2 with
            | none => pure ()
            | some hw =>
              let ws := hw.getD []
              let h := headerOf ws
              if hdrStatus ws 1 != 0 || !h.fitsUnit then failShade k 0x31
              else do
                let _ ← startCont k h (.shade k.id cl desc key) 0 [wd desc, wd key, sf.arg, wd cl, 1] unit core 1
                pure ()) s

/-- The bytes of a job's source, all of them, as read now; none where some byte must wait or the job has failed. -/
def readSource (j : Job) (n : Nat) : M (Option (List Byte)) := do
  match ← jobReachAll j false false ((List.range n).filterMap j.srcAt) with
  | .error (some (k, b, a)) => do
    failJob j.id k b a
    return none
  | .error none => return none
  | .ok xs => do
    let s ← getS
    return some (xs.map (fun x => match x with
      | .at_ l => (s.mem l.sp).get l.key
      | _ => 0))

/-- The 512 bytes of a `texw` are in the cache: the block is PRESENT (TEXW_COMPLETE; R349). -/
def execTexwComplete (id : Nat) (s : State) : Host.Outcome State Fault Refusal :=
  event (do
    let c ← getC
    match c.jobs.find? (fun j => j.id == id && j.accepted && j.err.isNone) with
    | none => pure ()
    | some j =>
      match j.kind with
      | .texw cl desc key =>
        match c.texBlock cl j.rctx desc key with
        | none => endJob id
        | some b =>
          if b.bytes.isSome then endJob id
          else
            match ← readSource j 512 with
            | none => pure ()
            | some bs => do
              modC (fun c => { c with
                tex := c.tex.filter (fun x => !x.is cl j.rctx desc key) ++ [{ b with bytes := some bs }]
                conts := c.conts.filter (fun x => x.id != b.cont) })
              readyTexel cl j.rctx desc key
              endJob id
      | _ => pure ()) s

/-- `vrate` (R350). -/
def execVrate (f : Fields) (s : State) : Host.Outcome State Fault Refusal :=
  issue (.vrate f) f (fun e => do
    emits (e.putWd (wd e.g.vsr))
    modGroup e.uid e.g.who (fun g => { g with vsr := scfld f 1 0 })
    return .done) s

/-- A material slot of a cluster's evaluator; none when it is empty. -/
def Ctl.material (c : Ctl) (cluster m : Nat) : Option Material := c.mats.find? (fun x => x.cluster == cluster && x.m == m)

/-- Replace a material slot. -/
def Ctl.setMaterial (c : Ctl) (x : Material) : Ctl :=
  { c with mats := x :: c.mats.filter (fun y => !(y.cluster == x.cluster && y.m == x.m)) }

/-- `matld` (R351): acceptance tags the slot with the context. -/
def execMatld (f : Fields) (s : State) : Host.Outcome State Fault Refusal :=
  issue (.matld f) f (fun e => do
    let nl := (e.usrc f.sb.toNat).toNat % 2 ^ 32
    let a := (e.usrc f.sa.toNat).toNat
    let m := scfld f 3 0
    if nl = 0 ∨ 4 < nl then return .trap (mkTrap 10 0xA5 e.ex)
    else do
      modC (fun c => c.setMaterial { cluster := e.t.cluster, m := m, rctx := e.t.rctx, load := c.nextId, layers := none })
      e.acceptRead (.matld m nl) 0 a (2048 * nl)
      return .done) s

/-- The table of a material as its bytes lie in memory (R351): layers of 256 texels. -/
def tableOf (nl : Nat) (bs : List Byte) : List (List Word) :=
  (List.range nl).map (fun l => (List.range 256).map (fun i => wd (ofBytes ((bs.drop (2048 * l + 8 * i)).take 8))))

/-- The index of the first channel value of a table that is not finite. -/
def badEntry (tab : List (List Word)) : Option Nat :=
  let xs := ((tab.flatten).map (fun w => (List.range 4).map (chanOf w))).flatten
  ((List.range xs.length).find? (fun i => (halfUnits (xs.getD i 0)).isNone))

/-- The `matev` jobs that a load in the queue gives its table to: those of its slot that follow it, up to the next load of
the slot (R351). -/
def served (m : Nat) : List Job → List Nat
  | [] => []
  | j :: r =>
    match j.kind with
    | .matld k _ => if k = m then [] else served m r
    | .matev k _ _ _ => if k = m then j.id :: served m r else served m r
    | _ => served m r

/-- A `matev` learns its table. -/
def Job.withTable (j : Job) (t : List (List Word)) : Job :=
  match j.kind with
  | .matev m rate ls none => { j with kind := .matev m rate ls (some t) }
  | _ => j

/-- The head load of an evaluator's queue completes (MATERIAL_LOAD_COMPLETE; R351). A load that fails leaves the slot
empty, and what a `matev` behind it then reads is open. -/
def execMaterialLoadComplete (id : Nat) (s : State) : Host.Outcome State Fault Refusal :=
  event (do
    let c ← getC
    match c.jobs.find? (fun j => j.id == id && j.accepted && j.err.isNone) with
    | none => pure ()
    | some j =>
      let q := c.evalQueue j.die j.cluster
      match j.kind, (q.head?.map (·.id)) == some id with
      | .matld m nl, true => do
        let cl := j.die * 16 + j.cluster
        let behind := served m q.tail
        let give (t : List (List Word)) : M Unit := modC (fun c => { c with
          jobs := c.jobs.map (fun x => if behind.contains x.id then x.withTable t else x) })
        let empty : M Unit := do
          modC (fun c => { c with mats := c.mats.filter (fun x => !(x.cluster == cl && x.m == m && x.load == id)) })
          onlyIf (!behind.isEmpty) (do
            let xs ← forMap (List.range (256 * nl)) (fun _ => drawFree)
            give ((List.range nl).map (fun l => (xs.drop (256 * l)).take 256)))
        match ← readSource j (2048 * nl) with
        | some bs =>
          let tab := tableOf nl bs
          match badEntry tab with
          | some i => do
            failJob id 0x1C 0x32 (wrapSp 0 (j.src.toNat + 2 * i))
            empty
          | none => do
            modC (fun c => { c with mats := c.mats.map (fun x =>
              if x.cluster == cl && x.m == m && x.load == id then { x with layers := some tab } else x) })
            give tab
            endJob id
        | none => do
          let d ← getC
          onlyIf (d.jobs.any (fun x => x.id == id && x.err.isSome)) empty
      | _, _ => pure ()) s

/-- The lanes of a `matev` with their intervals, t0 and dt (R331, R352); lanes with EMP = 1 write nothing. -/
def Env.evalLanes (e : Env) : List (Nat × Nat × Nat × Nat × Int) :=
  (lanesOf e.ex e.gw).filterMap (fun l =>
    let x := (e.s.vi.get (viKey e.uid e.vp l (e.f.sb.toNat - 328))).toNat
    let t := e.v e.f.sc.toNat l
    if bitOf x 16 || decide (fld x 13 8 < fld x 5 0) then none
    else some (l, fld x 5 0, fld x 13 8, fld t 15 0, sextNat 16 (fld t 31 16)))

/-- `matev` (R352): the table is the slot's, or that of the newest load of the slot still in the queue. -/
def execMatev (f : Fields) (s : State) : Host.Outcome State Fault Refusal :=
  issue (.matev f) f (fun e => do
    if e.ex = 0 then return .done
    else
      let m := f.imm32b % 16
      match e.s.ctl.material e.t.cluster m with
      | none => return .trap (mkTrap 10 0xA4 e.ex)
      | some mat =>
        if mat.rctx ≠ e.t.rctx then return .trap (mkTrap 10 0xA4 e.ex)
        else do
          let sp := mfld f 1 0
          let a := wrapSp sp (e.usrc f.sa.toNat).toNat
          let ls := e.evalLanes
          let size := (ls.map (fun x => 8 * (x.2.2.1 + 1 - x.2.1))).sum
          let rs := ls.map (fun x => (sp, wrapSp sp (a + (64 * x.1 + x.2.1) * 8), 8 * (x.2.2.1 + 1 - x.2.1)))
          let r ← e.submit (.matev m (2 ^ e.g.vsr) ls mat.layers) sp a 1 0 size rs none
          match r with
          | .done => acceptNow
          | _ => pure ()
          return r) s

end Sys2Proof.Machine
end

