-- ==== Sys2Proof/Machine/Teams.lean ====
section
/-! DEFINITION. The life of teams: claims and starts (R30, R31, R362, R363), quanta (R37, R365, R371), saves and restores
(R384, R385), retirement (R32). -/

namespace Sys2Proof.Machine

/-- What a core may start: a saved team, or the next indices of a record (R362). -/
inductive Claim where
  | saved (uid : Nat)
  | grid (rctx id : Nat)
deriving DecidableEq, Repr, Inhabited

/-- A claimant of a die with its rank. -/
structure Claimant where
  key : List Nat
  prio : Nat
  aged : Bool
  hdr : Header
  what : Claim
deriving DecidableEq, Repr, Inhabited

/-- The quantum in cycles of 1.8 GHz (R37, R395). -/
def Ctl.quantum (c : Ctl) : Nat := c.host.quantum * 1800

/-- Waiting since a cycle has lasted 16 quanta (R362). -/
def Ctl.ageing (c : Ctl) (since : Nat) : Bool := decide (16 * c.quantum ≤ c.cyc - since)

/-- How many turns away a context is on a die (R362). -/
def Ctl.turnOf (c : Ctl) (die rctx : Nat) : Nat :=
  match c.turns.find? (fun t => t.1 == die) with
  | some t => (rctx + 256 - t.2 - 1) % 256
  | none => rctx

/-- The records that a die's distributor holds: at most 256, in eligibility order (R362). -/
def Ctl.distributor (c : Ctl) (die : Nat) : List Rec :=
  let rs := ((c.ctxs.map (·.recs)).flatten).filter (fun r =>
    r.eligible && decide (r.claimed < r.ixcount) && (r.hdr.aff == 0 || bitOf r.hdr.aff die))
  (sortBy (fun a b => decide ([a.eligAt, a.id] < [b.eligAt, b.id])) rs).take 256

/-- The claimants of a die, the first ranked first (R362). -/
def Ctl.claimants (c : Ctl) (die : Nat) : List Claimant :=
  let rank (prio : Nat) (old : Bool) (rest : List Nat) : List Nat := (if old then [0, 0] else [prio, 1]) ++ rest
  let teams := (c.teams.filter (fun t => t.die == die && t.phase == .saved)).map (fun t =>
    let old := c.ageing t.savedAt
    ({ key := rank t.prio old [0, t.savedAt, t.uid], prio := if old then 0 else t.prio, aged := old, hdr := t.hdr,
       what := .saved t.uid } : Claimant))
  let grids := (c.distributor die).map (fun r =>
    let old := c.ageing r.waitAt
    ({ key := rank r.prio old [1, c.turnOf die r.rctx, r.eligAt, r.id], prio := if old then 0 else r.prio, aged := old,
       hdr := r.hdr, what := .grid r.rctx r.id } : Claimant))
  sortBy (fun a b => decide (a.key < b.key)) (teams ++ grids)

/-- The reserve units of a core on which a saved generator or shading team may go on (R263). -/
def Ctl.unitsFor (c : Ctl) (t : Team) (core : Nat) : List Nat :=
  match t.origin with
  | .grid _ => []
  | _ => (List.range c.host.nresNow).filter (fun u => unitCore u == core && (u + 1 == t.depth || decide (8 ≤ u)) &&
      c.unitFree t.die u false)

/-- A saved team may be restored on a core (R37, R299, R384). -/
def Ctl.restorable (c : Ctl) (t : Team) (core : Nat) : Bool :=
  let tiles (p : MTile → Bool) : Nat := (c.mtiles.filter p).length
  (c.coreFits t.die core t.hdr || !(c.unitsFor t core).isEmpty) &&
    decide (tiles (fun m => m.engine == t.die * 16 + core / 4) + tiles (fun m => m.team == t.uid) ≤ 16)

/-- The shares of a claimant are free on a core (R362). -/
def Ctl.claimFits (c : Ctl) (die core : Nat) (x : Claimant) : Bool :=
  match x.what with
  | .saved uid => c.restorable (c.team uid) core
  | .grid rctx _ => c.roomFor rctx die core x.hdr

/-- The core could hold a claimant once its teams were saved or retired (R362). -/
def Ctl.couldHold (c : Ctl) (die core : Nat) (x : Claimant) : Bool :=
  let even := if x.hdr.pair then core / 2 * 2 else core
  let gone (t : Team) : Bool := t.die == die && t.holds && (t.core == even || t.core == core || t.core + 1 == core ||
    (x.hdr.pair && t.core == even + 1))
  let d : Ctl := { c with teams := c.teams.filter (fun t => !gone t) }
  d.coreFits die even x.hdr

/-- Doublewords that a continuation reads, as memory stands: none from a procedural block that is not FULL (R342). -/
def State.contWords (s : State) (k : Cont) (va n : Nat) : Option (List Word) :=
  if (List.range (n / 8)).any (fun i => (s.ctl.blockAt k.rctx (va + 64 * i)).any (fun x => s.fillState k.rctx x.1 x.2 != 2)) then none
  else s.wordsAt k.rctx va n

/-- A continuation's header as memory stands, if its team could start (R262, R344). -/
def State.contHeader (s : State) (k : Cont) : Option Header :=
  let ws := match k.kind with
    | .fill .. => s.wordsAt k.rctx k.hdr.toNat 16
    | .shade _ desc _ => (((s.contWords k desc 8).bind surfaceOf).map Surface.shdr).bind (fun a => s.contWords k a.toNat 16)
  match ws with
  | some ws => if hdrStatus ws 1 = 0 ∧ (headerOf ws).fitsUnit then some (headerOf ws) else none
  | none => none

/-- A continuation of the die could start on a core: it goes before every other claimant (R362). -/
def State.contWaits (s : State) (die core : Nat) : Bool :=
  let c := s.ctl
  c.conts.any (fun k => k.die == die && k.team.isNone && !(c.freeSegs k.rctx die true).isEmpty &&
    (match s.contHeader k with
     | none => false
     | some h =>
       let d := match k.kind with
         | .fill _ _ d => d
         | .shade .. => 1
       (c.coreFits die core h && !(c.resvFits die h).isEmpty) ||
         (List.range c.host.nresNow).any (fun u => unitCore u == core && (u + 1 == d || decide (8 ≤ u)) &&
           c.unitFree die u (h.dpool != 0))))

/-- A claimant is the first in the order of R362 that a core may start: none that ranks before it fits the core, or with the core its
pair, and no aged one could hold a core that it takes. -/
def State.mayClaim (s : State) (die core : Nat) (x : Claim) : Bool :=
  let c := s.ctl
  let cs := c.claimants die
  let before := cs.takeWhile (fun y => y.what != x)
  let fits (y : Claimant) : Bool := c.claimFits die (if y.hdr.pair then core / 2 * 2 else core) y
  let takes (z : Claimant) : List Nat := if z.hdr.pair then [core, core + 1] else [core]
  c.host.pstate == 0 && decide (die < 8) && decide (core < 64) && !s.contWaits die core &&
    (cs.find? (fun y => y.what == x)).elim false (fun z =>
      c.claimFits die core z && !before.any (fun y => fits y || (y.aged && (takes z).any (fun k => c.couldHold die k y))))

/-- How many teams of a header a core can start at once; the count bounds it (R363). -/
def Ctl.startable (rctx die core : Nat) (h : Header) : Nat → Ctl → Nat
  | 0, _ => 0
  | n + 1, c =>
    if c.roomFor rctx die core h then
      let t : Team := { newTeam c.nextUid rctx (.grid 0) h 0 0 0 0 [] die core with
        phase := .running, seg := (c.freeSegs rctx die false).headD 0, resv := (c.resvFits die h).headD 0,
        barEven := c.barSplit die core h, slot := c.freeSlot die core h.pair }
      1 + Ctl.startable rctx die core h n { c with nextUid := c.nextUid + 1, teams := c.teams ++ [t] }
    else 0

/-- A core claims team indices of a record (TEAM_CLAIM; R30, R362, R363). -/
def execTeamClaim (die core grid : Nat) (s : State) : Host.Outcome State Fault Refusal :=
  event (do
    let s ← getS
    let c := s.ctl
    match ((c.ctxs.map (·.recs)).flatten).find? (fun r => r.id == grid) with
    | none => pure ()
    | some r =>
      let waiting := c.teams.any (fun t => t.phase == .claimed && t.die == die &&
        (t.core == core || (r.hdr.pair && t.core == core + 1) || (t.hdr.pair && t.core + 1 == core)))
      if waiting || !s.mayClaim die core (.grid r.rctx grid) then pure ()
      else do
        let n := min (Ctl.startable r.rctx die core r.hdr 64 c) (r.ixcount - r.claimed)
        let new := (List.range n).map (fun k => newTeam (c.nextUid + k) r.rctx (.grid grid) r.hdr
          (r.ixbase + r.claimed + k) r.ixbase r.ixcount r.prio r.frame die core)
        modC (fun c => { (c.updCtx r.rctx (fun x => { x with recs := x.recs.map (fun o =>
            if o.id == grid then { o with claimed := o.claimed + n, waitAt := c.cyc } else o) })) with
          nextUid := c.nextUid + n, teams := c.teams ++ new,
          turns := (die, r.rctx) :: c.turns.filter (fun t => t.1 != die) })) s

/-- A claimed team starts once every share is free (TEAM_START; R30, R31). -/
def execTeamStart (team : Nat) (s : State) : Host.Outcome State Fault Refusal :=
  event (do
    let c ← getC
    match c.teams.find? (fun t => t.uid == team && t.phase == .claimed) with
    | none => pure ()
    | some t =>
      if c.host.pstate ≠ 0 ∨ !c.roomFor t.rctx t.die t.core t.hdr then pure ()
      else do
        let segs := c.freeSegs t.rctx t.die false
        let fits := c.resvFits t.die t.hdr
        let i ← drawBelow segs.length
        let j ← drawBelow fits.length
        startTeam t (segs.getD i 0) none (fits.getD j 0)) s

/-- The ring slot of no engine. -/
def noEngine : Nat := 128

/-- The core empties at the quanta of its teams for an aged claimant that it could then hold (R362). -/
def Ctl.emptiesFor (c : Ctl) (die core : Nat) (x : Claimant) : Bool :=
  x.aged && c.couldHold die core x &&
    (match x.what with
     | .saved _ => true
     | .grid rctx _ => !(c.freeSegs rctx die false).isEmpty && !(c.resvFits die x.hdr).isEmpty)

/-- A waiter could start on a team's core or pair once the team's shares were free (R365), or has aged and could start
there once every team of the core had been saved (R362). -/
def Ctl.waiterFor (c : Ctl) (t : Team) : Bool :=
  let d : Ctl := { c.updTeam t.uid (fun x => { x with phase := .serviced }) with
    mtiles := c.mtiles.map (fun m => if m.team == t.uid then { m with engine := noEngine } else m) }
  let cores := if t.hdr.pair then [t.core, t.core + 1] else [t.core]
  (c.claimants t.die).any (fun x => decide (x.prio ≤ t.prio) &&
    ((cores ++ (if x.hdr.pair then [t.core / 2 * 2] else [])).any (fun k => d.claimFits t.die k x) ||
      cores.any (fun k => d.emptiesFor t.die k x)))

/-- A team's quantum ends (R365, R396): it is saved if a waiter could use its shares, and in HOLD always; otherwise its
timer restarts. -/
def endQuantum (uid : Nat) : M Unit := do
  let c ← getC
  let t := c.team uid
  if t.phase ≠ .running then pure ()
  else if c.host.pstate ≠ 0 ∨ c.waiterFor t then modTeam uid (fun t => { t with phase := .saving })
  else modTeam uid (fun t => { t with since := c.cyc, quant := c.quantum })

/-- A team's quantum expires (QUANTUM_EXPIRY; R365). -/
def execQuantumExpiry (team : Nat) (s : State) : Host.Outcome State Fault Refusal :=
  event (do
    let c ← getC
    let t := c.team team
    onlyIf (c.hasTeam team && decide (t.since + t.quant ≤ c.cyc)) (endQuantum team)) s

/-- `yield` (R371): the quantum ends at once. -/
def execYield (f : Fields) (s : State) : Host.Outcome State Fault Refusal :=
  issue (.yield f) f (fun e => do
    endQuantum e.uid
    return .done) s

/-- What a save waits for (R384): chains, helpers other than helpers 0, gathers, copies and evaluations into the window,
matrix entries, epilogues and closes. -/
def State.saveReady (s : State) (t : Team) : Bool :=
  let c := s.ctl
  t.phase == .saving && !t.parties.any (fun g => g.paths.any (s.midChain t)) &&
    !c.recruits.any (fun x => x.team == t.uid && decide (1 < x.lanes.length)) &&
    !c.entries.any (fun e => e.team == t.uid && e.cnt.isSome) &&
    !c.replies.any (fun r => r.team == t.uid && r.cnt.isSome) &&
    !c.jobs.any (fun j => j.team == t.uid && (!j.accepted || j.dsp == 1)) &&
    !c.passes.any (fun p => p.team == t.uid) && !c.mtiles.any (fun m => m.team == t.uid && m.st != .opened) &&
    !c.msgs.any (fun m => m.stored && c.rings.any (fun x => x.team == t.uid && c.addressed m x))

/-- A path as a save keeps it (R385): latches go; a wait that has been released has ended; what is parked inside a chain starts
its chain again. The head of that chain stays with the park, which a break still names (R157). -/
def Path.saved (p : Path) : Path :=
  let q := p.pastWait
  match q.park with
  | none => { q with pc := q.headPc, chain := none, lat := [], stalled := false }
  | some k =>
    match k.kind with
    | .barrier _ _ _ => { q with lat := [] }
    | _ => { q with pc := if k.doom.isSome then q.pc else q.headPc, lat := [] }

/-- Change every path of a team. -/
def Team.mapPaths (t : Team) (f : Path → Path) : Team :=
  let h (g : Group) : Group := { g with paths := g.paths.map f }
  { t with groups := t.groups.map h, bobbin := t.bobbin.map h }

/-- A byte as a group leaves it once its own writes that have still to be served have been (R376, R378). -/
def State.ownByte (s : State) (uid : Nat) (who : Who) (l : Loc) : Byte :=
  (s.ctl.entries.filter (fun o => o.team == uid && o.who == who && o.act == .write && o.unserved)).foldl
    (fun b o => (o.byteFor l).elim b (fun x => BitVec.ofNat 8 x)) ((s.mem l.sp).get l.key)

/-- The frame that a group holds already when it takes a double trap (R379), with what it has still to write of it; none while
its page moves or its tile is re-sealed. Of a page that cannot be read no doubleword is reported. -/
def heldFrame (t : Team) (v : Service) : M (Option (List Word)) := do
  if !v.double then return some []
  else
    let tfa := ((← getS).csrOf t.uid v.who.idx 3).toNat
    match ← deviceReach t.die t.rctx tfa { rd := true, wr := false, x := false } with
    | .wait => return none
    | .fault _ _ => return some []
    | .ok l => do
      let s ← getS
      return some ((List.range 128).map (fun i =>
        wd (ofBytes ((List.range 8).map (fun j => s.ownByte t.uid v.who (l.plus (8 * i + j)))))))

/-- The device physical address of a team's save record (R364, R384, R393). -/
def Ctl.saveAddr (c : Ctl) (t : Team) : Nat :=
  let x := c.ctx t.rctx
  x.savebase + 2 ^ 22 * (t.die * (x.nseg + c.host.nresNow) + t.seg)

/-- The tiles of a team's save record: the first byte of each. -/
def Ctl.saveTiles (c : Ctl) (t : Team) : List Nat := (List.range 4096).map (fun i => c.saveAddr t + 1024 * i)

/-- A team's state is written to its save record, sealed under the context's key (R384): what bytes it takes there is open
(assumption 64). A tile that fails its seal is not written (R251). -/
def writeRecord (t : Team) : M Unit := do
  let c ← getC
  let k ← drawFree
  forEach (c.saveTiles t) (fun a => do
    if (← sealNow (c.ctx t.rctx).kslot a true) == .ok then
      storeBytes (dmLoc a) ((List.range 1024).map (fun j => Config.saveByte k (a - c.saveAddr t + j)))
    else pure ())

/-- Tiles are read in turn: whether all pass their seals. -/
def readTiles (slot : Nat) : List Nat → M Bool
  | [] => pure true
  | a :: r => do
    if (← sealNow slot a false) == .ok then readTiles slot r else return false

/-- A team's save record is read back (R384): whether every tile passes its seal (R251). -/
def readRecord (t : Team) : M Bool := do
  let c ← getC
  readTiles (c.ctx t.rctx).kslot (c.saveTiles t)

/-- A save completes (CONTEXT_SAVE; R384): the record is written, then every share is released but the spill segment, the save record and the
reservation. The save of a host-serviced team is followed by its report (R379). -/
def execContextSave (team : Nat) (s : State) : Host.Outcome State Fault Refusal :=
  event (do
    let s ← getS
    let c := s.ctl
    let t := c.team team
    match (← if !c.hasTeam team || !s.saveReady t then pure none
             else t.service.elim (pure (some [])) (fun v => heldFrame t v)) with
    | none => pure ()
    | some frame => do
      writeRecord t
      endParks team (((t.parties.map (·.paths)).flatten.filter (fun p => p.pastWait.park.isNone)).filterMap (·.park))
      modTeam team (fun t => { t.mapPaths Path.saved with
        phase := if t.service.isSome then .serviced else .saved, savedAt := c.cyc, unit := none })
      modC (fun c => { (if t.hdr.pair then (c.stamp t.die t.core).stamp t.die (t.core + 1) else c.stamp t.die t.core) with
        mtiles := c.mtiles.map (fun m => if m.team == team then { m with engine := noEngine } else m) })
      match t.service with
      | some v => report (.service t.rctx t.die (t.coreOf v.who) t.slot team v frame)
      | none => pure ()) s

/-- A park as a restore re-evaluates it (R34, R142, R148): a phase completed meanwhile has released it, and PSEQ is compared with
the one seen; a wait that a trap ends stays so. -/
def State.reevaluate (s : State) (k : Park) : Park :=
  match k.kind with
  | .barrier w _ q => { k with released := k.doom.isNone && (k.released || (barWordOf (s.load w 8) 0).pseq != q) }
  | _ => k

/-- A path as a restore finds it: its park is evaluated again; a texel request is executed again, in the same park (R156,
R347). -/
def State.restored (s : State) (p : Path) : Path :=
  match p.park with
  | none => p
  | some k =>
    match k.kind with
    | .texel .. =>
      if k.doom.isSome then p
      else { p with chain := none, park := none,
                    age := some { pc := k.cur.pc, since := k.since, warned := k.warned, reported := k.reported } }
    | _ => { p with park := some (s.reevaluate k) }

/-- A message held for a team's ring is appended as far as the ring has room (R291). -/
def appendHeld (team : Nat) (m : Msg) : M Unit := do
  let s ← getS
  match s.ctl.ringFor m with
  | none => pure ()
  | some x =>
    if x.team ≠ team ∨ s.ctl.heldBehind m ∨ 2 ^ x.log ≤ s.ringCount x then pure ()
    else do
      keepOld (s.entryOf x) 64
      storeBytes (s.entryOf x) m.bytes
      advanceTail x m.id

/-- A saved team is restored on a core or pair of its die (CONTEXT_RESTORE; R37, R384, R385, R225): its record is read back first; one
that fails its seal leaves the team saved (assumption 64). -/
def execContextRestore (team core : Nat) (s : State) : Host.Outcome State Fault Refusal :=
  event (do
    let s ← getS
    let c := s.ctl
    let t := c.team team
    if !c.hasTeam team || t.phase != .saved || !s.mayClaim t.die core (.saved team) then pure ()
    else if !(← readRecord t) then pure ()
    else do
      let us := c.unitsFor t core
      let plain := c.coreFits t.die core t.hdr
      let k ← drawBelow (us.length + (if plain then 1 else 0))
      let unit := if plain && k == us.length then none else us[k]?
      modC (fun c => c.wake t.die core t.hdr.pair)
      modTeam team (fun t => { t.mapPaths s.restored with
        phase := .running, code := c.ver, core := core, slot := c.freeSlot t.die core t.hdr.pair, unit := unit, since := c.cyc, quant := c.quantum,
        drainTo := c.nextId, barEven := if unit.isSome then t.hdr.nbar else c.barSplit t.die core t.hdr })
      modC (fun c => { c with
        mtiles := c.mtiles.map (fun m => if m.team == team then { m with engine := t.die * 16 + core / 4 } else m) })
      forEach (c.msgs.filter (fun m => m.held && !m.dead)) (appendHeld team)) s

/-- Every party of a team has retired (R32). -/
def Team.allRetired (t : Team) : Bool := t.parties.all (·.retired)

/-- What a retired team still has on its way: transfers, engine commands, messages it sent or that are addressed to its
rings (R32, R292). -/
def Ctl.drained (c : Ctl) (uid : Nat) : Bool :=
  !c.entries.any (fun e => e.team == uid && e.stage != .wq) && !c.replies.any (fun r => r.team == uid) &&
    !c.jobs.any (fun j => j.team == uid) && !c.passes.any (fun p => p.team == uid) &&
    !c.rents.any (fun r => r.team == uid) && !c.migrs.any (fun m => m.team == uid) &&
    !c.mtiles.any (fun m => m.team == uid && m.st != .opened) &&
    !c.msgs.any (fun m => m.team == uid || c.rings.any (fun x => x.team == uid && c.addressed m x))

/-- The end of what started a team (R264, R344, R360). -/
def endOrigin (t : Team) : M Unit := do
  let c ← getC
  match t.origin with
  | .grid id => countRetired t.rctx id
  | .fill _ _ _ _ _ => endTeamFill t (some (fillFailure 1))
  | .shade k _ _ _ =>
    match c.conts.find? (fun x => x.id == k) with
    | some x => failShade x 0x30
    | none => pure ()

/-- A team of which nothing is left gives up its shares (R32, R137, R326, R361). -/
def releaseTeam (t : Team) : M Unit := do
  let c ← getC
  forEach (c.rings.filter (fun x => x.team == t.uid)) dropRing
  forEach (c.binds.filter (fun b => b.team == t.uid)) endBinding
  modC (fun c => { c with
    mtiles := c.mtiles.filter (fun m => m.team != t.uid)
    bars := c.bars.filter (fun b => !(b.team == t.uid && b.loc.sp == .tm))
    olds := c.olds.filter (fun o => !(o.loc.sp == .tm && o.loc.key / 2 ^ 32 == t.uid))
    recruits := c.recruits.filter (fun x => x.team != t.uid) })
  tryTrigger t.uid true
  endOrigin t
  modC (fun c => { c with teams := c.teams.filter (fun x => x.uid != t.uid) })
  emit (.wipe .tm (t.uid * 2 ^ 32) ((t.uid + 1) * 2 ^ 32))
  emit (.wipeRegs t.uid)

/-- A team whose parties have retired drains, then releases its shares (TEAM_RETIRE; R32). -/
def execTeamRetire (team : Nat) (s : State) : Host.Outcome State Fault Refusal :=
  event (do
    let c ← getC
    let t := c.team team
    if !c.hasTeam team then pure ()
    else if t.phase = .running ∨ t.phase = .saving then
      onlyIf t.allRetired (modTeam team (fun t => { t with phase := .retiring }))
    else if t.phase = .retiring ∧ c.drained team then releaseTeam t
    else pure ()) s

end Sys2Proof.Machine
end

