-- ==== Sys2Proof/Machine/Traps.lean ====
section
/-! DEFINITION. The trap instructions, major 0x25 (R381 to R383), rejected encodings (R49), the end of a park (R34), the
release of helper lanes (R278), hangs (R156, R157) and gating (R155). -/

namespace Sys2Proof.Machine

/-- `trap` (R382). -/
def execTrap (f : Fields) (s : State) : Host.Outcome State Fault Refusal :=
  issue (.trap f) f (fun e => pure (.trap (mkTrap 0x21 (scfld f 7 0) e.ex))) s

/-- `brkpt` (R382). -/
def execBrkpt (f : Fields) (s : State) : Host.Outcome State Fault Refusal :=
  issue (.brkpt f) f (fun e => pure (.trap (mkTrap 0x20 0 e.ex))) s

/-- The address of a doubleword of the group's frame page (R382). -/
def Env.frameAt (e : Env) (k : Nat) : Nat :=
  (e.s.csrOf e.uid e.home 3).toNat + (8 * scfld e.f 8 0 + 8 * k) % 4096

/-- The doublewords that `rdtf` and `wrtf` reach: (lane, address). -/
def Env.frameLanes (e : Env) : List (Nat × Nat) :=
  if e.f.u then [(0, e.frameAt (e.usrc e.f.sb.toNat).toNat)] else (lanesOf e.ex e.gw).map (fun l => (l, e.frameAt l))

/-- `rdtf` (R382). -/
def execRdtf (f : Fields) (s : State) : Host.Outcome State Fault Refusal :=
  issue (.rdtf f) f (fun e => do
    let xs := e.frameLanes
    match ← attempt (e.reachLanes xs { rd := true, wr := false, x := false }) with
    | .trap r => return .trap r
    | .wait => return .hold
    | .ok os => do
      e.postReads (joinLocs os xs) 8 false true none
      return .done) s

/-- What `wrtf` writes of a lane's doubleword: of the one that holds NA and NR, which it cannot write, only the upper half
(R21, R377). -/
def frameElem (tfa : Nat) (x : Nat × Loc × Nat × Nat) : Elem :=
  let ro : Bool := x.2.2.1 == tfa + 0x258
  let d := if ro then 4 else 0
  { lane := x.1, loc := x.2.1.plus d, n := 8 - d, vs := 0, va := x.2.2.1 + d, data := wd (x.2.2.2 / 256 ^ d), data2 := 0, sink := .none }

/-- `wrtf` (R382). -/
def execWrtf (f : Fields) (s : State) : Host.Outcome State Fault Refusal :=
  issue (.wrtf f) f (fun e => do
    let xs := e.frameLanes
    match ← attempt (e.reachLanes xs { rd := false, wr := true, x := false }) with
    | .trap r => return .trap r
    | .wait => return .hold
    | .ok os => do
      let ws := (joinLocs os xs).map (fun x => (x.1, x.2.1, x.2.2, (e.opnd f.sa.toNat x.1 (!f.u) 0).toNat))
      let ins ← freshId
      e.append (fun x => { x with party := 2 }) .write ins
        ((highest ws).map (frameElem (e.s.csrOf e.uid e.home 3).toNat))
      return .done) s

/-- The frame of a group as it stands: its doublewords, or how the read of it ends. -/
def Env.readFrame (e : Env) : M (Got (List Word)) := do
  match ← reach { uid := e.uid, who := e.g.who, rctx := e.t.rctx, user := false, lanes := e.ex }
      (e.s.csrOf e.uid e.home 3).toNat 1024 { rd := true, wr := false, x := false } with
  | .trap r => return .trap r
  | .wait => return .wait
  | .ok l => do
    let s ← getS
    return .ok ((List.range 128).map (fun i => wd (s.load (l.plus (8 * i)) 8)))

/-- The lanes that go on after a `tret`, in helper code again those that the recruitment still holds (R283, R382). -/
def Env.tretLanes (e : Env) (amsk : Word) (x : Option Recruit) : Word :=
  let m := amsk &&& gwMask e.gw &&& ~~~e.g.gone
  match x with
  | some r => m &&& maskOf ((r.lanes.filter (fun h => h.group == e.g.who.idx)).map (·.lane))
  | none => m

/-- RETURNING FROM A TRAP (R382): the path goes on at the frame's PC, or its NPC, with the frame's lanes, `fmt` and flags,
at user level. -/
def Env.tretTo (e : Env) (nx : Bool) (fr : List Word) : M (Got Unit) := do
  let g (i : Nat) : Word := fr.getD i 0
  let x := match e.g.recruit with
    | some id => e.s.ctl.recruits.find? (fun r => r.id == id && r.trapped)
    | none => none
  let act := e.tretLanes (g 3) x
  let gst := (e.s.csrOf e.uid e.home 0 &&& ~~~(0x307F : Word)) ||| (g 7 &&& 0x7F)
  emit (.csr (csrKey e.uid e.home 0) gst)
  modGroup e.uid e.g.who (fun g => { g with inTrap := false, held := 0 })
  modPath e.cur.p (fun p => { p with
    pc := if nx then g 72 else g 0, act := act, fmt := fmtAll p.fmt.toNat (g 6).toNat, helper := x.map (·.id),
    hk := (x.map (·.hk)).getD [] })
  match x with
  | some r => modRecruit r.id (fun r => r.resumeAs e.p.pid)
  | none => pure ()
  if act = 0 then do
    endPath e.uid e.g.who e.p.pid
    settle { uid := e.uid, who := e.g.who, rctx := e.t.rctx, user := true, lanes := e.ex }
  else return .ok ()

/-- `tret` (R382): it waits until the group's accesses to the frame page have been served. -/
def execTret (f : Fields) (s : State) : Host.Outcome State Fault Refusal :=
  issue (.tret f) f (fun e => do
    if !e.g.inTrap then return .trap (mkTrap 10 0xC0 e.ex)
    else
      match ← attempt e.readFrame with
      | .trap r => return .trap r
      | .wait => return .hold
      | .ok fr =>
        let d := fr.getD 75 0
        if wfld d 15 0 ≠ e.g.nr ∨ wfld d 31 16 ≠ e.g.na then return .trap (mkTrap 10 0xC1 e.ex)
        else do
          let x ← attempt (e.tretTo (f.mod.getLsbD 0) fr)
          return x.res .jump) s

/-- A transfer or a job that the group issued earlier has neither landed nor errored (R382): ring sends and what it gave a raster
output among them (R189, R377). -/
def Env.outstanding (e : Env) : Bool :=
  let c := e.s.ctl
  let mine (team : Nat) (who : Who) (home : Nat) : Bool := team == e.uid && (who == e.g.who || home == e.g.who.idx)
  c.entries.any (fun o => mine o.team o.who o.home && o.unserved && !o.isFence) ||
    c.replies.any (fun r => mine r.team r.who r.home) || c.jobs.any (fun j => j.team == e.uid && j.who == e.g.who) ||
    c.msgs.any (fun m => m.team == e.uid && m.who == e.g.who) || c.rents.any (fun r => r.team == e.uid && r.who == e.g.who)

/-- `sfence` (R382): when all has landed, a hit or a fault that the group holds is taken at it (R129, R188). -/
def execSfence (f : Fields) (s : State) : Host.Outcome State Fault Refusal :=
  issue (.sfence f) f (fun e => do
    if e.outstanding then return .hold
    else match e.g.due with
      | some r => return .trap r
      | none => do
        e.appendFence 3 6 none
        return .done) s

/-- The trap of a rejected encoding (R49, R51). -/
def rejectTrap (e : Env) (why : Reject) : TrapReq :=
  match why with
  | .badLen => e.illenc 1
  | .invalidMajor => mkTrap 1 (e.pos * 32 + 8) e.p.act
  | .reservedMajor => mkTrap 1 (e.pos * 32) e.p.act
  | .unnamedMinor => mkTrap 1 (e.pos * 32 + 16) e.p.act

/-- An encoding that is not an instruction is executed (RESERVED_ENCODING; R49, R50): its fate is a trap. -/
def execReservedEncoding (bits : BitVec 128) (why : Reject) (s : State) : Host.Outcome State Fault Refusal :=
  match s.ctl.cur with
  | none => .fault .noParty
  | some cur => runM (do
      let e := envOf s cur (unpack (bits.setWidth 64) .none)
      raise cur.p cur (rejectTrap e why)
      modC (fun c => c.leave cur.p id)) s

/-- What a path waits for has come (R34, R36, R125, R126, R148, R149, R260, R292, R347). -/
def State.parkMet (s : State) (p : PathId) (k : Park) : Bool :=
  let c := s.ctl
  let t := c.team p.team
  match k.kind with
  | .barrier _ _ _ => k.released
  | .counter n g => decide (g ≤ (s.a.get (aKey p.team p.who.idx n)).toNat)
  | .absent uid line => !c.absent uid line
  | .pinned l => !c.pinned l
  | .credit => c.creditFree p.team
  | .ring r => (c.ring p.team r).elim true (fun x => s.ringCount x != 0)
  | .texel _ _ _ ks _ => ks.isEmpty
  | .fill _ =>
    let ws := c.waits.filter (fun w => w.who == .path p)
    ws.isEmpty || ws.any (fun w => w.failed.isSome)
  | .decision =>
    if p.who = .bobbin then decide (t.dq.length < dqDepth)
    else t.noBobbin || decide ((t.party p.who).dqRead < t.dqBase + t.dq.length)

/-- The owner of lent lanes needs them (R278): its wait is over or is broken, or its team is being saved. -/
def State.wantsBack (s : State) (t : Team) (g : Nat) : Bool :=
  s.ctl.wantsBack t (fun p k => k.doom.isSome || s.parkMet { team := t.uid, who := .group g, pid := p.pid } k) g

/-- A park ends (PARK_RESUME; R34): a `wait` and a `texq.w` complete, every other instruction executes again; a wait that
a trap ends takes it, once the other live path stands at a chain head (R102). The owner of lent lanes has them back first
(R278). -/
def execParkResume (p : PathId) (s : State) : Host.Outcome State Fault Refusal :=
  event (do
    let s ← getS
    let c := s.ctl
    let t := c.team p.team
    let g := t.party p.who
    let q := g.path p.pid
    let ready := c.hasTeam p.team && g.paths.any (fun x => x.pid == p.pid) && (t.phase == .running || t.phase == .saving) &&
      !(q.helper.isNone && c.lends p.team p.who.idx)
    match (if ready then q.park else none) with
    | none => pure ()
    | some k =>
      if k.doom.isNone && !s.parkMet p k then pure ()
      else if k.doom.isSome && g.live.any (fun x => x.pid != p.pid && s.midChain t x) then pure ()
      else do
        recordMon t.die (some t.rctx) 2 (c.cyc - k.since)
        modC (fun c => c.wake t.die (t.coreOf p.who) false)
        match k.doom with
        | some r => raise p k.cur r
        | none =>
          match k.kind with
          | .barrier _ _ _ => modPath p (fun x => { x with
              pc := nextPc k.cur.pc k.cur.len, chain := none, lat := [], park := none })
          | .texel _ _ _ _ (some wr) => do
            emits (putSinks p.team wr)
            modPath p (fun x => { x with pc := nextPc k.cur.pc k.cur.len, chain := none, lat := [], park := none })
          | _ => modPath p (fun x => { x with park := none })) s

/-- Helper lanes of a group go back to their owner (HELPER_RELEASE; R278): when the owner's wait is over or the team is
being saved, at a chain head, once their entries have drained. Helper 0 stays. -/
def execHelperRelease (team group : Nat) (lanes : Word) (s : State) : Host.Outcome State Fault Refusal :=
  event (do
    let s ← getS
    let c := s.ctl
    let t := c.team team
    let g := t.party (.group group)
    let back := c.hasTeam team && s.wantsBack t group
    forEach (c.recruits.filter (fun x => x.team == team)) (fun x => do
      let hs := x.lanes.filter (fun h => h.group == group && lanes.getLsbD h.lane &&
        !(x.group == group && h.lane == x.lane))
      let head := !g.paths.any (fun p => hs.any (fun h => h.pid == p.pid) && s.midChain t p)
      onlyIf (!hs.isEmpty && back && (x.group != group || t.phase == .saving) && head && !c.helperBusy team hs)
        (releaseLanes team group x hs))) s

/-- The HANG subcause of a park, by which reports name it too (R157). -/
def ParkKind.hang (k : ParkKind) : Nat :=
  match k with
  | .barrier _ _ _ => 1
  | .counter _ _ => 2
  | .absent _ _ => 3
  | .pinned _ => 4
  | .credit => 5
  | .ring _ => 5
  | .texel .. => 6
  | .fill _ => 7
  | .decision => 8

/-- Change the park of a path. -/
def modPark (p : PathId) (f : Park → Park) : M Unit := modPath p (fun q => { q with park := q.park.map f })

/-- The park of a path and its age (R156). -/
def Ctl.parkOf (c : Ctl) (p : PathId) : Option (Park × Nat) :=
  if c.hasTeam p.team then
    ((((c.team p.team).party p.who).path p.pid).park).map (fun k => (k, c.cyc - k.since))
  else none

/-- Cycles of a millisecond. -/
def msCycles : Nat := 1800000

/-- A park's age reaches the warning threshold (HANG_WARNING; R156, R401). -/
def execHangWarning (p : PathId) (s : State) : Host.Outcome State Fault Refusal :=
  event (do
    let c ← getC
    match c.parkOf p with
    | none => pure ()
    | some (k, age) =>
      if k.warned ∨ age < c.host.hangWarn * msCycles then pure ()
      else do
        let t := c.team p.team
        modPark p (fun k => { k with warned := true })
        recordMon t.die (some t.rctx) 3 1) s

/-- A park's age reaches the report threshold (HANG_REPORT; R156): the host is told what waits and on which object. -/
def execHangReport (p : PathId) (s : State) : Host.Outcome State Fault Refusal :=
  event (do
    let c ← getC
    match c.parkOf p with
    | none => pure ()
    | some (k, age) =>
      if k.reported ∨ age < c.host.hangReport * msCycles then pure ()
      else do
        let t := c.team p.team
        modPark p (fun k => { k with reported := true })
        let num := match k.kind with
          | .barrier w _ _ => ((c.bars.find? (fun b => b.loc == w)).map (·.obj)).getD 0
          | _ => 0
        report (.hang t.rctx t.die (t.coreOf p.who) t.slot p.who ((t.party p.who).path p.pid).headPc k.kind.hang k.obj num)) s

/-- When a core last issued or was woken. -/
def Ctl.stampOf (c : Ctl) (die core : Nat) : Nat :=
  ((c.stamps.find? (fun x => x.die == die && x.core == core)).map (·.at_)).getD 0

/-- A core of a die is idle since this cycle (R155): every path of its teams is parked, or it holds no team; what a retired
team still has on its way does not keep it awake. -/
def Ctl.idleSince (c : Ctl) (die core : Nat) : Option Nat :=
  let ts := c.teams.filter (fun t => t.die == die && t.holds && (t.core == core || (t.hdr.pair && t.core + 1 == core)))
  let gs := (ts.map (fun t => t.parties.filter (fun g => t.coreOf g.who == core && !g.retired))).flatten
  let ps := (gs.map (·.paths)).flatten
  if ps.all (fun p => p.park.isSome) then
    some ((ps.filterMap (·.park)).foldl (fun m k => max m k.since) (c.stampOf die core))
  else none

/-- A core has been idle for a threshold in µs. -/
def Ctl.idleFor (c : Ctl) (die core us : Nat) : Bool :=
  (c.idleSince die core).elim false (fun n => decide (n + us * 1800 ≤ c.cyc)) && decide (die < 8) && decide (core < 64)

/-- A core is clock-gated (CLOCK_GATE; R155). -/
def execClockGate (die core : Nat) (s : State) : Host.Outcome State Fault Refusal :=
  event (modC (fun c =>
    if c.host.pstate == 0 && c.idleFor die core c.host.clockGate && !c.gates.any (fun g => g.die == die && g.core == core) then
      { c with gates := { die := die, core := core, power := false } :: c.gates }
    else c)) s

/-- A core is power-gated (POWER_GATE; R155). -/
def execPowerGate (die core : Nat) (s : State) : Host.Outcome State Fault Refusal :=
  event (modC (fun c =>
    if c.host.pstate == 0 && c.idleFor die core c.host.powerGate then
      { c with gates := { die := die, core := core, power := true } ::
          c.gates.filter (fun g => !(g.die == die && g.core == core)) }
    else c)) s

/-- A core wakes (CORE_WAKE; R155). -/
def execCoreWake (die core : Nat) (s : State) : Host.Outcome State Fault Refusal :=
  event (modC (fun c => c.wake die core false)) s

end Sys2Proof.Machine
end

