-- ==== Sys2Proof/Machine/Fetch.lean ====
section
/-! DEFINITION. Fetching an instruction (R39, R40, R226) and reading what was fetched. -/

namespace Sys2Proof.Machine

/-- A trap taken at step 1 of R50, with the fetch address in the slot of every lane of ACT (R237). -/
def fetchTrap (cause sub : Nat) (p : Path) (pc : Word) : TrapReq :=
  { mkTrap cause sub p.act with
    addrs := if cause = 3 then [] else (lanesOf p.act 64).map (fun l => (l, pc)), step1 := true }

/-- The state with the memories as they stood so many versions ago, but not before the team's start or restore (R226). -/
def State.memoryThen (s : State) (t : Team) (back : Nat) : State :=
  match s.ctl.past.find? (fun p => p.ver + back == s.ctl.ver && decide (t.code ≤ p.ver)) with
  | some p => { s with dm := p.dm, hm := p.hm, rm := p.rm }
  | none => s

/-- Versions that no resident team may fetch from any more are forgotten. -/
def Ctl.forgetPast (c : Ctl) : Ctl :=
  { c with past := c.past.filter (fun p => c.teams.any (fun t => decide (t.code ≤ p.ver))) }

/-- After a step from a state: where a memory has changed, the version before is kept for the fetches of resident teams (R226). -/
def State.remember (s before : State) : State :=
  if s.dm = before.dm ∧ s.hm = before.hm ∧ s.rm = before.rm then s
  else
    let c := s.ctl
    { s with ctl := ({ c with
        ver := c.ver + 1
        past := { ver := c.ver, dm := before.dm, hm := before.hm, rm := before.rm } :: c.past } : Ctl).forgetPast }

/-- A path fetches (R39, R40, R226): the instruction it executes, or none where it traps, or waits for a translation or for its
tile. -/
def fetch (pth : PathId) (back : Nat) : M (Option Cur) := do
  let s ← getS
  let t := s.ctl.team pth.team
  let p := (t.party pth.who).path pth.pid
  let home := match p.helper.bind (fun r => s.ctl.recruits.find? (fun x => x.id == r)) with
    | some r => r.group
    | none => pth.who.idx
  let pc := advPc p.pc
  let none0 : Cur := { p := pth, pc := pc, len := 0, bits := 0 }
  let fail (cur : Cur) (r : TrapReq) : M (Option Cur) := do
    raise pth cur r
    modC (fun c => c.leave pth id)
    return none
  let waits : M (Option Cur) := do
    modC (fun c => c.waits_ pth id)
    return none
  if pc.toNat % 4 ≠ 0 then fail none0 (fetchTrap 3 0 p pc)
  else
    match ← translate (t.engine pth.who) t.rctx pc.toNat (s.pl t.uid home == 0) { rd := false, wr := false, x := true } with
    | .fault c b => fail none0 (fetchTrap c b p pc)
    | .wait => waits
    | .ok l => do
      let base : Loc := { l with key := l.key - pc.toNat % 32 }
      match ← (if l.sp == .dm then sealAccess (s.ctl.ctx t.rctx).kslot l.key false else pure .ok) with
      | .wait => waits
      | .fail b => fail none0 (fetchTrap 11 (if b = 0 then 1 else b) p pc)
      | .ok => do
        let bytes := (s.memoryThen t back).loadBytes base 32
        let at_ := (bytes.drop (pc.toNat % 32))
        let w := ofBytes (at_.take 8)
        let n := lenBytes (BitVec.ofNat 2 w)
        let cur : Cur := { p := pth, pc := pc, len := n, bits := BitVec.ofNat 128 (ofBytes (at_.take n)) }
        if 32 < pc.toNat % 32 + n then fail { cur with bits := BitVec.ofNat 128 w } (fetchTrap 3 0 p pc)
        else do
          modC (fun c => { c with cur := some cur })
          return some cur

/-- The instruction that fetched bits stand for; a rejected encoding is a step of its own (R49). -/
def instrOf (bits : BitVec 128) : Instr :=
  match decodeWords (bits.setWidth 64) ((bits >>> 64).setWidth 64) with
  | .ok i => i
  | .error r => .reservedEncoding bits r

/-- A path is ready (R34, R37, R177, R225, R278): its team runs, or is being saved and the path stands inside a chain; it
is not parked; every job that the group issued in it, or before it began, has been accepted; a restored team's entries,
and those of helpers that made way for the path, have drained; its group's lanes are not lent. At a chain head it stops for the
other live path's trap that has ended its wait (R102, R386), and a helper path in a donor group for the donor (R278). -/
def State.pathReady (s : State) (t : Team) (g : Group) (p : Path) : Bool :=
  let c := s.ctl
  !g.retired && p.park.isNone &&
    !c.jobs.any (fun j => j.team == t.uid && j.who == g.who && (j.pid == p.pid || decide (j.id < p.born)) && !j.accepted) &&
    (t.phase == .running || (t.phase == .saving && s.midChain t p)) &&
    !c.entries.any (fun e => e.team == t.uid && e.stage == .pend &&
      (decide (e.id < t.drainTo) ||
        (e.hl.isSome && p.helper.isNone && e.home == g.who.idx && decide (e.ins < p.born)))) &&
    !(p.helper.isNone && c.lends t.uid g.who.idx) &&
    (s.midChain t p ||
      (!(g.live.any (fun q => q.pid != p.pid && q.doomed.isSome)) &&
        !(p.helper.isSome && p.helper != g.recruit && s.wantsBack t g.who.idx)))

/-- The parties that issue from the same slot, or the same bobbin sequencers, as a party (R33, R35). -/
def Ctl.slotMates (c : Ctl) (uid : Nat) (who : Who) : List (Team × Group) :=
  let k := c.slotKey uid who
  ((c.teams.filter (fun t => t.phase == .running || t.phase == .saving)).map (fun t =>
    (t.parties.filter (fun g => (t.die, t.coreOf g.who, t.issueSlot g.who) == k)).map (fun g => (t, g)))).flatten

/-- The next of some places after the last one, around (R33). -/
def nextPlace (ps : List Nat) (last : Nat) : Option Nat :=
  match ps.filter (fun p => decide (last < p)) with
  | [] => ps.min?
  | l => l.min?

/-- The place whose turn it was last at a slot. -/
def Ctl.lastTurn (c : Ctl) (k : Nat × Nat × Nat) : Nat :=
  ((c.slotTurns.find? (fun x => (x.die, x.core, x.slot) == k)).map (·.last)).getD 0

/-- A path's last attempt to issue ended in a wait, and its slot has not issued since. -/
def Ctl.isHeld (c : Ctl) (t : Team) (g : Group) (p : Path) : Bool := c.held.contains { team := t.uid, who := g.who, pid := p.pid }

/-- It is a path's turn (R33, R35, R100): no other path of the slot stands inside a chain; a path inside its own chain goes
on; at a chain head the next ready group in round-robin order goes, and of its ready paths the one after that which
issued last. One that waits on its scoreboard or for its fetch is passed over while another is ready. -/
def State.hasTurn (s : State) (t : Team) (g : Group) (p : Path) : Bool :=
  let c := s.ctl
  let mates := c.slotMates t.uid g.who
  let able (t : Team) (g : Group) (q : Path) : Bool := s.pathReady t g q && !c.isHeld t g q
  let some_ := mates.any (fun m => m.2.paths.any (able m.1 m.2))
  let goes (t : Team) (g : Group) (q : Path) : Bool := if some_ then able t g q else s.pathReady t g q
  !mates.any (fun m => m.2.paths.any (fun q =>
    !(m.1.uid == t.uid && m.2.who == g.who && q.pid == p.pid) && s.midChain m.1 q)) &&
  (s.midChain t p ||
    (nextPlace ((mates.filter (fun m => m.2.paths.any (goes m.1 m.2))).map (fun m => placeOf m.1 m.2))
        (c.lastTurn (c.slotKey t.uid g.who)) == some (placeOf t g) &&
      nextPlace ((g.paths.filter (goes t g)).map (·.pid)) g.lastPid == some p.pid))

/-- Whether a path may issue now: no instruction is being executed, the path is ready, and it is its turn. -/
def State.mayIssue (s : State) (pth : PathId) : Bool :=
  let c := s.ctl
  let t := c.team pth.team
  let g := t.party pth.who
  c.hasTeam pth.team && c.cur.isNone && g.paths.any (fun p => p.pid == pth.pid) &&
    s.pathReady t g (g.path pth.pid) && s.hasTurn t g (g.path pth.pid)

/-- A running pass receives u unit-cycles in each of dt cycles, up to and with the cycle in which it has all it needs
(R308). -/
def Pass.receive (p : Pass) (u dt : Nat) : Pass :=
  let need := 16 * p.cycles - p.got
  if p.granted && decide (0 < u) && decide (0 < need) then { p with got := p.got + u * min dt ((need + u - 1) / u) } else p

/-- dt cycles pass: CYC counts (R64), every running pass receives its engine's units, and an engine that holds
units without work runs filler (R308). -/
def Ctl.elapse (c : Ctl) (dt : Nat) : Ctl :=
  let busy (e : Nat) : Bool := c.passes.any (fun p => p.engine == e && p.granted)
  let idle (d : Nat) (x : Slew) : Slew := { x with
    filler := (List.range 16).map (fun i =>
      x.filler.getD i 0 + (if x.held.getD i 0 = 0 ∨ busy (16 * d + i) then 0 else dt)) }
  { c with
    cyc := c.cyc + dt
    slews := if dt = 0 then c.slews else ((List.range c.slews.length).zip c.slews).map (fun x =>
      if x.2.held.all (· == 0) then x.2 else idle x.1 x.2)
    passes := if dt = 0 then c.passes else c.passes.map (fun p =>
      p.receive ((c.slews.getD (p.engine / 16) Slew.init).held.getD (p.engine % 16) 0) dt) }

/-- The instructions that come from fetched words: such a one is not a step of the device. -/
def fetched (i : Instr) : Bool :=
  match i with
  | .reservedEncoding _ _ => true
  | _ => i.fields.isSome

/-- A step of a unit that is asleep in STANDBY, where only die 0's host interface is powered (R396). -/
def asleep (i : Instr) : Bool :=
  match i with
  | .loadKey _ _ | .eraseKey _ | .createContext _ | .teardownContext _ | .writeTierAttributes .. | .declareRange .. | .breakWait _ _
  | .resumeHostServiced _ _ | .attestationReport _ _ | .setPowerState _ | .mailboxCommandComplete | .hostSubmission _
  | .submissionDoorbell _ _ | .completionDoorbell _ _ | .fabricBlockWrite _ _ | .dieLinkMapWrite _ _ _ | .hostRegisterWrite _ _
  | .cxlMemRead .. | .cxlMemWrite .. | .cxlCacheSnoop _ | .atsTranslationCompletion .. | .atsInvalidation .. | .priResponse ..
  | .powerGood _ | .linkRetrain _ | .linkFail _ _ | .hangWarning _ | .hangReport _ => false
  | _ => true

/-- The schedule's next move is made ready: time passes, an issuing path fetches, and the instruction or step that is
then executed is given. A move that cannot be made, or that is of a unit asleep in STANDBY (R396), changes nothing else. -/
def prepareMove (m : Move) (s : State) : State × Option Instr :=
  match m with
  | .event i dt =>
    let s1 : State := { s with ctl := s.ctl.elapse dt }
    if Sys2Proof.Machine.fetched i || (s1.ctl.host.pstate == 2 && Sys2Proof.Machine.asleep i) then (s1, none) else (s1, some i)
  | .issue p back dt =>
    let s1 : State := { s with ctl := s.ctl.elapse dt }
    if s1.mayIssue p then
      let m : M (Option Cur) := fetch p back
      (applyAll s1 (updatesOf m s1), (valueOf m s1).map (fun c => instrOf c.bits))
    else (s1, none)

end Sys2Proof.Machine
end

