-- ==== Sys2Proof/Machine/Auto.lean ====
section
/-! DEFINITION. The schedule: the agenda's next move, or, when the agenda is empty, a move that the device may make,
chosen freely (assumption 3). -/

namespace Sys2Proof.Machine

/-- The n-th of the free values that one choice of a move may use. -/
def Ctl.drawn (c : Ctl) (n below : Nat) : Nat := (Config.freeBits (c.free + n)).toNat % below

/-- Moves of a team and its parties. -/
def Ctl.teamMoves (c : Ctl) (t : Team) : List Move :=
  (t.parties.map (fun g => (g.paths.map (fun p =>
    let id : PathId := { team := t.uid, who := g.who, pid := p.pid }
    [Move.issue id 0 1, .issue id (c.drawn 1 (c.past.length + 1)) 1, .event (.parkResume id) 1, .event (.hangWarning id) 1,
      .event (.hangReport id) 1, .event (.pageWalk (t.engine g.who) t.rctx (advPc p.pc) false) 1])).flatten)).flatten ++
  (t.groups.map (fun g => Move.event (.helperRelease t.uid g.who.idx (Config.freeBits (c.free + 1))) 1)) ++
  [.event (.teamStart t.uid) 1, .event (.teamRetire t.uid) 1, .event (.quantumExpiry t.uid) 1,
   .event (.contextSave t.uid) 1, .event (.contextRestore t.uid (c.drawn 1 64)) 1]

/-- Moves of an entry of the ordering machine. -/
def Entry.moves (e : Entry) : List Move :=
  [.event (.drain e.id) 1, .event (.atomicServe e.id) 1] ++
  ((List.range 18).map (fun d => Move.event (.portServe e.cluster d) 1) ++ [.event (.portServe e.cluster e.dest) 1]) ++
  e.els.map (fun x => .event (.tileFill (x.loc.key / 1024) e.kslot) 1)

/-- Moves of a job. -/
def Ctl.jobMoves (c : Ctl) (j : Job) : List Move :=
  let i := c.drawn 1 (2 ^ 32)
  let n := 1 + c.drawn 2 64
  let walk (write : Bool) (at_ : Option (Nat × Nat)) : List Move :=
    at_.toList.map (fun x => .event (.pageWalk j.eng j.rctx (wd x.2) write) 1)
  walk false (j.srcAt i) ++ walk true (j.dstAt i) ++
  [.event (.copyAccept j.id) 1, .event (.copyByteLand j.id (.read i n)) 1, .event (.copyByteLand j.id (.land i n)) 1,
   .event (.jobError j.id) 1, .event (.texwComplete j.id) 1, .event (.materialLoadComplete j.id) 1,
   .event (.epilogueComplete (j.die * 16 + j.cluster % 16)) 1]

/-- Moves of the memory stacks and their seal engines. -/
def Ctl.stackMoves (c : Ctl) : List Move :=
  ((List.range 16).map (fun k => [Move.event (.tierMoveStart k) 1, .event (.tierMoveComplete k) 1,
    .event (.writeQueueDrain k) 1])).flatten ++
  c.cached.map (fun x => .event (.tileWriteback x.tile) 1) ++
  (c.groups.map (fun g => [Move.event (.resealComplete g.grp) 1, .event (.patrolScrub g.grp) 1])).flatten

/-- Moves of the dies' units and the queues above them. -/
def Ctl.unitMoves (c : Ctl) : List Move :=
  let core := c.drawn 1 64
  let unit := if c.drawn 2 2 = 0 then none else some (c.drawn 3 64)
  (c.replies.map (fun r => match r.kind with
    | .gather => Move.event (.gatherReply r.id) 1
    | .atomic => .event (.atomicReply r.id) 1
    | .load => .event (.loadReplyLand r.id) 1)) ++
  c.migrs.map (fun m => .event (.migrationComplete m.id) 1) ++
  (c.conts.map (fun k => [Move.event (.generatorStart k.id core unit) 1, .event (.shadingStart k.id core unit) 1])).flatten ++
  (c.msgs.map (fun m => [Move.event (.ringAppend m.id) 1, .event (.ringReturn m.id) 1])).flatten ++
  (c.passes.map (fun p => [Move.event (.matrixGrant p.engine) 1, .event (.passEnd p.engine) 1])).flatten ++
  (List.range 8).map (fun d => .event (.slewStep d) 1) ++
  (c.streams.map (fun x => (List.range 8).map (fun d => Move.event (.primRecordSweep d x.rctx x.num) 1))).flatten ++
  (c.rents.map (fun r => [Move.event (.rasterApply r.id) 1, .event (.ropRelServe r.id) 1])).flatten ++
  (c.ctxs.map (fun x => x.recs.map (fun r => Move.event (.teamClaim (c.drawn 2 8) core r.id) 1))).flatten ++
  [.event (.clockGate (c.drawn 2 8) core) 1, .event (.powerGate (c.drawn 2 8) core) 1, .event (.coreWake (c.drawn 2 8) core) 1] ++
  c.ctxs.map (fun x => .event (.hostSubmission x.rctx) 1) ++ [.event .mailboxCommandComplete 1] ++
  c.mons.map (fun m => .event (.monitorSample m.die m.m) 1)

/-- Every move that the device itself may make: what the host, its links and the power supply do is not among them. -/
def Ctl.deviceMoves (c : Ctl) : List Move :=
  (c.teams.map c.teamMoves).flatten ++ (c.entries.map Entry.moves).flatten ++ (c.jobs.map c.jobMoves).flatten ++
    c.stackMoves ++ c.unitMoves

/-- What fails while a stage of bring-up works: nothing constrains it. -/
def Ctl.anyFails (c : Ctl) : BringupFail :=
  let x := Config.freeBits c.free
  let y := Config.freeBits (c.free + 1)
  { dies := x.setWidth 8, chans := (x >>> 8).setWidth 16, links := (x >>> 24).setWidth 10, stks := (x >>> 34).setWidth 16,
    fabric := y.setWidth 8 }

/-- A move that the device makes of itself: the next stage of its bring-up while that runs, later any of its moves. -/
def Ctl.freeMove (c : Ctl) : Move :=
  if c.host.bringing then .event (.powerGood c.anyFails) 1
  else
    let ms := c.deviceMoves
    ms.getD (c.drawn 0 ms.length) (.event .mailboxCommandComplete 1)

/-- The next move of the schedule, made ready. -/
def prepare (s : State) : State × Option Instr :=
  match s.ctl.agenda with
  | m :: r => prepareMove m { s with ctl := { s.ctl with agenda := r } }
  | [] => prepareMove s.ctl.freeMove { s with ctl := { s.ctl with free := s.ctl.free + 4 } }

end Sys2Proof.Machine
end

