-- ==== Sys2Proof/Machine/Engine.lean ====
section
/-! DEFINITION. The matrix engine at work: grants, what a pass and a `vxm` compute, epilogues, and the current budget
(R302 to R308). -/

namespace Sys2Proof.Machine

/-- Whether x is older than y (R305): earlier accepted, then by core, the bobbin before groups, then by group. -/
def Ctl.older (c : Ctl) (x y : Pass) : Bool :=
  let key (p : Pass) : List Nat :=
    [p.acceptedAt, (c.team p.team).coreOf p.who, (match p.who with
      | .bobbin => 0
      | .group g => g + 1), p.id]
  decide (key x < key y)

/-- An entry is ready but for its engine (R305): it is the first on its tile, and every team-window line it reads is
present. -/
def Ctl.passReady (c : Ctl) (p : Pass) : Bool :=
  !p.granted &&
    (match p.kind with
     | .mmx t _ _ _ _ _ _ _ _ => (c.passes.find? (fun q => q.onTile t)).elim false (fun q => q.id == p.id)
     | .vxm _ _ _ => true) &&
    p.spans.all (fun r => r.loc.sp != .tm || (linesOf r.loc r.n).all (fun l => !c.absent p.team (l * 64 % 2 ^ 32 / 64)))

/-- The oldest of some entries. -/
def Ctl.oldest (c : Ctl) : List Pass → Option Pass
  | [] => none
  | p :: r => some (r.foldl (fun m x => if c.older x m then x else m) p)

/-- The entry that the arbiter grants (R305). -/
def Ctl.pick (c : Ctl) (engine : Nat) : Option Pass :=
  let ready := c.passes.filter (fun p => p.engine == engine && c.passReady p)
  let late := ready.filter (fun p => decide (p.acceptedAt + 4096 < c.cyc))
  let urgent := ready.filter (fun p => decide (p.prio ≤ 3))
  match late, urgent with
  | _ :: _, _ => c.oldest late
  | [], u :: r =>
    let m := r.foldl (fun m x => min m x.prio) u.prio
    c.oldest (urgent.filter (fun p => p.prio == m))
  | [], [] => c.oldest ready

/-- The bytes of operand `op` from its lines as they were read; selvage reads zero (R301). -/
def Pass.bytesFrom (p : Pass) (ls : List (Loc × List Byte)) (op n : Nat) : List Byte :=
  (List.range n).map (fun i =>
    match p.spans.find? (fun r => r.op == op && decide (r.off ≤ i) && decide (i < r.off + r.n)) with
    | some r =>
      let k := r.loc.key + (i - r.off)
      (match ls.find? (fun o => o.1.sp == r.loc.sp && o.1.key == k / 64 * 64) with
       | some o => o.2.getD (k % 64) 0
       | none => 0)
    | none => 0)

/-- Bytes of each operand of an entry, in the order of its spans: A, B and the scales that it has, or the rows of a `vxm`. -/
def Pass.sizes (p : Pass) : List Nat :=
  match p.kind with
  | .mmx _ _ _ _ bstr _ _ sa sb =>
    let k := kOf p.fa
    [planes p.fa * 64 * planeBytes p.fa, k * bstr] ++ (sa.toList.map (fun _ => 64 * k / 32)) ++
      (sb.toList.map (fun _ => k / 32 * 64))
  | .vxm rows vec _ => rows.map (fun _ => vec.length * vecPer p.fb * container p.fa / 8)

/-- The operands in the order A, B, A's scales, B's scales: without a scale array its place is empty. -/
def Pass.inPlace (p : Pass) (ops : List (List Byte)) : List (List Byte) :=
  match p.kind with
  | .mmx _ _ _ _ _ _ _ none (some _) => (ops.take 2) ++ [[]] ++ ops.drop 2
  | _ => ops

/-- Unit-cycles left over on an engine in this cycle (R308). -/
def Ctl.spare (c : Ctl) (engine : Nat) : Nat :=
  match (c.slews.getD (engine / 16) Slew.init).spare.find? (fun x => x.1 == engine % 16) with
  | some x => if x.2.1 = c.cyc then x.2.2 else 0
  | none => 0

/-- The engine grants an entry (MATRIX_GRANT; R301, R302, R305): its operands are read. -/
def execMatrixGrant (engine : Nat) (s : State) : Host.Outcome State Fault Refusal :=
  event (do
    let c ← getC
    if c.passes.any (fun p => p.engine == engine && p.granted) then pure ()
    else
      match c.pick engine with
      | none => pure ()
      | some p => do
        let ls ← forMap ((List.range p.lines.length).zip p.lines) (fun x => do
          let bs ← (if (p.ops.getD x.1 []).isEmpty then readLine p.team p.who x.2 else pure (p.ops.getD x.1 []))
          return (x.2, bs))
        let ops := p.inPlace (((List.range p.sizes.length).zip p.sizes).map (fun z => p.bytesFrom ls z.1 z.2))
        modC (fun c => { c with
          passes := c.passes.map (fun q => if q.id == p.id then { q with granted := true, ops := ops, got := c.spare engine } else q) })) s

/-- Element k of row i of operand A, assembled from its planes (R300). -/
def aRaw (fa : Nat) (bytes : List Byte) (i k : Nat) : Nat :=
  let pb := planeBytes fa
  let row (p : Nat) : Nat := ofBytes ((bytes.drop ((p * 64 + i) * pb)).take pb)
  if container fa = 1 then row 0 / 2 ^ k % 2
  else ((List.range (planes fa)).map (fun p => row p / 4 ^ k % 4 * 4 ^ p)).sum

/-- An element under its E8M0 scale (R87); a scale of 0xFF makes a NaN, signalling where the element itself is (R89). -/
def scaledElem (fmt raw : Nat) (scale : Option Nat) : FV :=
  match scale with
  | none => elemVal fmt raw
  | some s =>
    if s = 255 then .nan (match elemVal fmt raw with
      | .nan sig => sig
      | _ => false)
    else (elemVal fmt raw).scale ((s : Int) - 127)

/-- The products of one chunk of output element (i, j) (R89, R300). -/
def chunkOf (fa fb bstr : Nat) (ops : List (List Byte)) (i j c : Nat) : List (FV × FV) :=
  let k := kOf fa
  let a := ops.getD 0 []
  let b := ops.getD 1 []
  let sa := ops.getD 2 []
  let sb := ops.getD 3 []
  (List.range 64).map (fun x =>
    let q := 64 * c + x
    (scaledElem fa (aRaw fa a i q) (if isMx fa then some (sa.getD (i * (k / 32) + q / 32) 0).toNat else none),
     scaledElem fb (elemAt (ofBytes ((b.drop (q * bstr)).take (rowBytes fb))) (container fb) j)
       (if isMx fb then some (sb.getD (q / 32 * 64 + j) 0).toNat else none)))

/-- Output element (i, j) of a pass and its flags (R303). -/
def passElem (p : Pass) (tri : Bool) (doff : Int) (imm : BitVec 32) (bstr : Nat) (old : BitVec 32) (i j : Nat) :
    BitVec 32 × Nat :=
  if tri && decide (doff < (j : Int) - i) then (imm, 0)
  else
    let r := (List.range (kOf p.fa / 64)).foldl (fun (a : Nat × Nat) c =>
      let x := chunk p.fa p.fb a.1 (chunkOf p.fa p.fb bstr p.ops i j c)
      (x.1, a.2 ||| x.2)) (old.toNat, 0)
    (BitVec.ofNat 32 r.1, r.2)

/-- The tile after a pass (R303). -/
def MTile.pass (m : MTile) (p : Pass) (tri : Bool) (doff : Int) (imm : BitVec 32) (bstr : Nat) : MTile :=
  let rs := (List.range 4096).map (fun n => passElem p tri doff imm bstr (m.els.getD n 0) (n / 64) (n % 64))
  { m with els := rs.map (·.1), status := m.status ||| orFlags (rs.map (·.2)) }

/-- What a `vxm` gives a lane: y and its flags (R317). -/
def vxmLane (p : Pass) (vec : List (BitVec 32)) (row : List Byte) (init : BitVec 32) : Nat × Nat :=
  let n := vecPer p.fb
  let kx := vec.length * n
  let w := ofBytes row
  let prod (q : Nat) : FV × FV :=
    (elemVal p.fa (elemAt w (container p.fa) q), elemVal p.fb (elemAt (vec.getD (q / n) 0).toNat (container p.fb) (q % n)))
  (List.range ((kx + 63) / 64)).foldl (fun (a : Nat × Nat) c =>
    let x := chunk p.fa p.fb a.1 ((List.range (min 64 (kx - 64 * c))).map (fun i => prod (64 * c + i)))
    (x.1, a.2 ||| x.2)) (init.toNat, 0)

/-- A granted entry ends (R303, R312, R317). -/
def endPass (p : Pass) : M Unit := do
  let c ← getC
  let left := p.got - 16 * p.cycles
  setC { c with
    passes := c.passes.filter (fun q => q.id != p.id)
    slews := c.slews.set (p.engine / 16)
      (let x := c.slews.getD (p.engine / 16) Slew.init
       { x with spare := (p.engine % 16, c.cyc, left) :: x.spare.filter (fun y => y.1 != p.engine % 16),
                filler := x.filler.set (p.engine % 16) 0 }) }
  recordMon (p.engine / 16) none 5 ((c.slews.getD (p.engine / 16) Slew.init).filler.getD (p.engine % 16) 0)
  match p.kind with
  | .mmx t tri doff imm bstr _ _ _ _ =>
    modC (fun c => { c with mtiles := (c.mtiles.filter (fun m => !(m.uid == t && m.st == .closing))).map (fun m =>
      if m.uid == t then m.pass p tri doff imm bstr else m) })
  | .vxm rows vec sinks => do
    let ys := (rows.zip p.ops).map (fun r => vxmLane p vec r.2 r.1.2.2)
    forEach (sinks.zip ys) (fun x => landSink p.team x.1 (wd x.2.1))
    let c ← getC
    onlyIf (c.hasTeam p.team) (orGst p.team p.who.idx (orFlags (ys.map (·.2))))

/-- A pass or a `vxm` has received its unit-cycles and ends (PASS_END; R308). -/
def execPassEnd (engine : Nat) (s : State) : Host.Outcome State Fault Refusal :=
  event (do
    let c ← getC
    match c.passes.find? (fun p => p.engine == engine && p.granted && decide (16 * p.cycles ≤ p.got)) with
    | none => pure ()
    | some p => endPass p) s

/-- The activation of an epilogue, with flags (R304). -/
def activate (act y : Nat) : Nat × Nat :=
  let v := f32.unpack y
  let one : Nat := 0x3F800000
  if v.isNan then (y, 0)
  else if act = 1 then (if f32.sign y then 0 else y, 0)
  else if act = 2 then
    (if fcompare v (f32.unpack one) == some .gt then one
     else if fcompare v (f32.unpack (one + 2 ^ 31)) == some .lt then one + 2 ^ 31 else y, 0)
  else if act = 3 then f32.give .ne (xex2 v)
  else (y, 0)

/-- An epilogue's value converted to its output format (R304). -/
def outConv (out : Nat) (sat : Bool) (y : Nat) : Nat × Nat :=
  if out = 0 then cvtLane 8 8 .ne sat y
  else if out = 1 then cvtLane 8 10 .ne sat y
  else if out = 2 then cvtLane 8 11 .ne sat y
  else if out = 14 then cvtLane 8 4 .ne sat y
  else if out = 15 then cvtLane 8 0 .ne sat y
  else narrowLane out .ne sat y

/-- One element of an epilogue: its code in the output format and its flags (R304). -/
def epiElem (int : Bool) (s : BitVec 32) (act out : Nat) (sat : Bool) (bias : Option Nat) (c : BitVec 32) : Nat × Nat :=
  let x := if int then f32.give .ne (exactly (intVal c.toInt 0)) else (c.toNat, 0)
  let y := f32.give .ne (xmul (f32.unpack x.1) (f32.unpack s.toNat))
  let z := match bias with
    | none => y
    | some b =>
      let r := f32.give .ne (xadd .ne (f32.unpack y.1) (f32.unpack b))
      (r.1, y.2 ||| r.2)
  let a := activate act z.1
  let o := outConv out sat a.1
  (o.1, x.2 ||| z.2 ||| a.2 ||| o.2)

/-- Elements packed into bytes (R86). -/
def packRow (cont : Nat) (xs : List Nat) : List Byte :=
  bytesOf (((List.range xs.length).zip xs).map (fun x => x.2 % 2 ^ cont * 2 ^ (x.1 * cont))).sum (xs.length * cont / 8)

/-- The epilogue at the head of an engine's queue. -/
def Ctl.headEpi (c : Ctl) (engine : Nat) : Option Job :=
  c.jobs.find? (fun j => j.die == engine / 16 && j.cluster == engine % 16 && (match j.kind with
    | .epi .. => true
    | _ => false))

/-- Bytes of a job's ranges, one by one, with their spaces. -/
def spreadBytes (rs : List (Nat × Nat × Nat)) : List (Nat × Nat) :=
  (rs.map (fun r => (List.range r.2.2).map (fun i => (r.1, wrapSp r.1 (r.2.1 + i))))).flatten

/-- An epilogue writes its rows: what reaching its bytes ends in decides (R178, R188, R304). -/
def runEpilogue (j : Job) (m : MTile) (s : BitVec 32) (act out rb stride : Nat) (bias : Option (Nat × Nat)) (satc : Bool) :
    M Unit := do
  let src := match bias with
    | none => []
    | some b => spreadBytes [(b.1, b.2, 256)]
  match ← jobReachAll j false false src with
  | .error (some (k, b, a)) => failJob j.id k b a
  | .error none => pure ()
  | .ok bs => do
    let st ← getS
    let bb := bs.map (fun x => match x with
      | .at_ l => (st.mem l.sp).get l.key
      | _ => (0 : Byte))
    let es := (List.range 4096).map (fun n =>
      epiElem m.int s act out satc (if bias.isSome then some (ofBytes ((bb.drop (n % 64 * 4)).take 4)) else none)
        (m.els.getD n 0))
    let rows := (List.range 64).map (fun i => packRow (container out) (((es.drop (64 * i)).take 64).map (·.1)))
    match ← jobReachAll j true false (spreadBytes ((List.range 64).map (fun i => (j.dsp, j.dst.toNat + i * stride, rb)))) with
    | .error (some (k, b, a)) => failJob j.id k b a
    | .error none => pure ()
    | .ok xs => do
      forEach (xs.zip rows.flatten) (fun x =>
        match x.1 with
        | .at_ l => do
          storeBytes l [x.2]
          modC (fun c => c.dropOpAt l 1)
        | .selv a => jobHit j j.dsp a
        | _ => pure ())
      modJob j.id (fun q => { q with landed := [(0, j.size)] })
      countJob j j.size
      let c ← getC
      if c.jobs.any (fun q => q.id == j.id && q.err.isSome) then pure ()
      else do
        onlyIf (c.hasTeam j.team && !((c.team j.team).party j.who).retired)
          (orGst j.team j.who.idx (m.status ||| orFlags (es.map (·.2))))
        modC (fun c => { c with mtiles := c.mtiles.filter (fun y => y.uid != m.uid) })
        finishJob j.id
      retest

/-- The epilogue at the head of an engine's queue runs and completes (EPILOGUE_COMPLETE; R304). -/
def execEpilogueComplete (engine : Nat) (s : State) : Host.Outcome State Fault Refusal :=
  event (do
    let c ← getC
    match c.headEpi engine with
    | none => pure ()
    | some j =>
      match j.kind, j.err with
      | .epi tile sc act out rb stride bias satc, none =>
        match c.mtiles.find? (fun m => m.uid == tile) with
        | none => pure ()
        | some m =>
          if c.passes.any (fun p => p.onTile tile) then pure () else runEpilogue j m sc act out rb stride bias satc
      | _, _ => pure ()) s

/-- The demand of a die's engines (R306). -/
def Ctl.demand (c : Ctl) (die cl : Nat) : Nat :=
  if c.passes.any (fun p => p.engine == die * 16 + cl && p.granted) then 16 else 0

/-- One unit is given out: to the demanding engine that holds the fewest, ties to the lowest cluster (R307). -/
def giveUnit (ds held : List Nat) : List Nat :=
  let cs := (List.range 16).filter (fun i => decide (0 < ds.getD i 0) && decide (held.getD i 0 < 16))
  match cs with
  | [] => held
  | i :: r =>
    let m := r.foldl (fun m x => if held.getD x 0 < held.getD m 0 then x else m) i
    held.set m (held.getD m 0 + 1)

/-- One unit is taken: from the engine that holds the most above its demand, ties to the highest cluster (R307). -/
def takeUnit (ds held : List Nat) : List Nat :=
  let excess (i : Nat) : Int := (held.getD i 0 : Int) - ds.getD i 0
  let m := (List.range 16).foldl (fun m x => if excess m ≤ excess x then x else m) 0
  held.set m (held.getD m 0 - 1)

/-- Units given out or taken until a total is reached; the count bounds the moves. -/
def moveUnits (ds : List Nat) (goal : Nat) : Nat → List Nat → List Nat
  | 0, h => h
  | n + 1, h =>
    if h.sum < goal then moveUnits ds goal n (giveUnit ds h)
    else if goal < h.sum then moveUnits ds goal n (takeUnit ds h) else h

/-- One step of a die's slew limiter (R307). -/
def Slew.advance (x : Slew) (ds : List Nat) (cyc : Nat) : Slew :=
  let d := ds.sum
  let g0 := match x.pendingFall with
    | some f => max f (min x.grant d)
    | none => x.grant
  let g1 := if g0 < d then min d (min x.cap (g0 + x.rise)) else g0
  let fall := if d < g0 then some (max d (g0 - x.fall)) else none
  let h := moveUnits ds g1 256 (moveUnits ds g0 256 x.held)
  { x with held := h, pendingFall := fall, running := g0 != d, stepAt := cyc }

/-- A step of a die's slew limiter begins (SLEW_STEP; R307): the first of a run when demand and grant differ, the next
STEP cycles after the one before. -/
def execSlewStep (die : Nat) (s : State) : Host.Outcome State Fault Refusal :=
  event (do
    let c ← getC
    let x := c.slews.getD die Slew.init
    let ds := (List.range 16).map (c.demand die)
    if die < 8 ∧ (if x.running then x.stepAt + x.step ≤ c.cyc else x.grant ≠ ds.sum) then
      setC { c with slews := c.slews.set die (x.advance ds c.cyc) }
    else pure ()) s

end Sys2Proof.Machine
end

