-- ==== Sys2Proof/Machine/Tiers.lean ====
section
/-! DEFINITION. Memory tiers and their hints, major 0x19 (R159 to R172), and what happens to tiles at rest: fills,
write-backs, re-seals and scrubbing (R166, R248 to R252). -/

namespace Sys2Proof.Machine

/-- Replace the record of a tier page. -/
def Ctl.setPage (c : Ctl) (x : Page) : Ctl := { c with pages := x :: c.pages.filter (fun p => p.pg != x.pg) }

/-- The tier page behind a leaf: none of host memory, of another device, or where no context reaches (R170, R193). -/
def Ctl.tierPage (c : Ctl) (e lg va : Nat) : Option Nat :=
  let pa := leafBase e lg + va % 2 ^ lg
  if entBit e 63 || entBit e 62 || !offOk pa || c.recordPage (pa / 65536) then none else some (pa / 65536)

/-- The tier pages of some addresses, one 4 KiB piece after the other: what is unmapped is skipped (R170). A walk whose tables
fail their seal is a precise fault (R251), and one waits while its tables are re-sealed or the page migrates (R243, R250). -/
def tierWalk (rctx : Nat) : List Nat → M (Got (List Nat))
  | [] => pure (.ok [])
  | va :: r => do
    match ← (if (← getC).migrating rctx va then pure none else sealedWalk rctx va) with
    | none => return .wait
    | some (.fault c b) => if c = 11 then return .trap (mkTrap 11 b 0) else tierWalk rctx r
    | some (.leaf e _ lg) =>
      match ← tierWalk rctx r with
      | .ok ps => return .ok (((← getC).tierPage e lg va).toList ++ ps)
      | x => return x

/-- The 4 KiB pieces that a range of addresses overlaps. -/
def piecesOf (lo n : Nat) : List Nat :=
  if n = 0 then [] else (List.range ((lo + n + 4095) / 4096 - lo / 4096)).map (fun i => (lo / 4096 + i) * 4096)

/-- The tier pages that a range of addresses covers, without repeats (R170). -/
def tierPages (rctx lo n : Nat) : M (Got (List Nat)) := do
  match ← tierWalk rctx (piecesOf lo n) with
  | .ok ps => return .ok ps.dedup
  | x => return x

/-- The distance of a tier page (R161). -/
def Ctl.distance (c : Ctl) (p : Page) : Int :=
  let st := match p.rctx with
    | some r => (c.ctx r).stepc
    | none => 0
  let d := sextNat 32 (p.n + 2 ^ 32 - st % 2 ^ 32)
  if d < 0 then 2 ^ 31 else d

/-- Tier page A ranks below B (R162). -/
def Ctl.below (c : Ctl) (a b : Page) : Bool :=
  decide (a.pri < b.pri) || (a.pri == b.pri && (decide (c.distance b < c.distance a) ||
    (c.distance a == c.distance b && decide (b.pg < a.pg))))

/-- The stack of a tier page. -/
def pageStk (pg : Nat) : Nat := stkOf (pg * 65536)

/-- The procedural blocks that lie on a tier page: context, range, block (R265). -/
def State.blocksOn (s : State) (pg : Nat) : List (Nat × PRange × Nat) :=
  (s.ctl.ctxs.map (fun x => (x.ranges.map (fun r =>
    ((List.range r.nblk).filter (fun b => (s.blockTiles x.rctx r b).any (fun t => groupOfTile t.1 == pg))).map
      (fun b => (x.rctx, r, b)))).flatten)).flatten

/-- The tier pages that a block lies on. -/
def State.blockPages (s : State) (rctx : Nat) (r : PRange) (b : Nat) : List Nat :=
  ((s.blockTiles rctx r b).map (fun t => groupOfTile t.1)).dedup

/-- A tier page may be a victim (R162, R265): it is not pinned nor of a record area, no block on it is FILLING or FAILED, and
no FULL one lies on a pinned page as well. -/
def State.mayLeave (s : State) (pg : Nat) : Bool :=
  (s.ctl.page pg).pin.isNone && !s.ctl.recordPage pg && (s.blocksOn pg).all (fun b =>
    let st := s.fillState b.1 b.2.1 b.2.2
    st == 0 || (st == 2 && (s.blockPages b.1 b.2.1 b.2.2).all (fun q => (s.ctl.page q).pin.isNone)))

/-- The FULL blocks of a tier page. -/
def State.fullOn (s : State) (pg : Nat) : List (Nat × PRange × Nat) :=
  (s.blocksOn pg).filter (fun b => s.fillState b.1 b.2.1 b.2.2 == 2)

/-- The drop of a tier page's FULL blocks must wait (R265). -/
def State.dropWaits (s : State) (pg : Nat) : Bool := (s.fullOn pg).any (fun b => s.blockWaits b.1 b.2.1 b.2.2)

/-- The highest number below n that has a property. -/
def topMost (p : Nat → Bool) : Nat → Option Nat
  | 0 => none
  | n + 1 => if p n then some n else topMost p n

/-- The lowest-ranked page of the fast tier of a stack that is not listed and may leave: of those, all of one rank but for
their offsets, the one at the highest. -/
def State.unlistedVictim (s : State) (stk : Nat) : Option Page :=
  let c := s.ctl
  (topMost (fun i => !c.pages.any (fun p => p.pg == stk * 2 ^ 22 + i) && s.mayLeave (stk * 2 ^ 22 + i))
    (fastPages - c.recPages)).map (fun i => c.page (stk * 2 ^ 22 + i))

/-- The victim of a stack (R162). -/
def State.victim (s : State) (stk : Nat) : Option Page :=
  let ps := s.ctl.pages.filter (fun p => p.fast && pageStk p.pg == stk && s.mayLeave p.pg) ++ (s.unlistedVictim stk).toList
  match ps with
  | [] => none
  | p :: r => some (r.foldl (fun m x => if s.ctl.below x m then x else m) p)

/-- Tier pages that the fast tier of a stack holds (R159): as many as it has room for, but for the listed ones that have moved. -/
def Ctl.fastCount (c : Ctl) (stk : Nat) : Nat :=
  let first (p : Page) : Bool := c.recordPage p.pg || decide (p.pg % 2 ^ 22 < fastPages - c.recPages)
  let here := c.pages.filter (fun p => pageStk p.pg == stk)
  fastPages + (here.filter (fun p => p.fast && !first p)).length - (here.filter (fun p => !p.fast && first p)).length

/-- The blocks of a tier page that are FULL are dropped (R265). -/
def dropBlocks (pg : Nat) : M Unit := do
  let s ← getS
  forEach (s.fullOn pg) (fun b => emptyBlock b.1 b.2.1 b.2.2)

/-- A queue of moves changes. -/
def modMoves (f : List TierMove → List TierMove) : M Unit := modC fun c => { c with moves := f c.moves }

/-- A range of a hint (R172). -/
def Env.hintRange (e : Env) : Nat × Nat := ((e.usrc e.f.sa.toNat).toNat, (e.usrc e.f.sb.toNat).toNat)

/-- A range that ends beyond 2^64 (R172). -/
def beyond (r : Nat × Nat) : Bool := decide (2 ^ 64 < r.1 + r.2)

/-- An instruction that works on the tier pages of its range: what its walks end in comes first (R172, R251). -/
def Env.overPages (e : Env) (act : List Nat → M Res) : M Res := do
  let r := e.hintRange
  if beyond r then return .trap (mkTrap 10 0x31 e.ex)
  else
    match ← attempt (tierPages e.t.rctx r.1 r.2) with
    | .ok ps => act ps
    | .wait => return .hold
    | .trap x => return .trap (e.wholeTrap x.cause x.sub r.1)

/-- `hint` (R171). -/
def execHint (f : Fields) (s : State) : Host.Outcome State Fault Refusal :=
  issue (.hint f) f (fun e => e.overPages (fun ps => do
    let st := (e.s.ctl.ctx e.t.rctx).stepc
    let c := (e.usrc f.sc.toNat).toNat
    let n := if f.mod.getLsbD 3 then (st + c) % 2 ^ 32 else c % 2 ^ 32
    forEach ps (fun pg => modC fun c =>
      c.setPage { c.page pg with rctx := some e.t.rctx, pri := mfld f 2 0, n := n })
    emits (e.putWd (wd ps.length))
    return .done)) s

/-- `step` (R161, R171). -/
def execStep (f : Fields) (s : State) : Host.Outcome State Fault Refusal :=
  issue (.step f) f (fun e => do
    let st := ((e.s.ctl.ctx e.t.rctx).stepc + (e.usrc f.sa.toNat).toNat % 2 ^ 32) % 2 ^ 32
    modC (fun c => c.updCtx e.t.rctx (fun x => { x with stepc := st }))
    emits (e.putWd (wd st))
    return .done) s

/-- Moves that a stack's queue holds (R163). -/
def Ctl.movesOf (c : Ctl) (stk : Nat) : Nat := (c.moves.filter (fun m => m.stk == stk)).length

/-- A stack's queue has no room (R163). -/
def Ctl.queueFullOf (c : Ctl) (pg : Nat) : Bool := decide (64 ≤ c.movesOf (pageStk pg))

/-- A demotion that `evict` asks for goes before every touch-driven move that has not started (R171); a promotion takes its
turn. -/
def insertAsked (m : TierMove) (l : List TierMove) : List TierMove :=
  if m.promote then l ++ [m]
  else l.filter (fun x => x.running || x.asked) ++ [m] ++ l.filter (fun x => !(x.running || x.asked))

/-- `evict` covers this page (R171): it is in the fast tier and not pinned; one that holds a FULL procedural block is dropped
in whichever tier it lies (R265). -/
def State.evictable (s : State) (pg : Nat) : Bool :=
  (s.ctl.page pg).pin.isNone && ((s.ctl.page pg).fast || !(s.fullOn pg).isEmpty)

/-- Asked-for moves of some pages, as far as the queues have room (R163, R171): how many were queued, and what is left. -/
def queueAsked (promote : Bool) (want : State → Nat → Bool) : List Nat → Nat → M (Nat × List Nat)
  | [], n => pure (n, [])
  | pg :: r, n => do
    let s ← getS
    if !want s pg then queueAsked promote want r n
    else if s.ctl.queueFullOf pg then return (n, pg :: r)
    else do
      modMoves (insertAsked { stk := pageStk pg, pg := pg, promote := promote, asked := true, running := false, victim := none })
      queueAsked promote want r (n + 1)

/-- What an instruction that works through tier pages has still to do. -/
def Progress.pages (g : Progress) : List Nat := g.left.map (·.1)

/-- `evict` (R171): it waits for room in a queue. -/
def execEvict (f : Fields) (s : State) : Host.Outcome State Fault Refusal :=
  issue (.evict f) f (fun e =>
    let run (n : Nat) (ps : List Nat) : M Res := do
      let x ← queueAsked false State.evictable ps n
      if x.2.isEmpty then e.listDone (wd x.1) else e.listWaits x.1 (x.2.map (fun pg => (pg, 0)))
    match e.p.prog with
    | some g => run g.count g.pages
    | none => e.overPages (run 0)) s

/-- Tier pages a context has pinned. -/
def Ctl.pinnedBy (c : Ctl) (r : Nat) : Nat := (c.pages.filter (fun p => p.pin == some r)).length

/-- Pinned tier pages of a stack. -/
def Ctl.pinnedOn (c : Ctl) (stk : Nat) : Nat := (c.pages.filter (fun p => p.pin.isSome && pageStk p.pg == stk)).length

/-- A page of the capacity tier, which `pin` promotes. -/
def State.inCapacity (s : State) (pg : Nat) : Bool := !(s.ctl.page pg).fast

/-- `pin` (R171): at most the context's quota, and 48 GiB of each stack; it waits for room in a queue.
The pinning context's steps measure N from then on (assumption 19). -/
def execPin (f : Fields) (s : State) : Host.Outcome State Fault Refusal :=
  issue (.pin f) f (fun e =>
    let promote (n : Nat) (ps : List Nat) : M Res := do
      let x ← queueAsked true State.inCapacity ps 0
      if x.2.isEmpty then e.listDone (wd n) else e.listWaits n (x.2.map (fun pg => (pg, 0)))
    match e.p.prog with
    | some g => promote g.count g.pages
    | none => e.overPages (fun ps => do
        let c ← getC
        if f.mod.getLsbD 0 then do
          let mine := ps.filter (fun pg => (c.page pg).pin == some e.t.rctx)
          forEach mine (fun pg => modC fun c => c.setPage { c.page pg with pin := none })
          e.listDone (wd mine.length)
        else
          let new := ps.filter (fun pg => (c.page pg).pin.isNone)
          let full := new.any (fun pg => decide (48 * 2 ^ 14 <
            c.pinnedOn (pageStk pg) + (new.filter (fun q => pageStk q == pageStk pg)).length))
          if (c.ctx e.t.rctx).pinQuota < c.pinnedBy e.t.rctx + new.length ∨ full then e.listDone allOnes
          else do
            forEach new (fun pg => modC fun c =>
              c.setPage { c.page pg with pin := some e.t.rctx, rctx := some e.t.rctx })
            promote new.length ps)) s

/-- What the eviction engine does with the move at the head of a stack's queue (R163, R265): it drops it, waits with it, empties
the blocks of the page in its place, or runs it. -/
inductive MoveStart where
  | drop
  | wait
  | empties
  | runs (m : TierMove)
deriving DecidableEq, Repr, Inhabited

/-- The decision. A page that leaves the fast tier changes places with one of the capacity tier: the page that is promoted, or
for an `evict` any page there, by a free choice k (assumption 18). A pin's promotion is subject to the test of R163 too
(assumption 158). -/
def State.decideMove (s : State) (m : TierMove) (k : Nat) : MoveStart :=
  let c := s.ctl
  let p := c.page m.pg
  if m.promote then
    if p.fast then .drop
    else if c.fastCount m.stk < fastPages then .runs { m with running := true }
    else
      match s.victim m.stk with
      | some v =>
        if !c.below v p then .drop
        else if s.dropWaits v.pg then .wait
        else .runs { m with running := true, victim := some v.pg }
      | none => .drop
  else if !s.mayLeave m.pg then .drop
  else if s.dropWaits m.pg then .wait
  else if !(s.fullOn m.pg).isEmpty then .empties
  else if !p.fast then .drop
  else
    let q := m.stk * 2 ^ 22 + k % stackPages
    if (c.page q).fast || (c.page q).pin.isSome then .wait else .runs { m with running := true, victim := some q }

/-- The first of some moves that equals one is replaced. -/
def replaceMove (m d : TierMove) : List TierMove → List TierMove
  | [] => []
  | x :: r => if x = m then d :: r else x :: replaceMove m d r

/-- A move starts (TIER_MOVE_START; R163): FULL blocks of a page that leaves the fast tier are dropped (R265). -/
def execTierMoveStart (stk : Nat) (s : State) : Host.Outcome State Fault Refusal :=
  event (do
    let c ← getC
    if c.moves.any (fun m => m.stk == stk && m.running) then pure ()
    else
      match c.moves.find? (fun m => m.stk == stk) with
      | none => pure ()
      | some m => do
        let k ← drawFree
        match (← getS).decideMove m k.toNat with
        | .drop => modMoves (fun l => l.erase m)
        | .wait => pure ()
        | .empties => do
          modMoves (fun l => l.erase m)
          dropBlocks m.pg
          retest
        | .runs d => do
          modMoves (replaceMove m d)
          match (if d.promote then d.victim else none) with
          | some v => dropBlocks v
          | none => pure ()
          retest) s

/-- A move ends: only now does the tier map change (TIER_MOVE_COMPLETE; R164). -/
def execTierMoveComplete (stk : Nat) (s : State) : Host.Outcome State Fault Refusal :=
  event (do
    let c ← getC
    match c.moves.find? (fun m => m.stk == stk && m.running) with
    | none => pure ()
    | some m => do
      modMoves (fun l => l.erase m)
      modC fun c =>
        let c1 := c.setPage { c.page m.pg with fast := m.promote }
        match m.victim with
        | some v => c1.setPage { c1.page v with fast := !m.promote }
        | none => c1
      recordMon (stk / 2) none 6 1) s

/-- A request that is on its way to a tile under a key slot. -/
def Ctl.wantsTile (c : Ctl) (tile slot : Nat) : Bool :=
  c.entries.any (fun e => (e.stage == .port || e.stage == .sync) && e.kslot == slot &&
    e.els.any (fun x => x.loc.sp == .dm && tileOf x.loc.key == tile))

/-- The cache fills a tile for a request that is on its way (TILE_FILL; R246, R251): a tile that fails is not
filled. -/
def execTileFill (tile slot : Nat) (s : State) : Host.Outcome State Fault Refusal :=
  event (do
    let c ← getC
    if c.wantsTile tile slot then do
      let _ ← sealAccess slot (tile * 1024) false
    else pure ()) s

/-- A tile leaves the memory-side cache; a dirty one is written back first (TILE_WRITEBACK; R248). -/
def execTileWriteback (tile : Nat) (s : State) : Host.Outcome State Fault Refusal :=
  event (do
    let c ← getC
    match c.cached.find? (fun x => x.tile == tile) with
    | none => pure ()
    | some x =>
      if c.resealing (tile * 1024) then pure ()
      else do
        onlyIf x.dirty (writeback tile)
        modC fun c => { c with cached := c.cached.filter (fun y => y.tile != tile || y.dirty) }) s

/-- A re-seal ends (RESEAL_COMPLETE; R250). -/
def execResealComplete (group : Nat) (s : State) : Host.Outcome State Fault Refusal :=
  event (finishReseal group) s

/-- A scrub pass reads a seal group (PATROL_SCRUB; R166, R252): it changes no value. -/
def execPatrolScrub (group : Nat) (s : State) : Host.Outcome State Fault Refusal :=
  event (quarantineFailing group) s

end Sys2Proof.Machine
end

