-- ==== Sys2Proof/Machine/Host.lean ====
section
/-! DEFINITION. The mailbox and its commands (R392): keys (R245), contexts (R393), tier attributes (R160), procedural ranges
(R257), breaks (R157), host-serviced teams (R379), attestation (R254) and power states (R396). -/

namespace Sys2Proof.Machine

/-- A refusal to which the manual gives no status: any value but 0x00 and 0xFF (R392). -/
def freeStatus : M Nat := do
  let x ← drawFree
  return 1 + x.toNat % 254

/-- Argument n of the mailbox. -/
def Ctl.arg (c : Ctl) (n : Nat) : Word := c.host.mailbox.args.getD n 0

/-- The mailbox runs this command, which has still to do its work. -/
def Ctl.runs (c : Ctl) (code : Nat) : Bool := c.host.mailbox.busy == some code && !c.host.mailbox.ran

/-- A mailbox command does its work and settles what it will answer: a status and a result (R392). -/
def command (code : Nat) (ok : Ctl → Bool) (m : M (Nat × Word)) : M Unit := do
  let c ← getC
  if c.runs code && ok c then do
    let r ← m
    modHost (fun h => { h with mailbox := { h.mailbox with
      ran := true, pendStatus := r.1, pendResult := if r.1 = 0 then r.2 else 0 } })
  else pure ()

/-- The key slot is LOADED. -/
def Ctl.loaded (c : Ctl) (slot : Nat) : Bool := c.host.kslots.any (fun k => k.1 == slot)

/-- The n bytes of host memory at the buffer that the mailbox names (R392). -/
def State.mailBytes (s : State) (n : Nat) : List Byte := s.loadBytes { sp := .hm, key := s.ctl.host.mailbox.buf.toNat } n

/-- The first n doublewords of some are those at the mailbox's buffer (R392). -/
def State.mailed (s : State) (ws : List Word) (n : Nat) : Bool :=
  let l : Loc := { sp := .hm, key := s.ctl.host.mailbox.buf.toNat }
  ws.take n == (List.range n).map (fun i => wd (s.load (l.plus (8 * i)) 8))

/-- A key is loaded into a slot from the import in the mailbox's buffer (LOAD_KEY; R245, R255, R392). -/
def execLoadKey (slot : Nat) (blob : List Byte) (s : State) : Host.Outcome State Fault Refusal :=
  event (command 1 (fun c => c.arg 0 == wd slot && s.mailBytes 1608 == blob) (do
    let c ← getC
    match (if c.loaded slot || decide (256 ≤ slot) then none else Config.importKey c.host.boots slot blob) with
    | none => return (← freeStatus, 0)
    | some k => do
      modHost (fun h => { h with kslots := (slot, Config.sealKey h.boots slot k) :: h.kslots })
      return (0, 0))) s

/-- A key slot is erased (R245): what its key sealed fails until the same key is imported again (R251, R255). Its lines of the
memory-side caches are written back under the key first, and dropped. -/
def eraseSlot (slot : Nat) : M Unit := do
  let c ← getC
  forEach (c.cached.filter (fun x => x.slot == slot && x.dirty)) (fun x => flushTile x.tile)
  modC fun c => { c with
    host := { c.host with kslots := c.host.kslots.filter (fun k => k.1 != slot) }
    cached := c.cached.filter (fun x => x.slot != slot) }

/-- ERASE_KEY (R245). -/
def execEraseKey (slot : Nat) (s : State) : Host.Outcome State Fault Refusal :=
  event (command 2 (fun c => c.arg 0 == wd slot) (do
    let c ← getC
    if c.ctxs.any (fun x => x.kslot == slot) then return (← freeStatus, 0)
    else do
      eraseSlot slot
      return (0, 0))) s

/-- Room that the contexts take in each die's record area: barrier quotas and waiter overflow (R193, R257). -/
def Ctl.recordRoom (c : Ctl) : Nat := (c.ctxs.map (fun x => 64 * x.barQuota + 2 ^ 20 * x.ranges.length)).sum

/-- Bytes of a context's save records (R384). -/
def saveBytes (nseg nres : Nat) : Nat := 8 * (nseg + nres) * 2 ^ 22

/-- Every field of a descriptor lies in its range (R393). -/
def descOk (w : List Word) (nres : Nat) : Bool :=
  let g (i : Nat) : Word := w.getD i 0
  let log := wfld (g 4) 19 16
  let nseg := wfld (g 5) 47 32
  let qd := wfld (g 5) 31 0
  let gsz := wfld (g 6) 63 32
  let save := (g 10).toNat
  decide ((g 0).toNat % 4096 = 0) && decide ((g 0).toNat < 2 ^ 42) && offOk (g 0).toNat && (wfld (g 1) 4 0 == 0) &&
    decide (4 ≤ log) && decide (1 ≤ nseg) && decide (nseg ≤ 4096) && decide (1024 ≤ qd) && decide (qd ≤ 65536) &&
    decide (gsz % 4096 = 0) && decide (gsz ≤ 2 ^ 20) && decide (wfld (g 7) 63 32 ≤ 65536) &&
    decide (wfld (g 7) 31 0 ≤ 12 * 2 ^ 20) && decide ((g 9).toNat % 65536 = 0) && decide (save % 2 ^ 22 = 0) &&
    decide (save < 2 ^ 42) && decide (fld save 37 0 + saveBytes nseg nres ≤ 0x2FE0000000) &&
    (List.range 5).all (fun i => g (11 + i) == 0)

/-- The first-touch pool that the host gives a context with its descriptor: after the 16 words, the number of pieces, then
each one's address and bytes (R240). -/
def poolOfDesc (w : List Word) : List (Nat × Nat) :=
  (List.range (w.getD 16 0).toNat).map (fun i => ((w.getD (17 + 2 * i) 0).toNat, (w.getD (18 + 2 * i) 0).toNat))

/-- A context as its descriptor makes it; after the pool stand the initial tile-buffer states (R358). -/
def ctxOf (rctx : Nat) (w : List Word) : Ctx :=
  let g (i : Nat) : Word := w.getD i 0
  let runs := (g 16).toNat
  let tbn := wfld (g 5) 63 48
  { rctx := rctx, root := (g 0).toNat, handler := g 1, subBase := (g 2).toNat, cplBase := (g 3).toNat,
    pasid := wfld (g 4) 63 44, kslot := wfld (g 4) 43 36, domain := wfld (g 4) 35 20, ringLog := wfld (g 4) 19 16,
    tbn := tbn, nseg := wfld (g 5) 47 32, qdepth := wfld (g 5) 31 0, gsz := wfld (g 6) 63 32,
    dpQuota := wfld (g 6) 31 0, barQuota := wfld (g 7) 63 32, pinQuota := wfld (g 7) 31 0, mons := g 8, segbase := g 9,
    savebase := (g 10).toNat, desc := w, stepc := 0,
    pool := poolOfDesc w,
    tbs := ((List.range tbn).map (fun i => (i, wfld (g (17 + 2 * runs + i)) 1 0))).filter (fun t => t.2 != 0),
    tbOwn := [], ranges := [], subDoor := 0, cplDoor := 0, taken := 0, recs := [] }

/-- CREATE_CONTEXT (R245, R193, R392, R393): the 128-byte descriptor is that in the mailbox's buffer; what the host sets beside it
follows it (assumption 71). The new number is any that is free. -/
def execCreateContext (desc : List Word) (s : State) : Host.Outcome State Fault Refusal :=
  event (command 0x10 (fun _ => s.mailed desc 16) (do
    let c ← getC
    let free := (List.range 256).filter (fun r => !c.ctxs.any (fun x => x.rctx == r))
    let x := ctxOf 0 desc
    let ok := descOk desc c.host.nresNow && c.loaded x.kslot && !free.isEmpty &&
      decide (c.recordRoom + 64 * x.barQuota ≤ c.host.recArea)
    if !ok then return (← freeStatus, 0)
    else do
      let i ← drawBelow free.length
      let r := free.getD i 0
      modC (fun c => { c with ctxs := c.ctxs ++ [{ x with rctx := r }] })
      return (0, wd r))) s

/-- The tier pages that the end of a context zeroes: those of its pool, and its tenant's where no other context names the slot
(R167). -/
def Ctl.pagesOf (c : Ctl) (x : Ctx) : List Nat :=
  let alone := !c.ctxs.any (fun y => y.rctx != x.rctx && y.kslot == x.kslot)
  let pool : List Nat := ((poolOfDesc x.desc).map (fun r => (List.range ((r.2 + 65535) / 65536)).map (fun i => r.1 / 65536 + i))).flatten
  let own : List Nat := if alone then (c.pages.filter (fun p => p.owner == some x.kslot)).map (·.pg) else []
  (pool ++ own).dedup

/-- The control state without anything of a context. -/
def Ctl.without (c : Ctl) (rctx : Nat) : Ctl :=
  let mine (uid : Nat) : Bool := c.teams.any (fun t => t.uid == uid && t.rctx == rctx)
  { c with
    teams := c.teams.filter (fun t => t.rctx != rctx)
    ctxs := c.ctxs.filter (fun x => x.rctx != rctx)
    entries := c.entries.filter (fun e => !mine e.team)
    replies := c.replies.filter (fun e => !mine e.team)
    jobs := c.jobs.filter (fun j => j.rctx != rctx)
    bars := c.bars.filter (fun b => b.rctx != rctx && !(b.loc.sp == .tm && mine b.team))
    allocs := c.allocs.filter (fun a => a.rctx != rctx)
    tlbs := c.tlbs.filter (fun t => t.rctx != rctx)
    ats := c.ats.filter (fun r => r.rctx != rctx)
    atc := c.atc.filter (fun t => t.rctx != rctx)
    migrs := c.migrs.filter (fun m => m.rctx != rctx)
    waits := c.waits.filter (fun w => w.rctx != rctx)
    conts := c.conts.filter (fun k => k.rctx != rctx)
    recruits := c.recruits.filter (fun x => !mine x.team)
    rings := c.rings.filter (fun x => !mine x.team)
    msgs := c.msgs.filter (fun m => !mine m.team)
    mtiles := c.mtiles.filter (fun m => !mine m.team)
    passes := c.passes.filter (fun p => !mine p.team)
    olds := c.olds.filter (fun o => !(o.loc.sp == .tm && mine (o.loc.key / 2 ^ 32)))
    streams := c.streams.filter (fun x => x.rctx != rctx)
    binds := c.binds.filter (fun b => b.rctx != rctx)
    rtiles := c.rtiles.filter (fun x => x.rctx != rctx)
    rents := c.rents.filter (fun r => !mine r.team)
    tex := c.tex.filter (fun b => b.rctx != rctx)
    vars := c.vars.filter (fun v => v.2 != rctx)
    mats := c.mats.filter (fun m => m.rctx != rctx)
    mons := c.mons.map (fun m => if m.rctx == some rctx then { m with rctx := none } else m)
    pages := c.pages.map (fun p => { p with
      pin := if p.pin == some rctx then none else p.pin, rctx := if p.rctx == some rctx then none else p.rctx })
    cur := c.cur.filter (fun q => !mine q.p.team) }

/-- THE END OF A CONTEXT (R167, R171, R192, R392): its teams and all that they have under way are gone, its pins are
cleared, and its tier pages are zeroed by in-array copy. -/
def endContext (rctx : Nat) : M Unit := do
  let c ← getC
  match c.ctxs.find? (fun x => x.rctx == rctx) with
  | none => pure ()
  | some x => do
    let pages := c.pagesOf x
    forEach (c.teams.filter (fun t => t.rctx == rctx)) (fun t => do
      emit (.wipe .tm (t.uid * 2 ^ 32) ((t.uid + 1) * 2 ^ 32))
      emit (.wipeRegs t.uid))
    modC (fun c => c.without rctx)
    forEach pages (fun p => do
      makeVirgin (p * 64) 64 true
      modC (fun c => c.mapPast (fun m => m.clear (p * 65536) ((p + 1) * 65536))))
    retest

/-- TEARDOWN_CONTEXT (R392). -/
def execTeardownContext (rctx : Nat) (s : State) : Host.Outcome State Fault Refusal :=
  event (command 0x11 (fun c => c.arg 0 == wd rctx) (do
    let c ← getC
    if c.ctxs.any (fun x => x.rctx == rctx) then do
      endContext rctx
      return (0, 0)
    else return (← freeStatus, 0))) s

/-- WRITE_TIER_ATTRIBUTES (R160, R246): PRI, N and OWNER of every tier page of a device range; OWNER none is for the
regions that the host declares for firmware. The pin stays as it stands (assumption 19). -/
def execWriteTierAttributes (base len pri n : Nat) (owner : Option Nat) (s : State) : Host.Outcome State Fault Refusal :=
  event (command 0x12 (fun _ => true) (do
    if 7 < pri ∨ 2 ^ 32 ≤ n ∨ 256 ≤ owner.getD 0 ∨ 2 ^ 42 < base + len ∨ !offOk base ∨
        0x2FE0000000 < fld base 37 0 + len then return (← freeStatus, 0)
    else do
      let pgs := if len = 0 then [] else (List.range ((base + len + 65535) / 65536 - base / 65536)).map (base / 65536 + ·)
      forEach pgs (fun pg => do
        modC fun c =>
          let by_ := c.ctxs.find? (fun x => owner == some x.kslot)
          c.setPage { c.page pg with pri := pri, n := n, owner := owner, rctx := by_.map (·.rctx) }
        let was := (← getC).host.unsealed.contains pg
        onlyIf (owner.isNone && !was) (unsealPage pg)
        onlyIf (owner.isSome && was) (sealPage pg))
      return (0, 0))) s

/-- A range from its descriptor (R256). -/
def rangeOf (num : Nat) (w : List Word) : PRange :=
  let g (i : Nat) : Word := w.getD i 0
  { num := num, base := (g 0).toNat, lim := wfld (g 1) 43 40, blog := wfld (g 1) 36 32, nblk := wfld (g 1) 31 0,
    ghdr := g 2, arg := g 3, fsa := g 4 }

/-- A field breaks R256. -/
def badRange (w : List Word) (r : PRange) : Bool :=
  let g (i : Nat) : Word := w.getD i 0
  wfld (g 1) 63 44 != 0 || wfld (g 1) 39 37 != 0 || decide (r.lim < 1) || decide (8 < r.lim) || decide (r.blog < 12) ||
    decide (20 < r.blog) || decide (r.nblk < 1) || decide (2 ^ 28 < r.nblk) || decide (r.base % 2 ^ r.blog ≠ 0) ||
    decide (2 ^ 48 < r.base + r.nblk * 2 ^ r.blog) || decide (r.fsa.toNat % 64 ≠ 0) ||
    (List.range 3).any (fun i => g (5 + i) != 0)

/-- Bytes of a range and of its fill-state array (R256). -/
def PRange.size (r : PRange) : Nat := r.nblk * 2 ^ r.blog
/-- Bytes of the fill-state array of a range. -/
def PRange.fsaSize (r : PRange) : Nat := (r.nblk + 255) / 256 * 64

/-- Every page of [a, a + n) is mapped to device memory with RD and W. -/
def State.mapped (s : State) (rctx a n : Nat) : Bool :=
  (List.range ((a + n + 4095) / 4096 - a / 4096)).all (fun i =>
    match s.walk (s.ctl.ctx rctx).root ((a / 4096 + i) * 4096) with
    | .leaf e _ _ => entBit e 4 && entBit e 5 && !entBit e 62 && !entBit e 63
    | .fault _ _ => false)

/-- The status of a declaration (R257). -/
def State.rangeStatus (s : State) (x : Ctx) (w : List Word) : Nat :=
  let r := rangeOf 0 w
  let c := s.ctl
  if badRange w r || !s.mapped x.rctx r.base r.size || !s.mapped x.rctx r.fsa.toNat r.fsaSize then 1
  else if 64 ≤ x.ranges.length then 2
  else if x.ranges.any (fun q => overlap q.base q.size r.base r.size) || overlap r.fsa.toNat r.fsaSize r.base r.size then 3
  else
    match (if r.ghdr.toNat % 64 = 0 then s.wordsAt x.rctx r.ghdr.toNat 16 else none) with
    | none => 4
    | some h =>
      if hdrStatus h 1 ≠ 0 ∨ !(headerOf h).fitsUnit then 4
      else if c.host.recArea < c.recordRoom + 2 ^ 20 then 5
      else 0

/-- A block of a range is FILLING or has waiters (R257). -/
def State.rangeBusy (s : State) (rctx : Nat) (r : PRange) : Bool :=
  (List.range r.nblk).any (fun b => s.fillState rctx r b == 1) ||
    s.ctl.waits.any (fun w => w.rctx == rctx && w.range == r.num)

/-- DECLARE_RANGE (R257, R392): of the 64-byte descriptor in the mailbox's buffer (assumption 71), it declares a range under the lowest free number, or removes one. -/
def execDeclareRange (rctx : Nat) (remove : Option Nat) (desc : List Word) (s : State) :
    Host.Outcome State Fault Refusal :=
  event (do
   let c ← getC
   let header ← (if c.runs 0x13 && remove.isNone && c.ctxs.any (fun x => x.rctx == rctx) then
     readSealed rctx (desc.getD 2 0).toNat 128 else pure .ok)
   command 0x13 (fun _ => header != .wait && (remove.isSome || s.mailed desc 8)) (do
    let s ← getS
    match s.ctl.ctxs.find? (fun x => x.rctx == rctx) with
    | none => return (← freeStatus, 0)
    | some x =>
      match remove with
      | some n =>
        match x.ranges.find? (fun r => r.num == n) with
        | none => return (← freeStatus, 0)
        | some r =>
          if s.rangeBusy rctx r then return (6, 0)
          else do
            modC (fun c => c.updCtx rctx (fun x => { x with ranges := x.ranges.filter (fun q => q.num != n) }))
            return (0, 0)
      | none =>
        let st := if header != .ok && [0, 5].contains (s.rangeStatus x desc) then 4 else s.rangeStatus x desc
        let num := ((List.range 64).find? (fun i => !x.ranges.any (fun r => r.num == i))).getD 0
        if st = 0 then
          modC (fun c => c.updCtx rctx (fun x => { x with ranges := x.ranges ++ [rangeOf num desc] }))
        else pure ()
        return (st, 0))) s

/-- The path whose wait a break ends: of those reported, the one whose park is older, or else holds the lowest lane
(R157). -/
def Group.broken (g : Group) : Option (Path × Park) :=
  let ps := g.paths.filterMap (fun p => p.park.bind (fun k => if k.reported && k.doom.isNone then some (p, k) else none))
  let low (p : Path) : Nat := ((lanesOf p.act 64).head?).getD 64
  (sortBy (fun a b => decide ([a.2.since, low a.1] < [b.2.since, low b.1])) ps).head?

/-- BREAK_WAIT (R157): the parked instruction will return with a HANG trap, and the records of its fills go (R266); a park
that is ending already, and a path that is not parked, are reported as a break not applied. -/
def execBreakWait (team : Nat) (who : Who) (s : State) : Host.Outcome State Fault Refusal :=
  event (command 0x20 (fun _ => true) (do
    let s ← getS
    let c := s.ctl
    let g := (c.team team).party who
    if !c.hasTeam team then return (← freeStatus, 0)
    else
      match g.broken with
      | none => do
        report (.breakNotApplied team who)
        return (0, 0)
      | some (p, k) => do
        let id : PathId := { team := team, who := who, pid := p.pid }
        if k.doom.isSome || s.parkMet id k then report (.breakNotApplied team who)
        else do
          dropWaiter (.path id)
          modPark id (fun k => { k with doom := some { mkTrap 0x18 k.kind.hang k.ex with
            addrs := (lanesOf k.ex 64).map (fun l => (l, k.obj)) } })
        return (0, 0))) s

/-- RESUME_HOST_SERVICED (R379): the team may be restored, at the PC or the next PC that was reported, or its context
ends. -/
def execResumeHostServiced (team : Nat) (how : ResumeHow) (s : State) : Host.Outcome State Fault Refusal :=
  event (command 0x21 (fun _ => true) (do
    let c ← getC
    let t := c.team team
    match (if c.hasTeam team && t.phase == .serviced then t.service else none) with
    | none => return (← freeStatus, 0)
    | some v => do
      let again := modTeam team (fun t => { t with phase := .saved, service := none, savedAt := c.cyc })
      match how with
      | .atPc => do
        modPath { team := team, who := v.who, pid := v.pid } (fun p => { p with pc := v.pc })
        again
      | .atNext => do
        modPath { team := team, who := v.who, pid := v.pid } (fun p => { p with pc := v.npc })
        again
      | .endContext => endContext t.rctx
      return (0, 0))) s

/-- n bytes of a list, zeros beyond its end. -/
def fillTo (n : Nat) (l : List Byte) : List Byte := (l ++ List.replicate n 0).take n

/-- The signed part of an attestation report (R254): version, device identifier, nonce, measurements, key-slot
occupancy, the device's public keys. -/
def reportBody (h : HostRegs) (nonce : List Byte) : List Byte :=
  bytesOf 1 8 ++ bytesOf h.devid.toNat 8 ++ fillTo 64 nonce ++ (h.meas.map (fillTo 64)).flatten ++
    bytesOf ((h.kslots.map (fun k => 2 ^ k.1)).sum) 32 ++ fillTo 1568 (Config.encapKey h.boots) ++
    fillTo 64 Config.attestPublic

/-- ATTESTATION_REPORT (R254): the report and its signature, at the buffer that the mailbox names. -/
def execAttestationReport (nonce : List Byte) (buf : Nat) (s : State) : Host.Outcome State Fault Refusal :=
  event (command 0x30 (fun c => c.host.mailbox.buf == wd buf) (do
    let c ← getC
    let body := reportBody c.host nonce
    storeBytes { sp := .hm, key := buf } (body ++ fillTo 29792 (Config.attestSign body))
    return (0, 0))) s

/-- The power states from which one can be entered (R396). -/
def enteredFrom (target : Nat) : List Nat :=
  if target = 0 then [1] else if target = 1 then [0, 2] else if target = 2 then [1] else if target = 3 then [0, 1, 2, 3] else []

/-- Some team is still to be saved, or retires; or an access that has left its pending queue is still on its way (R396). -/
def Ctl.unsaved (c : Ctl) : Bool := c.teams.any (fun t => t.holds) || c.entries.any (fun e => e.stage != .pend) || !c.replies.isEmpty

/-- Every dirty tile of the memory-side caches is written back. -/
def writeBackAll : M Unit := do
  let c ← getC
  forEach (c.cached.filter (·.dirty)) (fun x => flushTile x.tile)

/-- The device goes OFF: its contexts are torn down and its keys erased (R396). -/
def powerOff : M Unit := do
  let c ← getC
  forEach (c.ctxs.map (·.rctx)) endContext
  forEach (c.host.kslots.map (·.1)) eraseSlot
  modHost (fun h => { h with pstate := 3, devrdy := false })

/-- SET_POWER_STATE (R396): STANDBY is entered once the last save has completed and the caches have been written back;
every host line is given up. -/
def execSetPowerState (target : Nat) (s : State) : Host.Outcome State Fault Refusal :=
  event (do
    let c ← getC
    if c.runs 0x40 && c.arg 0 == wd target && target == 2 && c.host.pstate == 1 then
      if c.unsaved then pure ()
      else do
        writeBackAll
        command 0x40 (fun c => c.cached.all (fun x => !x.dirty)) (do
          modHost (fun h => { h with pstate := 2, hostLines := [] })
          return (0, 0))
    else
      command 0x40 (fun c => c.arg 0 == wd target) (do
        if !(enteredFrom target).contains c.host.pstate then return (1, 0)
        else do
          if target = 3 then powerOff else modHost (fun h => { h with pstate := target })
          return (0, 0))) s

/-- A command ends (MAILBOX_COMMAND_COMPLETE; R392): RESULT, then STATUS, then MSI-X vector 0. -/
def execMailboxCommandComplete (s : State) : Host.Outcome State Fault Refusal :=
  event (do
    let c ← getC
    let b := c.host.mailbox
    if b.busy.isSome && b.ran then
      modHost (fun h => { h with
        mailbox := { b with busy := none, ran := false, status := b.pendStatus, result := b.pendResult }
        msix := h.msix ++ [0] })
    else pure ()) s

end Sys2Proof.Machine
end

