-- ==== Sys2Proof/Machine/IntAlu.lean ====
section
/-! DEFINITION. The integer instructions, majors 0x02 to 0x05 (R17 to R19, R66 to R68). -/

namespace Sys2Proof.Machine

/-- `add` (R18). -/
def execAdd (f : Fields) (s : State) : Host.Outcome State Fault Refusal :=
  issueOut (.add f) f (fun e => e.exact (fun l => e.ia l + e.ib l)) s

/-- `sub` (R67). -/
def execSub (f : Fields) (s : State) : Host.Outcome State Fault Refusal :=
  issueOut (.sub f) f (fun e => e.exact (fun l => e.ia l - e.ib l)) s

/-- `mul` (R67). -/
def execMul (f : Fields) (s : State) : Host.Outcome State Fault Refusal :=
  issueOut (.mul f) f (fun e => e.exact (fun l => e.ia l * e.ib l)) s

/-- `mulhi`: the high w bits of the exact product (R67). -/
def execMulhi (f : Fields) (s : State) : Host.Outcome State Fault Refusal :=
  issueOut (.mulhi f) f (fun e => e.intAlu (fun l =>
    (wrapInt e.iw (Int.fdiv (e.ia l * e.ib l) ((2 ^ e.iw : Nat) : Int)), 0))) s

/-- `mad`: exact, then wrapped or clamped once (R67). -/
def execMad (f : Fields) (s : State) : Host.Outcome State Fault Refusal :=
  issueOut (.mad f) f (fun e => e.exact (fun l => e.ia l * e.ib l + e.ic l)) s

/-- `min` (R67). -/
def execMin (f : Fields) (s : State) : Host.Outcome State Fault Refusal :=
  issueOut (.min f) f (fun e => e.exact (fun l => if e.ib l < e.ia l then e.ib l else e.ia l)) s

/-- `max` (R67). -/
def execMax (f : Fields) (s : State) : Host.Outcome State Fault Refusal :=
  issueOut (.max f) f (fun e => e.exact (fun l => if e.ia l < e.ib l then e.ib l else e.ia l)) s

/-- `abs` (R67, R68). -/
def execAbs (f : Fields) (s : State) : Host.Outcome State Fault Refusal :=
  issueOut (.abs f) f (fun e => e.exact (fun l => if e.ia l < 0 then -(e.ia l) else e.ia l)) s

/-- `neg` (R67, R68). -/
def execNeg (f : Fields) (s : State) : Host.Outcome State Fault Refusal :=
  issueOut (.neg f) f (fun e => e.exact (fun l => -(e.ia l))) s

/-- `and` (R67). -/
def execAnd (f : Fields) (s : State) : Host.Outcome State Fault Refusal :=
  issueOut (.and f) f (fun e => e.bitwise (fun l => e.na l &&& e.nb l)) s

/-- `or` (R67). -/
def execOr (f : Fields) (s : State) : Host.Outcome State Fault Refusal :=
  issueOut (.or f) f (fun e => e.bitwise (fun l => e.na l ||| e.nb l)) s

/-- `xor` (R67). -/
def execXor (f : Fields) (s : State) : Host.Outcome State Fault Refusal :=
  issueOut (.xor f) f (fun e => e.bitwise (fun l => e.na l ^^^ e.nb l)) s

/-- `not` (R67). -/
def execNot (f : Fields) (s : State) : Host.Outcome State Fault Refusal :=
  issueOut (.not f) f (fun e => e.bitwise (fun l => 2 ^ e.iw - 1 - e.na l)) s

/-- `sel`: bit L of the mask register chooses (R67). -/
def execSel (f : Fields) (s : State) : Host.Outcome State Fault Refusal :=
  issueOut (.sel f) f (fun e => e.bitwise (fun l =>
    if (e.k (f.sc.toNat - 352)).getLsbD l then e.na l else e.nb l)) s

/-- `mov` (R67). -/
def execMov (f : Fields) (s : State) : Host.Outcome State Fault Refusal :=
  issueOut (.mov f) f (fun e => e.bitwise e.na) s

/-- `ldi`: the immediate (R67). -/
def execLdi (f : Fields) (s : State) : Host.Outcome State Fault Refusal :=
  issueOut (.ldi f) f (fun e => e.bitwise e.na) s

/-- `iota`: a + L * b, wrapped (R67). -/
def execIota (f : Fields) (s : State) : Host.Outcome State Fault Refusal :=
  issueOut (.iota f) f (fun e => e.intAlu (fun l => (wrapInt e.iw (e.ia l + (l : Int) * e.ib l), 0))) s

/-- `shl`: 0 when the count is w or more (R67). -/
def execShl (f : Fields) (s : State) : Host.Outcome State Fault Refusal :=
  issueOut (.shl f) f (fun e => e.bitwise (fun l => if e.iw ≤ e.nb l then 0 else e.na l * 2 ^ e.nb l)) s

/-- `shr` (R67). -/
def execShr (f : Fields) (s : State) : Host.Outcome State Fault Refusal :=
  issueOut (.shr f) f (fun e => e.bitwise (fun l => if e.iw ≤ e.nb l then 0 else e.na l / 2 ^ e.nb l)) s

/-- `sra`: filled with bit w - 1 of a (R67). -/
def execSra (f : Fields) (s : State) : Host.Outcome State Fault Refusal :=
  issueOut (.sra f) f (fun e => e.intAlu (fun l =>
    (wrapInt e.iw (Int.fdiv (sextNat e.iw (e.na l)) ((2 ^ (min (e.nb l) e.iw) : Nat) : Int)), 0))) s

/-- `rot`: rotated left by b mod w (R67). -/
def execRot (f : Fields) (s : State) : Host.Outcome State Fault Refusal :=
  issueOut (.rot f) f (fun e => e.bitwise (fun l =>
    let k := e.nb l % e.iw
    e.na l * 2 ^ k + e.na l / 2 ^ (e.iw - k))) s

/-- Position and effective length of a bit field (R67). -/
def fieldOf (w cnt : Nat) : Nat × Nat :=
  let pos := cnt % 256
  (pos, if w ≤ pos then 0 else min (cnt / 256 % 256) (w - pos))

/-- `bfe` (R67). -/
def execBfe (f : Fields) (s : State) : Host.Outcome State Fault Refusal :=
  issueOut (.bfe f) f (fun e => e.intAlu (fun l =>
    let pl := fieldOf e.iw (e.n32 f.sb.toNat l)
    let x := e.na l / 2 ^ pl.1 % 2 ^ pl.2
    (if intSigned (mfld f 3 0) then wrapInt e.iw (sextNat pl.2 x) else x, 0))) s

/-- `bfi` (R67). -/
def execBfi (f : Fields) (s : State) : Host.Outcome State Fault Refusal :=
  issueOut (.bfi f) f (fun e => e.bitwise (fun l =>
    let pl := fieldOf e.iw (e.n32 f.sc.toNat l)
    let a := e.na l
    a - a / 2 ^ pl.1 % 2 ^ pl.2 * 2 ^ pl.1 + e.nb l % 2 ^ pl.2 * 2 ^ pl.1)) s

/-- `popc` (R67). -/
def execPopc (f : Fields) (s : State) : Host.Outcome State Fault Refusal :=
  issueOut (.popc f) f (fun e => e.bitwise (fun l => (bitsIn (e.na l) e.iw).length)) s

/-- `clz`: w for 0 (R67). -/
def execClz (f : Fields) (s : State) : Host.Outcome State Fault Refusal :=
  issueOut (.clz f) f (fun e => e.bitwise (fun l =>
    match (bitsIn (e.na l) e.iw).getLast? with
    | some i => e.iw - 1 - i
    | none => e.iw)) s

/-- `ctz`: w for 0 (R67). -/
def execCtz (f : Fields) (s : State) : Host.Outcome State Fault Refusal :=
  issueOut (.ctz f) f (fun e => e.bitwise (fun l => ((bitsIn (e.na l) e.iw).head?).getD e.iw)) s

/-- `brev` (R67). -/
def execBrev (f : Fields) (s : State) : Host.Outcome State Fault Refusal :=
  issueOut (.brev f) f (fun e => e.bitwise (fun l => ((bitsIn (e.na l) e.iw).map (fun i => 2 ^ (e.iw - 1 - i))).sum)) s

end Sys2Proof.Machine
end

