-- ==== Sys2Proof/Machine/Window.lean ====
section
/-! DEFINITION. The host window's registers (R390 to R392, R395, R398, R400), the doorbells and host submissions (R394, R368). -/

namespace Sys2Proof.Machine

/-- The window answers (R391). -/
def Ctl.windowOpen (c : Ctl) : Bool := decide (6 ≤ c.host.stage)

/-- The command codes (R392). -/
def commandCodes : List Nat := [0x01, 0x02, 0x10, 0x11, 0x12, 0x13, 0x20, 0x21, 0x30, 0x40]

/-- A command code is written (R392, R396). -/
def postCommand (code : Nat) : M Unit := do
  let h := (← getC).host
  let start (ran : Bool) (st : Nat) : M Unit := modHost (fun h => { h with mailbox := { h.mailbox with
    busy := some code, ran := ran, pendStatus := st, pendResult := 0 } })
  if h.mailbox.busy.isSome then modHost (fun h => { h with mailbox := { h.mailbox with status := 0xFF } })
  else if !h.devrdy && code ≠ 0x30 then pure ()
  else if h.pstate = 2 ∧ code ≠ 0x30 ∧ code ≠ 0x40 then start true 2
  else if commandCodes.contains code then start false 0
  else do start true (← freeStatus)

/-- A write to the mailbox at an offset from it (R392). -/
def mailboxWrite (off : Nat) (v : Word) : M Unit :=
  if off = 0 then postCommand v.toNat
  else if off = 0x10 ∨ off = 0x18 ∨ off = 0x20 ∨ off = 0x28 then
    modHost (fun h => { h with mailbox := { h.mailbox with args := h.mailbox.args.set ((off - 0x10) / 8) v } })
  else if off = 0x30 then modHost (fun h => { h with mailbox := { h.mailbox with buf := v } })
  else pure ()

/-- A write to a threshold: a value outside the field's range leaves it unchanged (R156, R395). -/
def HostRegs.threshold (h : HostRegs) (off v : Nat) : HostRegs :=
  let inR (lo hi : Nat) : Bool := decide (lo ≤ v) && decide (v ≤ hi)
  if off = 0x00 then (if inR 50 10000 then { h with quantum := v } else h)
  else if off = 0x08 then (if inR 1 1000 then { h with clockGate := v } else h)
  else if off = 0x10 then (if inR 10 100000 then { h with powerGate := v } else h)
  else if off = 0x18 then (if inR 1 1000000 && decide (v < h.hangReport) then { h with hangWarn := v } else h)
  else if off = 0x20 then (if inR (h.hangWarn + 1) 1000000 then { h with hangReport := v } else h)
  else if off = 0x28 then (if inR 1 168 then { h with scrub := v } else h)
  else if off = 0x30 then (if inR 8 64 then { h with nres := v } else h)
  else h

/-- A write to a field of a ramp table (R306): STEP, RISE, FALL and CAP, one doubleword each. -/
def Slew.setField (x : Slew) (off v : Nat) : Slew :=
  let inR (lo hi : Nat) : Bool := decide (lo ≤ v) && decide (v ≤ hi)
  if off = 0x00 then (if inR 4 64 && v % 4 == 0 then { x with step := v } else x)
  else if off = 0x08 then (if inR 1 16 then { x with rise := v } else x)
  else if off = 0x10 then (if inR 1 16 then { x with fall := v } else x)
  else if off = 0x18 then (if inR 16 256 then { x with cap := v } else x)
  else x

/-- The host configures a monitor (R401): a source that is not defined is refused. -/
def hostMonitor (die m : Nat) (v : Word) : M Unit :=
  if 8 < wfld v 7 0 then pure () else modC (fun c => c.setMonitor ((c.monitor die m).configure none v))

/-- The fabric block may be written (R398). -/
def Ctl.holdEmpty (c : Ctl) : Bool := c.host.pstate == 1 && c.host.devrdy && c.ctxs.isEmpty

/-- A write to the fabric block at an offset from it (R398). -/
def fabricWrite (off : Nat) (v : Word) : M Unit := do
  if !(← getC).holdEmpty then pure ()
  else if off = 0 then
    modHost (fun h => { h with fvalid := v.getLsbD 32, devid := BitVec.ofNat 20 (wfld v 19 0) })
  else if 0x100 ≤ off ∧ off < 0x300 ∧ off % 8 = 0 then
    modHost (fun h => { h with routes := h.routes.set ((off - 0x100) / 8) (v &&& 0xFFFFFFFFFF00000F) })
  else pure ()

/-- How far a doorbell's new value lies beyond another index (R394). -/
def doorDiff (n p : BitVec 32) : Nat := (n - p).toNat

/-- A write to a submission doorbell (R394): what cannot describe the ring is ignored. -/
def subDoorbell (rctx : Nat) (n : BitVec 32) : M Unit := modC fun c =>
  if c.windowOpen then
    c.updCtx rctx (fun x => if doorDiff n x.subDoor ≤ 2 ^ x.ringLog then { x with subDoor := n } else x)
  else c

/-- A write to a completion-head doorbell (R394). -/
def cplDoorbell (rctx : Nat) (n : BitVec 32) : M Unit := modC fun c =>
  if c.windowOpen then
    c.updCtx rctx (fun x => if doorDiff n x.cplDoor ≤ 2 ^ x.ringLog then { x with cplDoor := n } else x)
  else c

/-- SUBMISSION_DOORBELL (R394). -/
def execSubmissionDoorbell (rctx : Nat) (n : BitVec 32) (s : State) : Host.Outcome State Fault Refusal :=
  event (subDoorbell rctx n) s

/-- COMPLETION_DOORBELL (R394). -/
def execCompletionDoorbell (rctx : Nat) (n : BitVec 32) (s : State) : Host.Outcome State Fault Refusal :=
  event (cplDoorbell rctx n) s

/-- FABRIC_BLOCK_WRITE (R398). -/
def execFabricBlockWrite (off : Nat) (value : Word) (s : State) : Host.Outcome State Fault Refusal :=
  event (do onlyIf (← getC).windowOpen (fabricWrite off value)) s

/-- DIE_LINK_MAP_WRITE (R400): taken only in HOLD with no team resident. -/
def execDieLinkMapWrite (die dest port : Nat) (s : State) : Host.Outcome State Fault Refusal :=
  event (do
    let c ← getC
    if c.windowOpen && c.host.pstate == 1 && !c.teams.any (·.holds) && decide (die < 8) && decide (dest < 8) && decide (port < 4) then
      modHost (fun h => { h with
        linkMap := (die, dest, port) :: h.linkMap.filter (fun m => !(m.1 == die && m.2.1 == dest)) })
    else pure ()) s

/-- A write to a doubleword of the window (R390): reserved and read-only bytes ignore it. -/
def windowWrite (off : Nat) (v : Word) : M Unit :=
  if off % 8 ≠ 0 then pure ()
  else if 0x100 ≤ off ∧ off < 0x140 then mailboxWrite (off - 0x100) v
  else if 0x1000 ≤ off ∧ off < 0x1038 then modHost (fun h => h.threshold (off - 0x1000) v.toNat)
  else if 0x2000 ≤ off ∧ off < 0x2800 then
    modC (fun c => { c with slews := c.slews.modify ((off - 0x2000) / 0x100) (fun x => x.setField (off % 0x100) v.toNat) })
  else if 0x3000 ≤ off ∧ off < 0x3300 then fabricWrite (off - 0x3000) v
  else if 0x4000 ≤ off ∧ off < 0x8000 ∧ off % 0x20 = 0 then
    hostMonitor ((off - 0x4000) / 0x800) (off % 0x800 / 0x20) v
  else if 0x10000 ≤ off ∧ off < 0x10800 then subDoorbell ((off - 0x10000) / 8) (v.setWidth 32)
  else if 0x10800 ≤ off ∧ off < 0x11000 then cplDoorbell ((off - 0x10800) / 8) (v.setWidth 32)
  else pure ()

/-- What the host configures outside the window, as the model numbers it from the window's end on (assumption 123): HDM decoder
k at 0x20 k with its first address, its bytes and its key slot (R389), and at 0x400 the size of the record areas from the next
bring-up on, from 64 MiB to 4 GiB (R193). -/
def configWrite (off : Nat) (v : Word) : M Unit :=
  let k := off / 0x20
  let field (d : Nat × Nat × Nat) : Nat × Nat × Nat :=
    if off % 0x20 = 0 then (v.toNat, d.2) else if off % 0x20 = 8 then (d.1, v.toNat, d.2.2)
    else if off % 0x20 = 0x10 ∧ v.toNat < 256 then (d.1, d.2.1, v.toNat) else d
  if k < 16 then modHost (fun h => { h with hdm := h.hdm.modify k field })
  else if off = 0x400 ∧ 2 ^ 26 ≤ v.toNat ∧ v.toNat ≤ 2 ^ 32 then modHost (fun h => { h with recNext := v.toNat })
  else pure ()

/-- The core of a reserve unit, as a byte of the window shows it; 0xFF of a unit that is not reserved (R263). -/
def HostRegs.unitPlace (h : HostRegs) (die u : Nat) : Nat := (h.units.getD die []).getD u 0xFF

/-- A die's block of the window (R390): its ramp table (R306), the die-link map from +0x20 (R400), and from +0x80 the places of
its reserve units, a byte each (R263; assumption 124). -/
def State.dieBlock (s : State) (die off : Nat) : Word :=
  let x := s.ctl.slews.getD die Slew.init
  if off = 0x00 then wd x.step
  else if off = 0x08 then wd x.rise
  else if off = 0x10 then wd x.fall
  else if off = 0x18 then wd x.cap
  else if 0x20 ≤ off ∧ off < 0x60 then wd (s.ctl.linkPort die ((off - 0x20) / 8))
  else if 0x80 ≤ off ∧ off < 0xC0 then
    wd (((List.range 8).map (fun i => s.ctl.host.unitPlace die (off - 0x80 + i) * 256 ^ i)).sum)
  else 0

/-- A threshold of the window (R395). -/
def HostRegs.thresholdAt (h : HostRegs) (off : Nat) : Word :=
  wd ([h.quantum, h.clockGate, h.powerGate, h.hangWarn, h.hangReport, h.scrub, h.nres].getD (off / 8) 0)

/-- Device status (R391). -/
def HostRegs.statusWord (h : HostRegs) : Word :=
  wd (h.faild.toNat * 2 ^ 32 + h.stage * 2 ^ 24 + h.pstate * 2 ^ 16 + (if h.devrdy then 1 else 0))

/-- What a doubleword of the host window reads (R390 to R395, R398, R401): reserved bytes read zero. -/
def State.windowRead (s : State) (off : Nat) : Word :=
  let c := s.ctl
  let h := c.host
  if off % 8 ≠ 0 then 0
  else if off = 0 then h.statusWord
  else if off = 8 then h.failx
  else if !c.windowOpen then 0
  else if off = 0x108 then wd h.mailbox.status
  else if 0x110 ≤ off ∧ off < 0x130 then h.mailbox.args.getD ((off - 0x110) / 8) 0
  else if off = 0x130 then h.mailbox.buf
  else if off = 0x138 then h.mailbox.result
  else if 0x1000 ≤ off ∧ off < 0x1038 then h.thresholdAt (off - 0x1000)
  else if 0x2000 ≤ off ∧ off < 0x2800 then s.dieBlock ((off - 0x2000) / 0x100) (off % 0x100)
  else if off = 0x3000 then wd ((if h.fvalid then 2 ^ 32 else 0) + h.devid.toNat)
  else if off = 0x3008 then wd h.linkup.toNat
  else if 0x3100 ≤ off ∧ off < 0x3300 then h.routes.getD ((off - 0x3100) / 8) 0
  else if 0x4000 ≤ off ∧ off < 0x8000 ∧ off % 0x20 = 0 then (c.monitor ((off - 0x4000) / 0x800) (off % 0x800 / 0x20)).cfg
  else if 0x10000 ≤ off ∧ off < 0x10800 then ((c.ctx ((off - 0x10000) / 8)).subDoor).setWidth 64
  else if 0x10800 ≤ off ∧ off < 0x11000 then ((c.ctx ((off - 0x10800) / 8)).cplDoor).setWidth 64
  else if 0x20000 ≤ off ∧ off < 0x28000 then (c.ctx ((off - 0x20000) / 128)).desc.getD (off % 128 / 8) 0
  else 0

/-- HOST_REGISTER_WRITE (R389 to R392, R395, R401). -/
def execHostRegisterWrite (off : Nat) (value : Word) (s : State) : Host.Outcome State Fault Refusal :=
  event (do
    if 0x4000000 ≤ off then configWrite (off - 0x4000000) value
    else onlyIf (← getC).windowOpen (windowWrite off value)) s

/-- n blocks of 64 bytes of a context's memory. -/
def submitBlocks (rctx va : Nat) : Nat → M (Got (List Word))
  | 0 => pure (.ok [])
  | n + 1 => do
    match ← deviceReach 0 rctx va { rd := true, wr := false, x := false } with
    | .fault k b => return .trap (mkTrap k b 0)
    | .wait => return .wait
    | .ok l => do
      let s ← getS
      let ws := (List.range 8).map (fun i => wd (s.load (l.plus (8 * i)) 8))
      match ← submitBlocks rctx (va + 64) n with
      | .ok r => return .ok (ws ++ r)
      | r => return r

/-- The counter that a submission's record names: none where it lies outside this device's memory (R359). -/
def submitJoin (rctx : Nat) (a : Word) : M (Got (Option (Option Nat))) := do
  if a = 0 then return .ok (some none)
  else
    match ← deviceReach 0 rctx a.toNat { rd := true, wr := true, x := false } with
    | .fault k b => return .trap (mkTrap k b 0)
    | .wait => return .wait
    | .ok l => return .ok (if l.sp == .dm then some (some l.key) else none)

/-- A host submission's status, and the record that it enqueues (R368); NOREAD is a trap of the attempt. -/
def submitRecord (rctx : Nat) (ws : List Word) : M (Got (Nat × Option Rec)) := do
  let ha := (ws.getD 0 0).toNat
  let fa := (ws.getD 1 0).toNat
  match ← submitBlocks rctx ha (if ha % 64 = 0 then 2 else 0) with
  | .trap r => return .trap r
  | .wait => return .wait
  | .ok hdr =>
    match ← submitBlocks rctx fa (if fa = 0 ∨ fa % 64 ≠ 0 then 0 else 7) with
    | .trap r => return .trap r
    | .wait => return .wait
    | .ok frame => do
      let c ← getC
      let st := recordStatus ws hdr (c.ctx rctx).tbn
      if st ≠ 0 then return .ok (st, none)
      else
        match ← submitJoin rctx (ws.getD 2 0) with
        | .trap r => return .trap r
        | .wait => return .wait
        | .ok j =>
          match ← submitJoin rctx (ws.getD 3 0) with
          | .trap r => return .trap r
          | .wait => return .wait
          | .ok w =>
            match j, w with
            | some j, some w =>
              if c.queueFull rctx then return .ok (8, none)
              else do
                let id ← freshId
                return .ok (0, some (recordOf id rctx (wfld (ws.getD 5 0) 3 0) ws hdr frame j w))
            | _, _ => return .ok (9, none)

/-- The next submission of a context can be taken (R394, R396). -/
def Ctl.canTake (c : Ctl) (x : Ctx) : Bool :=
  c.host.devrdy && decide (c.host.pstate < 2) && x.taken != x.subDoor && decide (doorDiff x.taken x.cplDoor < 2 ^ x.ringLog)

/-- Completion word i of a context is written, and its vector raised (R394). -/
def complete (x : Ctx) (st : Nat) : M Unit := do
  let i := x.taken.toNat
  storeN { sp := .hm, key := x.cplBase + 8 * (i % 2 ^ x.ringLog) } (i * 2 ^ 32 + x.rctx % 256 * 2 ^ 8 + st % 256) 8
  modC (fun c => c.updCtx x.rctx (fun y => { y with taken := y.taken + 1 }))
  modHost (fun h => { h with msix := h.msix ++ [1 + x.rctx] })

/-- The next entry of a context's submission ring is taken (HOST_SUBMISSION; R394, R368). -/
def execHostSubmission (rctx : Nat) (s : State) : Host.Outcome State Fault Refusal :=
  event (do
    let s ← getS
    match s.ctl.ctxs.find? (fun x => x.rctx == rctx) with
    | none => pure ()
    | some x =>
      if !s.ctl.canTake x then pure ()
      else do
        let l : Loc := { sp := .hm, key := x.subBase + 64 * (x.taken.toNat % 2 ^ x.ringLog) }
        let ws := (List.range 8).map (fun i => wd (s.load (l.plus (8 * i)) 8))
        match ← attempt (submitRecord rctx ws) with
        | .wait => pure ()
        | .trap _ => complete x 10
        | .ok (st, r) => do
          match r with
          | some r => enqueueRec r
          | none => pure ()
          complete x st) s

end Sys2Proof.Machine
end

