-- ==== Sys2Proof/Machine/Power.lean ====
section
/-! DEFINITION. Power-good and bring-up (R253, R399), host accesses over CXL (R223, R389, R396), links that retrain or fail
(R288, R327, R398), and monitor samples (R401). -/

namespace Sys2Proof.Machine

/-- A bring-up begins: nothing is left of what ran before, and memory is virgin (R253, R399). Thresholds, ramp settings and
the reserve that the host asked for stay. -/
def Ctl.fresh (c : Ctl) : Ctl :=
  { Ctl.init with
    free := c.free, nextId := c.nextId, nextUid := c.nextUid, agenda := c.agenda,
    slews := c.slews.map (fun x => { Slew.init with step := x.step, rise := x.rise, fall := x.fall, cap := x.cap }),
    host := { HostRegs.init with
      quantum := c.host.quantum, clockGate := c.host.clockGate, powerGate := c.host.powerGate,
      hangWarn := c.host.hangWarn, hangReport := c.host.hangReport, scrub := c.host.scrub, nres := c.host.nres,
      reports := c.host.reports, msix := c.host.msix, recArea := c.host.recNext, recNext := c.host.recNext, boots := c.host.boots + 1 } }

/-- The dies whose boot ROM finds an image that does not verify (R253): compute dies 0 to 7, and 8 + s the base die of stack
s. -/
def badFirmware (boots : Nat) : List Nat := (List.range 24).filter (fun d => !Config.firmwareOk boots d)

/-- The dies whose image is run. -/
def goodFirmware (boots : Nat) : List Nat := (List.range 24).filter (fun d => Config.firmwareOk boots d)

/-- The dies that fail bring-up, as FAILD shows them. -/
def failDies (boots : Nat) (f : BringupFail) : BitVec 8 :=
  f.dies ||| BitVec.ofNat 8 (((badFirmware boots).filter (fun d => decide (d < 8))).map (2 ^ ·)).sum

/-- The stacks whose base die fails firmware verification, as FAILX shows them (R391). -/
def badStacks (boots : Nat) : BitVec 16 :=
  BitVec.ofNat 16 (((badFirmware boots).filter (fun d => decide (8 ≤ d))).map (fun d => 2 ^ (d - 8))).sum

/-- FAILX (R391). -/
def failWord (f : BringupFail) : Word := wd (f.chans.toNat * 2 ^ 26 + f.links.toNat * 2 ^ 16 + f.stks.toNat)

/-- What fails while a stage of bring-up does its work (R399): any die, die boundary, stack or capacity channel; at stage 1 also
those whose firmware does not verify (R253). -/
def failsAt (boots stage : Nat) (f : BringupFail) : BitVec 8 × Word :=
  if stage = 1 then (failDies boots f, failWord { f with stks := f.stks ||| badStacks boots }) else (f.dies, failWord f)

/-- A measurement register extended by an item (R253). -/
def extendMeas (m item : List Byte) : List Byte := fillTo 64 (Config.shake512 (m ++ fillTo 64 (Config.shake512 item)))

/-- The configuration that the host has loaded before DEVRDY, as an item (R253; assumption 85). -/
def configItem (h : HostRegs) (slews : List Slew) : List Byte :=
  (([h.quantum, h.clockGate, h.powerGate, h.hangWarn, h.hangReport, h.scrub, h.nres, h.recArea] ++
    (slews.map (fun x => [x.step, x.rise, x.fall, x.cap])).flatten).map (fun x => bytesOf x 8)).flatten

/-- The measurement registers once every image that verifies has been run (R253): in M[0] the images, in the order of the dies. -/
def measuredImages (h : HostRegs) : List (List Byte) :=
  h.meas.modify 0 (fun m => (goodFirmware h.boots).foldl (fun m d => extendMeas m (Config.firmwareImage h.boots d)) m)

/-- The measurement registers once the configuration stands (R253): in M[1], what the host has loaded before DEVRDY. -/
def measuredConfig (h : HostRegs) (slews : List Slew) : List (List Byte) :=
  h.meas.modify 1 (fun m => extendMeas m (configItem h slews))

/-- The reserve units of every die, where the device places them (R263). -/
def placeUnits (nres : Nat) : List (List Nat) := List.replicate 8 ((List.range nres).map unitCore)

/-- The work of a stage of bring-up has been done without a failure: the next stage begins (R253, R263, R399). -/
def stageDone (fails : BringupFail) : M Unit := do
  let h := (← getC).host
  match h.stage with
  | 2 => modHost (fun h => { h with linkup := ~~~fails.fabric })
  | 5 => do
    emits [.wipe .dm 0 (2 ^ 42), .wipe .dp 0 (2 ^ 30)]
    modHost (fun h => { h with nresNow := h.nres, units := placeUnits h.nres })
  | _ => pure ()
  modHost (fun h => { h with stage := h.stage + 1 })

/-- Power has become good, or a stage of bring-up ends (POWER_GOOD; R253, R396, R399): from OFF bring-up begins; while it runs, a
stage does its work and the next begins, the last to DEVRDY in HOLD; where something fails it stops for good. -/
def execPowerGood (fails : BringupFail) (s : State) : Host.Outcome State Fault Refusal :=
  event (do
    let c ← getC
    if c.host.pstate ≠ 3 ∨ c.host.devrdy then pure ()
    else if 7 ≤ c.host.stage then do
      forEach (c.teams.map (·.uid)) (fun uid => do
        emit (.wipe .tm (uid * 2 ^ 32) ((uid + 1) * 2 ^ 32))
        emit (.wipeRegs uid))
      setC c.fresh
    else if !c.host.bringing then pure ()
    else if c.host.stage = 6 then
      modHost (fun h => { h with meas := measuredConfig h c.slews, stage := 7, devrdy := true, pstate := 1 })
    else do
      onlyIf (c.host.stage == 1) (modHost (fun h => { h with meas := measuredImages h }))
      let x := failsAt c.host.boots c.host.stage fails
      if x.1 ≠ 0 ∨ x.2 ≠ 0 then modHost (fun h => { h with faild := x.1, failx := x.2 })
      else stageDone fails) s

/-- Pieces of a device range, tile by tile: first address and bytes. -/
def tilePieces (a n : Nat) : List (Nat × Nat) :=
  if n = 0 then []
  else (List.range ((a + n + 1023) / 1024 - a / 1024)).map (fun i =>
    let lo := max a ((a / 1024 + i) * 1024)
    (lo, min (a + n) ((a / 1024 + i + 1) * 1024) - lo))

/-- A device range that a host access may name (R158). -/
def hostRange (a n : Nat) : Bool :=
  decide (a + n ≤ 2 ^ 42) && (tilePieces a n).all (fun p => offOk p.1 && offOk (p.1 + p.2 - 1))

/-- Every tile of a host access passes under the slot of its range (R246, R251). -/
def hostSeal (slot : Nat) (write : Bool) : List (Nat × Nat) → M Sealed
  | [] => pure .ok
  | p :: r => do
    match ← sealAccess slot p.1 write with
    | .ok => hostSeal slot write r
    | x => return x

/-- The HDM decoder that a host access falls to (R389): its key slot. -/
def Ctl.decoderSlot (c : Ctl) (addr n : Nat) : Option Nat :=
  (c.host.hdm.find? (fun d => decide (0 < n) && covers d.1 d.2.1 addr n)).map (·.2.2)

/-- A host access of n bytes is served under its decoder's slot (R246, R389), which the step names; or in STANDBY, or where a
tile fails or the slot holds no key, it ends with an error (R396); while a tile is re-sealed it waits. -/
def hostAccess (addr n slot : Nat) (write : Bool) (served : M Unit) : M Unit := do
  let c ← getC
  match (if c.host.devrdy && hostRange addr n then c.decoderSlot addr n else none) with
  | none => pure ()
  | some k =>
    if k ≠ slot then pure ()
    else if c.host.pstate = 2 || !c.loaded slot then report (.cxlError addr)
    else
      match ← hostSeal slot write (tilePieces addr n) with
      | .wait => pure ()
      | .fail _ => report (.cxlError addr)
      | .ok => served

/-- A CXL.mem read (CXL_MEM_READ; R223, R389): it is answered from the point of coherence; the host then holds the lines. -/
def execCxlMemRead (addr len slot : Nat) (s : State) : Host.Outcome State Fault Refusal :=
  event (hostAccess addr len slot false (do
    let bs := (← getS).loadBytes (dmLoc addr) len
    let lines := (List.range ((addr + len + 63) / 64 - addr / 64)).map (addr / 64 + ·)
    modHost (fun h => { h with copies := (lines ++ h.copies).dedup })
    report (.cxlData addr bs))) s

/-- A CXL.mem write (CXL_MEM_WRITE; R223, R389): it takes effect at the point of coherence. -/
def execCxlMemWrite (addr : Nat) (bytes : List Byte) (slot : Nat) (s : State) : Host.Outcome State Fault Refusal :=
  event (hostAccess addr bytes.length slot true (do
    storeBytes (dmLoc addr) bytes
    retest)) s

/-- A host snoop of a host line (CXL_CACHE_SNOOP; R389, R396): the device gives the line up, and answers a miss where it
holds none. -/
def execCxlCacheSnoop (line : Nat) (s : State) : Host.Outcome State Fault Refusal :=
  event (do
    let h := (← getC).host
    if !h.devrdy then pure ()
    else do
      report (.snoop line (h.hostLines.contains line))
      modHost (fun h => { h with hostLines := h.hostLines.filter (· != line) })) s

/-- There is such a link (R391, R397). -/
def isLink (l : LinkId) : Bool :=
  match l with
  | .boundary k => decide (k < 10)
  | .fabric d => decide (d < 8)

/-- A retrain of a link begins or ends (LINK_RETRAIN; R288): until it ends, what would cross the link waits. -/
def execLinkRetrain (link : LinkId) (s : State) : Host.Outcome State Fault Refusal :=
  event (modC (fun c =>
    if c.retrain.contains link then { c with retrain := c.retrain.filter (· != link) }
    else if isLink link then { c with retrain := link :: c.retrain } else c)) s

/-- A record or an end marker of a context's raster stream has still to cross a die boundary on its way to a die (R327). -/
def Ctl.rasterWaits (c : Ctl) (rctx k : Nat) : Bool :=
  c.streams.any (fun x => x.rctx == rctx &&
    (x.prims.any (fun p => p.dies.any (fun d => d.2 == 0 && (c.boundaries d.1 8 x.die).contains k)) ||
      (x.closing && x.markerDies.any (fun d => (c.boundaries d 8 x.die).contains k))))

/-- A link fails (LINK_FAIL; R327, R398): a fabric port is marked down; a die boundary's failed retrain ends the context
whose raster record or end marker waits for it. -/
def execLinkFail (link : LinkId) (rctx : Option Nat) (s : State) : Host.Outcome State Fault Refusal :=
  event (do
    let c ← getC
    match link, rctx with
    | .fabric d, _ =>
      if d < 8 then
        modC (fun c => { c with
          retrain := c.retrain.filter (· != link)
          host := { c.host with linkup := c.host.linkup &&& ~~~BitVec.ofNat 8 (2 ^ d) } })
      else pure ()
    | .boundary k, some r =>
      if c.retrain.contains link && c.rasterWaits r k then do
        endContext r
        report (.rasterLink link r)
      else pure ()
    | .boundary _, none => pure ()) s

/-- Messages of a context that a die's inbox holds for its rings (R291). -/
def Ctl.inbox (c : Ctl) (die rctx : Nat) : Nat :=
  (c.msgs.filter (fun m => m.held && c.rings.any (fun x =>
    x.die == die && (c.team x.team).rctx == rctx && c.addressed m x))).length

/-- A monitor that samples does so once every 256 cycles (MONITOR_SAMPLE; R401): the die's grant, or the occupancy of the
context's ring inbox. -/
def execMonitorSample (die m : Nat) (s : State) : Host.Outcome State Fault Refusal :=
  event (modC (fun c =>
    match c.mons.find? (fun x => x.die == die && x.m == m) with
    | none => c
    | some x =>
      let src := wfld x.cfg 7 0
      let v := match (if src = 7 then some 0 else none), (if src = 8 then x.rctx else none) with
        | some _, _ => some ((c.slews.getD die Slew.init).held.sum)
        | none, some r => some (c.inbox die r)
        | none, none => none
      match v with
      | some v =>
        if c.cyc % 256 = 0 ∧ x.sampled ≠ c.cyc / 256 then c.setMonitor { x.record v with sampled := c.cyc / 256 } else c
      | none => c)) s

end Sys2Proof.Machine
end

