-- ==== Sys2Proof/Machine/System.lean ====
section
/-! DEFINITION. Group registers and the cycle counter, major 0x0E (R61 to R64), and indirect register access, major
0x0F (R79, R80). -/

namespace Sys2Proof.Machine

/-- A group register as the path reads it (R61 to R64). -/
def Env.csr (e : Env) (n : Nat) : Word :=
  if n = 0 then e.gst
  else if n = 1 then e.p.fmt
  else if n = 6 then wd (e.t.rctx % 256 * 256 + (e.s.ctl.ctx e.t.rctx).kslot % 256)
  else if n = 7 then wd (e.t.prio % 16)
  else e.s.csrOf e.uid e.home n

/-- An `atg` or `atq` of the group, or a scratchpad atomic with flags, has still to land, or an arrival of it to be counted, which
may set OVER (R64, R139, R199). -/
def Env.flagsPending (e : Env) : Bool :=
  e.s.ctl.entries.any (fun x => x.team == e.uid && x.home == e.home &&
    (x.flags || x.isBar || (match x.act with
      | .atom _ _ => x.party == 1
      | _ => false))) ||
  e.s.ctl.replies.any (fun x => x.team == e.uid && x.home == e.home && x.kind == .atomic)

/-- `csrr` (R64): `gst` shows the flags of every earlier instruction. -/
def execCsrr (f : Fields) (s : State) : Host.Outcome State Fault Refusal :=
  issue (.csrr f) f (fun e => do
    if f.sc == 0 && e.flagsPending then return .hold
    let x := e.csr f.sc.toNat
    emits (e.putWd x)
    return .push (List.replicate e.gw x)) s

/-- `clk`: the cycles since reset (R64). -/
def execClk (f : Fields) (s : State) : Host.Outcome State Fault Refusal :=
  issueOut (.clk f) f (fun e => e.uniOut (wd e.s.ctl.cyc)) s

/-- `csrw` (R61 to R64, R83, R113): read-only registers and fields keep their value; `spb` and `spl` may be written
only while nothing is spilled. -/
def execCsrw (f : Fields) (s : State) : Host.Outcome State Fault Refusal :=
  issue (.csrw f) f (fun e => do
    let n := f.sc.toNat
    let x := e.opnd f.sa.toNat 0 false f.rawImm
    if n = 0 then
      if e.flagsPending then return .hold
      emit (.csr (csrKey e.uid e.home 0) ((e.s.csrOf e.uid e.home 0 &&& ~~~(0x7F : Word)) ||| (x &&& 0x7F)))
      return .done
    else if n = 1 then do
      modPath e.cur.p (fun p => { p with fmt := fmtAll p.fmt.toNat x.toNat })
      return .done
    else if n = 6 ∨ n = 7 then return .done
    else if n = 4 ∨ n = 5 then
      if e.g.dsp ≠ e.csr 4 ∨ e.g.cb ≠ 0 then return .trap (mkTrap 0x28 6 e.p.act)
      else do
        emit (.csr (csrKey e.uid e.home n) x)
        onlyIf (n == 4) (modGroup e.uid e.g.who (fun g => { g with dsp := x &&& csrLayout 4 }))
        return .done
    else do
      emit (.csr (csrKey e.uid e.home n) x)
      return .done) s

/-- The register code that a lane names (R79). -/
def Env.regCode (e : Env) (lane : Nat) : Nat := (e.n32 e.f.sa.toNat lane + e.n32 e.f.sb.toNat lane) % 2 ^ 32

/-- Whether the access is of 64 bits (R79). -/
def Env.indWide (e : Env) : Bool := mfld e.f 0 0 == 1

/-- The privilege level whose bank w56 to w63 name: the user bank with UB. -/
def Env.indPl (e : Env) : Nat := if e.f.mod.getLsbD 5 then 0 else e.pl

/-- Whether a code names no register (R80). -/
def Env.badCode (e : Env) (c : Nat) : Bool := decide (320 ≤ c) || (decide (c < 256) && decide (e.regs ≤ c))

/-- Whether a code is no pair (R80). -/
def Env.badPair (e : Env) (c : Nat) : Bool :=
  e.indWide && decide (c < 256) && (c % 2 == 1 || decide (e.regs ≤ c + 1))

/-- The fault of an indirect access (R80): codes first. -/
def Env.indFault (e : Env) : Option TrapReq :=
  let ls := e.serves
  match ls.filter (fun l => e.badCode (e.regCode l)) with
  | x :: r => some (mkTrap 10 1 (e.blame (x :: r)))
  | [] =>
    match ls.filter (fun l => e.badPair (e.regCode l)) with
    | x :: r => some (mkTrap 10 2 (e.blame (x :: r)))
    | [] => none

/-- The path waits for a register that some lane names. -/
def Env.indBlocked (e : Env) : Bool :=
  e.s.ctl.waitsFor e.uid e.g.who e.p e.vp e.home
    (e.serves.map (fun l => (e.regCode l, span (e.indWide && decide (e.regCode l < 256)))))

/-- The register that lane L names (R79). -/
def Env.indRead (e : Env) (l : Nat) : Word :=
  let c := e.regCode l
  let x : Word := if c < 256 then (if e.indWide then wd (e.v c l + 2 ^ 32 * e.v (c + 1) l) else wd (e.v c l))
    else e.s.wreg e.uid e.home (c - 256) e.indPl
  if e.indWide then x else wd (x.toNat % 2 ^ 32)

/-- `rgeti` (R79, R80). -/
def execRgeti (f : Fields) (s : State) : Host.Outcome State Fault Refusal :=
  issue (.rgeti f) f (fun e => do
    match e.indFault with
    | some r => return .trap r
    | none =>
      if e.indBlocked then return .hold
      let w := if e.indWide then 64 else 32
      let o := e.alu w false e.indWide (fun l => ((e.indRead l).toNat, 0))
      emits o.upds
      return .push o.lat) s

/-- The updates of one lane of a `rseti`. -/
def Env.indWrite (e : Env) (l : Nat) (x : Word) : List Upd :=
  let c := e.regCode l
  if c < 256 then e.putLane c l e.indWide x
  else [updW e.uid e.home (c - 256) e.indPl x]

/-- `rseti` (R79, R80): a uniform register written in helper code is PROT 0x65 (R275). -/
def execRseti (f : Fields) (s : State) : Host.Outcome State Fault Refusal :=
  issue (.rseti f) f (fun e => do
    match e.indFault with
    | some r => return .trap r
    | none =>
      let ls := lanesOf e.ex e.gw
      let ws := ls.filter (fun l => decide (256 ≤ e.regCode l))
      if e.p.helper.isSome && !ws.isEmpty then return .trap (mkTrap 10 0x65 (maskOf ws))
      if e.indBlocked then return .hold
      let w := if e.indWide then 64 else 32
      let val (l : Nat) : Word := wd (e.bits f.sc.toNat l w f.rawImm)
      emits ((ls.map (fun l => e.indWrite l (val l))).flatten)
      return .push ((List.range e.gw).map (fun l => if e.ex.getLsbD l then val l else 0))) s

end Sys2Proof.Machine
end

