-- ==== Sys2Proof/Machine/Translation.lean ====
section
/-! DEFINITION. The translation instructions, major 0x1A (R239 to R244), migrations, and what the host answers to
translation requests (R238). -/

namespace Sys2Proof.Machine

/-- Naturally aligned runs of 2^s bytes in a piece of a pool: the first, and how many. -/
def runsIn (s : Nat) (p : Nat × Nat) : Nat × Nat :=
  let lo := roundUp p.1 (2 ^ s)
  (lo, (p.1 + p.2 - lo) / 2 ^ s)

/-- Run number k of several pieces. -/
def nthRun (s : Nat) : List (Nat × Nat) → Nat → Option Nat
  | [], _ => none
  | p :: r, k =>
    let a := runsIn s p
    if k < a.2 then some (a.1 + k * 2 ^ s) else nthRun s r (k - a.2)

/-- The pieces from which a run is taken (R240): those of the die's own stacks if they hold one, else those of the
lowest-numbered stack that holds one. -/
def poolFor (die s : Nat) (pool : List (Nat × Nat)) : List (Nat × Nat) :=
  let good (stk : Nat) : List (Nat × Nat) := pool.filter (fun p => stkOf p.1 == stk && (runsIn s p).2 != 0)
  match good (2 * die) ++ good (2 * die + 1) with
  | [] => ((List.range 16).map good).find? (fun l => !l.isEmpty) |>.getD []
  | l => l

/-- The pool without a run. -/
def poolTake (q n : Nat) (pool : List (Nat × Nat)) : List (Nat × Nat) :=
  (pool.map (fun p =>
    if covers p.1 p.2 q n then [(p.1, q - p.1), (q + n, p.1 + p.2 - (q + n))].filter (fun x => x.2 != 0) else [p])).flatten

/-- The pool with a run put back, joined with its neighbours. -/
def poolGive (q n : Nat) (pool : List (Nat × Nat)) : List (Nat × Nat) :=
  let before := pool.find? (fun p => p.1 + p.2 == q)
  let after := pool.find? (fun p => p.1 == q + n)
  let lo := (before.map (·.1)).getD q
  let hi := q + n + (after.map (·.2)).getD 0
  (lo, hi - lo) :: pool.filter (fun p => some p != before && some p != after)

/-- Take a run of 2^s bytes from the given pieces of a context's pool; which one is open. -/
def takeRun (rctx s : Nat) (from_ : List (Nat × Nat)) : M (Option Nat) := do
  let k ← drawBelow (from_.map (fun p => (runsIn s p).2)).sum
  match nthRun s from_ k with
  | none => return none
  | some q => do
    modC (fun c => c.updCtx rctx (fun x => { x with pool := poolTake q (2 ^ s) x.pool }))
    return some q

/-- A context's pool. -/
def Ctl.poolOf (c : Ctl) (rctx : Nat) : List (Nat × Nat) := (c.ctx rctx).pool

/-- Index of an address at a level. -/
def levelIndex (va lv : Nat) : Nat := fld va (12 + 9 * lv + 8) (12 + 9 * lv)

/-- What an access of an instruction to a table entry ends in: its value, a subcause of SEAL (R251), or a wait (R250). -/
inductive Entry1 where
  | val (e : Nat)
  | fails (sub : Nat)
  | waits
deriving DecidableEq, Repr, Inhabited

/-- Read an entry as a sealed request of the context. -/
def readEntry (slot at_ : Nat) : M Entry1 := do
  match ← sealAccess slot at_ false with
  | .fail b => return .fails (walkSub b)
  | .wait => return .waits
  | .ok => return .val ((← getS).load (dmLoc at_) 8)

/-- Write an entry: it waits for a re-seal (R250; assumption 147), and where its seal fails nothing is stored (R251). -/
def writeEntry (slot at_ e : Nat) : M Unit := do
  if (← sealNow slot at_ true) == .ok then storeN (dmLoc at_) e 8 else pure ()

/-- How the walk of a `pmap` toward its level ends (R240). -/
inductive MapWalk where
  | table (t : Nat)
  | mapped
  | empty
  | waits
  | fault (cause sub : Nat)
deriving DecidableEq, Repr, Inhabited

/-- The walk of a `pmap` from level n + lv down to level lv, installing missing tables. -/
def mapWalk (die rctx slot va lv : Nat) : Nat → Nat → M MapWalk
  | 0, tbl => pure (.table tbl)
  | n + 1, tbl => do
    let at_ := tbl + 8 * levelIndex va (lv + n + 1)
    match ← readEntry slot at_ with
    | .fails b => return .fault 11 b
    | .waits => return .waits
    | .val e =>
      if entBit e 0 then
        if malformed e (lv + n + 1) then return .fault 9 2
        else if entBit e 1 then return .mapped
        else mapWalk die rctx slot va lv n (fld e 41 12 * 4096)
      else
        match ← takeRun rctx 12 (poolFor die 12 ((← getC).poolOf rctx)) with
        | none => return .empty
        | some t => do
          writeEntry slot at_ (t + 1)
          mapWalk die rctx slot va lv n t

/-- The entries that carry the leaf of a page of 2^s bytes (R234). -/
def replicas (tbl va s : Nat) : List Nat :=
  let lv := levelOf s
  (List.range (2 ^ (s - (12 + 9 * lv)))).map (fun i => tbl + 8 * (levelIndex va lv + i))

/-- Tier pages that are mapped take PRI 3 and the step counter as N, until a hint (R160). -/
def mapPages (rctx q n : Nat) : M Unit :=
  forEach ((List.range ((q + n + 65535) / 65536 - q / 65536)).map (fun i => q / 65536 + i)) (fun pg => modC fun c =>
    c.setPage { c.page pg with rctx := some rctx, pri := 3, n := (c.ctx rctx).stepc })

/-- The entries of a list, one after the other. -/
def readEntries (slot : Nat) : List Nat → M (Got (List Nat))
  | [] => pure (.ok [])
  | r :: q => do
    match ← readEntry slot r with
    | .fails b => return .trap (mkTrap 11 b 0)
    | .waits => return .wait
    | .val v =>
      match ← readEntries slot q with
      | .ok vs => return .ok (v :: vs)
      | x => return x

/-- The work of a `pmap` (R240): what it writes to wd. -/
def Env.mapPage (e : Env) (a : Nat) : M (Got Nat) := do
  let f := e.f
  let sz := scfld f 5 0
  let va := a / 2 ^ sz * 2 ^ sz
  let lv := levelOf sz
  let cx := e.s.ctl.ctx e.t.rctx
  match ← mapWalk e.t.die e.t.rctx cx.kslot va lv (3 - lv) cx.root with
  | .fault k b => return .trap (e.wholeTrap k b a)
  | .waits => return .wait
  | .mapped => return .ok 1
  | .empty => return .ok 0
  | .table tbl => do
    let rs := replicas tbl va sz
    match ← readEntries cx.kslot rs with
    | .trap r => return .trap (e.wholeTrap r.cause r.sub a)
    | .wait => return .wait
    | .ok es =>
      if es.any (fun v => entBit v 0) then return .ok 1
      else
        match ← takeRun e.t.rctx sz (poolFor e.t.die sz ((← getC).poolOf e.t.rctx)) with
        | none => return .ok 0
        | some q => do
          let leaf := q + 2 ^ (sz - 1) + 0x13 + (if f.mod.getLsbD 3 then 0x40 else 0) +
            (if f.mod.getLsbD 2 then 0x20 else 0) + (if f.mod.getLsbD 1 then 8 else 0)
          forEach rs (fun r => writeEntry cx.kslot r leaf)
          mapPages e.t.rctx q (2 ^ sz)
          return .ok q

/-- `pmap` (R240). -/
def execPmap (f : Fields) (s : State) : Host.Outcome State Fault Refusal :=
  issue (.pmap f) f (fun e => do
    let a := (e.usrc f.sa.toNat).toNat
    if 2 ^ 48 ≤ a then return .trap (e.wholeTrap 9 3 a)
    else if e.s.ctl.migrating e.t.rctx a then return .hold
    else
      match ← attempt (e.mapPage a) with
      | .trap r => return .trap r
      | .wait => return .hold
      | .ok x => do
        emits (e.putWd (wd x))
        return .done) s

/-- `tlbinv` (R241): the caches drop their entries, then a full fence at `.dev` waits for what was translated through them. -/
def execTlbinv (f : Fields) (s : State) : Host.Outcome State Fault Refusal :=
  issue (.tlbinv f) f (fun e => do
    let a := (e.usrc f.sa.toNat).toNat
    let b := (e.usrc f.sb.toNat).toNat
    if 2 ^ 64 < a + b then return .trap (mkTrap 10 0x31 e.ex)
    else do
      modC (fun c => c.dropTlbs e.t.rctx a b)
      e.appendFin false 0 (.shootdown a b)
      e.appendFence 3 4 none
      return .done) s

/-- `tprobe` (R242): a walk that caches nothing, sets nothing and raises nothing; it waits as any walk does (R243, R250). -/
def execTprobe (f : Fields) (s : State) : Host.Outcome State Fault Refusal :=
  issue (.tprobe f) f (fun e => do
    let a := (e.usrc f.sa.toNat).toNat
    match ← (if e.s.ctl.migrating e.t.rctx a then pure none else sealedWalk e.t.rctx a) with
    | none => return .hold
    | some w => do
      emits (e.putWd (match w with
        | .leaf v _ _ => wd v
        | .fault _ _ => 0))
      return .done) s

/-- The start of a migration (R243): the leaf's replicas are cleared, a shootdown is made, and the path waits. -/
def Env.startMigration (e : Env) (a v at_ lg q : Nat) : M Unit := do
  let id ← freshId
  let cx := e.s.ctl.ctx e.t.rctx
  let va := a / 2 ^ lg * 2 ^ lg
  let tbl := at_ - 8 * levelIndex a (levelOf lg)
  forEach (replicas tbl va lg) (fun r => do writeEntry cx.kslot r ((← getS).load (dmLoc r) 8 / 2 * 2))
  modC (fun c =>
    let d := c.dropTlbs e.t.rctx va (2 ^ lg)
    { d with migrs := d.migrs ++ [{
      id := id, team := e.uid, who := e.g.who, pid := e.p.pid, home := e.home, sink := e.sinkFor 0 64 false true,
      rctx := e.t.rctx, va := va, log := lg, leaf := wd v, old := leafBase v lg, new := q }] })
  e.appendFin false 0 (.shootdown va (2 ^ lg))
  e.appendFence 3 4 none

/-- The work of a `migr` (R243): what it writes at once, or none while a migration is under way. -/
def Env.migrate (e : Env) (a stk : Nat) : M (Got (Option Nat)) := do
  let cx := e.s.ctl.ctx e.t.rctx
  match ← sealedWalk e.t.rctx a with
  | none => return .wait
  | some (.fault c b) => return (if c = 11 then .trap (e.wholeTrap 11 b a) else .ok (some 1))
  | some (.leaf v at_ lg) =>
    let old := leafBase v lg
    if entBit v 63 ∨ entBit v 62 ∨ stkOf old = stk then return .ok (some 1)
    else
      match ← readEntries cx.kslot (replicas (at_ - 8 * levelIndex a (levelOf lg)) (a / 2 ^ lg * 2 ^ lg) lg) with
      | .trap r => return .trap (e.wholeTrap r.cause r.sub a)
      | .wait => return .wait
      | .ok _ => do
        let pinned := e.s.ctl.pages.any (fun p => p.pin.isSome && overlap (p.pg * 65536) 65536 old (2 ^ lg))
        let from_ := cx.pool.filter (fun p => stkOf p.1 == stk && (runsIn lg p).2 != 0)
        let k ← drawBelow (if pinned && from_.isEmpty then 2 else 1)
        if pinned && k == 0 then return .ok (some 2)
        else
          match ← takeRun e.t.rctx lg from_ with
          | none => return .ok (some 0)
          | some q => do
            e.startMigration a v at_ lg q
            return .ok none

/-- `migr` (R243): its path waits on its scoreboard for wd. -/
def execMigr (f : Fields) (s : State) : Host.Outcome State Fault Refusal :=
  issue (.migr f) f (fun e => do
    let a := (e.usrc f.sa.toNat).toNat
    if 2 ^ 48 ≤ a then return .trap (e.wholeTrap 9 3 a)
    else if e.s.ctl.migrating e.t.rctx a then return .hold
    else
      match ← attempt (e.migrate a ((e.usrc f.sb.toNat).toNat % 16)) with
      | .trap r => return .trap r
      | .wait => return .hold
      | .ok x => do
        emits (x.elim [] (fun n => e.putWd (wd n)))
        return .done) s

/-- An access to a page's bytes is still between its translation and its point of coherence (R224). -/
def Ctl.pageBusy (c : Ctl) (pa n : Nat) : Bool :=
  c.entries.any (fun e => e.unserved && e.els.any (fun x => x.loc.touches x.n (dmLoc pa) n))

/-- The bytes of a page are copied: those that are not zero, to a run that reads zero. -/
def copyPage (s : State) (old new n : Nat) : List Upd :=
  (s.dm.cells.filter (fun x => decide (old ≤ x.1) && decide (x.1 < old + n))).map
    (fun x => .byte .dm (x.1 - old + new) x.2)

/-- A memory in which a page's bytes stand at their new address, and nothing at the old one. -/
def movedPage (old new n : Nat) (m : Memory) : Memory :=
  (m.cells.filter (fun x => decide (old ≤ x.1) && decide (x.1 < old + n))).foldl (fun r x => r.set (x.1 - old + new) x.2)
    ((m.clear old (old + n)).clear new (new + n))

/-- A tile's number after a page has moved. -/
def movedTo (old new t : Nat) : Nat := t - old / 1024 + new / 1024

/-- The tiles of a page at their new address (R243, R252): live, to be sealed anew; quarantined where they were or where the
copy's check fails. -/
def Ctl.movedTiles (c : Ctl) (old new n : Nat) : List Tile :=
  let inPage (t : Nat) : Bool := decide (old / 1024 ≤ t) && decide (t < (old + n) / 1024)
  let live := c.tiles.filter (fun x => inPage x.tile && (x.minor != 0 || x.quarantined))
  let dirty := c.cached.filter (fun x => inPage x.tile && x.dirty && !live.any (fun y => y.tile == x.tile))
  live.map (fun x => { x with tile := movedTo old new x.tile, minor := 1,
                              quarantined := x.quarantined || !(c.countersPass (groupOfTile x.tile) && c.tagPasses x) }) ++
  dirty.map (fun x => { tile := movedTo old new x.tile, minor := 1, slot := x.slot, cipher := [], tag := 0, quarantined := false })

/-- A page's tiles are sealed at their new address, and those whose copy failed are quarantined at both (R243, R252). -/
def moveSeals (old new n : Nat) : M Unit := do
  let c ← getC
  let ts := c.movedTiles old new n
  let inNew (t : Nat) : Bool := decide (new / 1024 ≤ t) && decide (t < (new + n) / 1024)
  forEach (ts.filter (·.quarantined)) (fun x => do
    let o := c.tile (x.tile + old / 1024 - new / 1024)
    onlyIf (!o.quarantined) (do
      modC (fun c => c.setTile { o with quarantined := true })
      report (.integrity o.tile)))
  modC (fun c => ts.foldl (fun c x => c.setTile x) c)
  forEach ((ts.map (fun x => groupOfTile x.tile)).dedup) (fun g => do
    checkBelow g
    modC (fun c => c.writeCounters g))
  resealTiles (fun x => inNew x.tile)

/-- The table that holds the replicas of a page's leaf, by the pointers above it. -/
def State.mapTable (s : State) (root va lg : Nat) : Option Nat :=
  let next (tbl : Option Nat) (lv : Nat) : Option Nat :=
    tbl.bind (fun t =>
      let e := s.load (dmLoc (t + 8 * levelIndex va lv)) 8
      if entBit e 0 && !entBit e 1 then some (fld e 41 12 * 4096) else none)
  ((List.range (3 - levelOf lg)).map (fun i => 3 - i)).foldl next (some root)

/-- Whether a group that holds a piece of a run is being re-sealed. -/
def Ctl.runResealing (c : Ctl) (pa n : Nat) : Bool :=
  (List.range ((pa + n + 65535) / 65536 - pa / 65536)).any (fun i => c.resealing ((pa / 65536 + i) * 65536))

/-- The counters of a group of a run can rise no more (R249, R250): a page is not moved there. -/
def Ctl.runFull (c : Ctl) (pa n : Nat) : Bool :=
  (List.range ((pa + n + 65535) / 65536 - pa / 65536)).any (fun i => c.treeFull (pa / 65536 + i))

/-- A migration is taken as one move (MIGRATION_COMPLETE; R224, R243): each replica of the leaf takes the new address and keeps
its own A and D. -/
def execMigrationComplete (id : Nat) (s : State) : Host.Outcome State Fault Refusal :=
  event (do
    let c ← getC
    match c.migrs.find? (fun m => m.id == id) with
    | none => pure ()
    | some m =>
      let n := 2 ^ m.log
      if c.pageBusy m.old n || c.runResealing m.old n || c.runResealing m.new n || c.runFull m.new n then pure ()
      else do
        let cx := c.ctx m.rctx
        let s ← getS
        emits (copyPage s m.old m.new n)
        moveSeals m.old m.new n
        let moved := m.leaf.toNat - m.old + m.new
        match s.mapTable cx.root m.va m.log with
        | some tbl =>
          forEach (replicas tbl m.va m.log) (fun r => do
            let ad := (← getS).load (dmLoc r) 8 / 256 % 4
            writeEntry cx.kslot r (moved - moved / 256 % 4 * 256 + ad * 256))
        | none => pure ()
        makeVirgin (m.old / 1024) (n / 1024) false
        mapPages m.rctx m.new n
        modC (fun c => c.mapPast (movedPage m.old m.new n))
        modC (fun c => { (c.updCtx m.rctx (fun x => { x with pool := poolGive m.old n x.pool })) with
          migrs := c.migrs.filter (fun x => x.id != id) })
        retest
        landSink m.team m.sink (wd m.new)) s

/-- An access that a walk of an engine for an address may be for (R235): the fetch of a path that stands there, or a byte that
an accepted job has still to read or write. -/
def State.walkFor (s : State) (engine : EngineId) (rctx va : Nat) (write : Bool) : Option (Bool × Need) :=
  let c := s.ctl
  let fetching := (c.teams.filter (fun t => t.rctx == rctx && t.phase == .running)).findSome? (fun t =>
    (t.parties.find? (fun g => t.engine g.who == engine && g.paths.any (fun p => (advPc p.pc).toNat == va))).map
      (fun g => s.pl t.uid g.who.idx == 0))
  match (if write then none else fetching) with
  | some user => some (user, { rd := false, wr := false, x := true })
  | none =>
    (c.jobs.find? (fun j => j.rctx == rctx && j.accepted && j.err.isNone && j.eng == engine &&
      (if write then (List.range j.size).any (fun k => !j.landedAt k && j.dstAt k == some (0, va))
       else (List.range j.srcLen).any (fun k => (j.gotByte k).isNone && j.srcAt k == some (0, va))))).map
      (fun j => (j.user, { rd := !write, wr := write, x := false }))

/-- An engine walks for an access that it has to make (PAGE_WALK; R235), and caches the leaf. -/
def execPageWalk (engine : EngineId) (rctx : Nat) (va : Word) (write : Bool) (s : State) :
    Host.Outcome State Fault Refusal :=
  event (do
    let s ← getS
    match (if s.ctl.migrating rctx va.toNat then none else s.walkFor engine rctx va.toNat write) with
    | none => pure ()
    | some (user, need) => do
      let _ ← walkAccess engine rctx va.toNat user need) s

/-- Change the outstanding request of a page. -/
def modAts (rctx page : Nat) (pri : Bool) (f : AtsReq → List AtsReq) : M Unit := modC fun c =>
  { c with ats := (c.ats.map (fun r =>
      if r.rctx == rctx && r.page == page && r.pri == pri && !r.failed then f r else [r])).flatten }

/-- The host answers a page request (PRI_RESPONSE; R238). -/
def execPriResponse (rctx page : Nat) (ok : Bool) (s : State) : Host.Outcome State Fault Refusal :=
  event (modAts rctx page true (fun r => [if ok then { r with pri := false } else { r with failed := true }])) s

/-- The host answers a translation request (ATS_TRANSLATION_COMPLETION; R238): no access sends a page request, of
which 512 may be outstanding. -/
def execAtsTranslationCompletion (rctx page : Nat) (res : AtsResult) (s : State) : Host.Outcome State Fault Refusal :=
  event (do
    let c ← getC
    let asked := c.ats.any (fun r => r.rctx == rctx && r.page == page && !r.pri && !r.failed)
    match res with
    | .page addr lg wr => do
      modAts rctx page false (fun _ => [])
      onlyIf (asked && decide (12 ≤ lg) && decide (lg ≤ 30)) (modC fun c => { c with
        atc := { rctx := rctx, va := page * 4096 / 2 ^ lg * 2 ^ lg, log := lg, addr := addr / 2 ^ lg * 2 ^ lg, write := wr } ::
          c.atc.filter (fun t => !(t.rctx == rctx && covers t.va (2 ^ t.log) (page * 4096) 1)) })
    | .noAccess =>
      if (c.ats.filter (fun r => r.pri && !r.failed)).length < 512 then modAts rctx page false (fun r => [{ r with pri := true }])
      else pure ()
    | .refused => modAts rctx page false (fun r => [{ r with failed := true }])) s

/-- The host invalidates translations (ATS_INVALIDATION; R238): after every access that used them has reached the host
link. -/
def execAtsInvalidation (rctx va len : Nat) (s : State) : Host.Outcome State Fault Refusal :=
  event (do
    let c ← getC
    if c.entries.any (fun e => e.unserved && e.stage != .link && (c.team e.team).rctx == rctx &&
        e.els.any (fun x => x.loc.sp == .hm && overlap x.va x.n va len)) then pure ()
    else setC { c with atc := c.atc.filter (fun t => !(t.rctx == rctx && overlap t.va (2 ^ t.log) va len)) }) s

end Sys2Proof.Machine
end

