-- ==== Sys2Proof/Machine/Dispatch.lean ====
section
/-! DEFINITION. One arm per row of the opcode table: what executing it does. -/

namespace Sys2Proof.Machine

def exec (i : Instr) (s : State) : Host.Outcome State Fault Refusal :=
  match i with
  | .nop f => Sys2Proof.Machine.execNop f s
  | .bra f => Sys2Proof.Machine.execBra f s
  | .split f => Sys2Proof.Machine.execSplit f s
  | .join f => Sys2Proof.Machine.execJoin f s
  | .brk f => Sys2Proof.Machine.execBrk f s
  | .call f => Sys2Proof.Machine.execCall f s
  | .ret f => Sys2Proof.Machine.execRet f s
  | .exit f => Sys2Proof.Machine.execExit f s
  | .setdmr f => Sys2Proof.Machine.execSetdmr f s
  | .callv f => Sys2Proof.Machine.execCallv f s
  | .callvU f => Sys2Proof.Machine.execCallvU f s
  | .spush f => Sys2Proof.Machine.execSpush f s
  | .spop f => Sys2Proof.Machine.execSpop f s
  | .add f => Sys2Proof.Machine.execAdd f s
  | .sub f => Sys2Proof.Machine.execSub f s
  | .mul f => Sys2Proof.Machine.execMul f s
  | .mulhi f => Sys2Proof.Machine.execMulhi f s
  | .mad f => Sys2Proof.Machine.execMad f s
  | .min f => Sys2Proof.Machine.execMin f s
  | .max f => Sys2Proof.Machine.execMax f s
  | .abs f => Sys2Proof.Machine.execAbs f s
  | .neg f => Sys2Proof.Machine.execNeg f s
  | .and f => Sys2Proof.Machine.execAnd f s
  | .or f => Sys2Proof.Machine.execOr f s
  | .xor f => Sys2Proof.Machine.execXor f s
  | .not f => Sys2Proof.Machine.execNot f s
  | .sel f => Sys2Proof.Machine.execSel f s
  | .mov f => Sys2Proof.Machine.execMov f s
  | .ldi f => Sys2Proof.Machine.execLdi f s
  | .iota f => Sys2Proof.Machine.execIota f s
  | .shl f => Sys2Proof.Machine.execShl f s
  | .shr f => Sys2Proof.Machine.execShr f s
  | .sra f => Sys2Proof.Machine.execSra f s
  | .rot f => Sys2Proof.Machine.execRot f s
  | .bfe f => Sys2Proof.Machine.execBfe f s
  | .bfi f => Sys2Proof.Machine.execBfi f s
  | .popc f => Sys2Proof.Machine.execPopc f s
  | .clz f => Sys2Proof.Machine.execClz f s
  | .ctz f => Sys2Proof.Machine.execCtz f s
  | .brev f => Sys2Proof.Machine.execBrev f s
  | .fadd f => Sys2Proof.Machine.execFadd f s
  | .fsub f => Sys2Proof.Machine.execFsub f s
  | .fmul f => Sys2Proof.Machine.execFmul f s
  | .fma f => Sys2Proof.Machine.execFma f s
  | .fmin f => Sys2Proof.Machine.execFmin f s
  | .fmax f => Sys2Proof.Machine.execFmax f s
  | .frnd f => Sys2Proof.Machine.execFrnd f s
  | .fclass f => Sys2Proof.Machine.execFclass f s
  | .fcmp f => Sys2Proof.Machine.execFcmp f s
  | .fdiv f => Sys2Proof.Machine.execFdiv f s
  | .fsqrt f => Sys2Proof.Machine.execFsqrt f s
  | .frcp f => Sys2Proof.Machine.execFrcp f s
  | .frsq f => Sys2Proof.Machine.execFrsq f s
  | .fex2 f => Sys2Proof.Machine.execFex2 f s
  | .flg2 f => Sys2Proof.Machine.execFlg2 f s
  | .fsin f => Sys2Proof.Machine.execFsin f s
  | .fcos f => Sys2Proof.Machine.execFcos f s
  | .cvt f => Sys2Proof.Machine.execCvt f s
  | .cvtNarrow f => Sys2Proof.Machine.execCvtNarrow f s
  | .mxpk f => Sys2Proof.Machine.execMxpk f s
  | .mxunpk f => Sys2Proof.Machine.execMxunpk f s
  | .vdot f => Sys2Proof.Machine.execVdot f s
  | .getfmt f => Sys2Proof.Machine.execGetfmt f s
  | .setfmt f => Sys2Proof.Machine.execSetfmt f s
  | .shuf f => Sys2Proof.Machine.execShuf f s
  | .lrot f => Sys2Proof.Machine.execLrot f s
  | .bcast f => Sys2Proof.Machine.execBcast f s
  | .scan f => Sys2Proof.Machine.execScan f s
  | .redw f => Sys2Proof.Machine.execRedw f s
  | .sortk f => Sys2Proof.Machine.execSortk f s
  | .ballot f => Sys2Proof.Machine.execBallot f s
  | .kand f => Sys2Proof.Machine.execKand f s
  | .kor f => Sys2Proof.Machine.execKor f s
  | .kxor f => Sys2Proof.Machine.execKxor f s
  | .kandn f => Sys2Proof.Machine.execKandn f s
  | .knot f => Sys2Proof.Machine.execKnot f s
  | .kpop f => Sys2Proof.Machine.execKpop f s
  | .kfirst f => Sys2Proof.Machine.execKfirst f s
  | .kmov f => Sys2Proof.Machine.execKmov f s
  | .cmp f => Sys2Proof.Machine.execCmp f s
  | .csrr f => Sys2Proof.Machine.execCsrr f s
  | .clk f => Sys2Proof.Machine.execClk f s
  | .csrw f => Sys2Proof.Machine.execCsrw f s
  | .rgeti f => Sys2Proof.Machine.execRgeti f s
  | .rseti f => Sys2Proof.Machine.execRseti f s
  | .lds f => Sys2Proof.Machine.execLds f s
  | .sts f => Sys2Proof.Machine.execSts f s
  | .tmprobe f => Sys2Proof.Machine.execTmprobe f s
  | .ldp f => Sys2Proof.Machine.execLdp f s
  | .stp f => Sys2Proof.Machine.execStp f s
  | .palloc f => Sys2Proof.Machine.execPalloc f s
  | .pfree f => Sys2Proof.Machine.execPfree f s
  | .atms op f => Sys2Proof.Machine.execAtms op f s
  | .barinit f => Sys2Proof.Machine.execBarinit f s
  | .arrive f => Sys2Proof.Machine.execArrive f s
  | .arrivex f => Sys2Proof.Machine.execArrivex f s
  | .wait f => Sys2Proof.Machine.execWait f s
  | .waitc f => Sys2Proof.Machine.execWaitc f s
  | .tryw f => Sys2Proof.Machine.execTryw f s
  | .trywC f => Sys2Proof.Machine.execTrywC f s
  | .phase f => Sys2Proof.Machine.execPhase f s
  | .barinv f => Sys2Proof.Machine.execBarinv f s
  | .ldg f => Sys2Proof.Machine.execLdg f s
  | .stg f => Sys2Proof.Machine.execStg f s
  | .gatherReply id => Sys2Proof.Machine.execGatherReply id s
  | .cpy f => Sys2Proof.Machine.execCpy f s
  | .spat f => Sys2Proof.Machine.execSpat f s
  | .cpz f => Sys2Proof.Machine.execCpz f s
  | .cpfill f => Sys2Proof.Machine.execCpfill f s
  | .cpx f => Sys2Proof.Machine.execCpx f s
  | .copyAccept job => Sys2Proof.Machine.execCopyAccept job s
  | .copyByteLand job act => Sys2Proof.Machine.execCopyByteLand job act s
  | .jobError job => Sys2Proof.Machine.execJobError job s
  | .atg op f => Sys2Proof.Machine.execAtg op f s
  | .redg op f => Sys2Proof.Machine.execRedg op f s
  | .atqPush f => Sys2Proof.Machine.execAtqPush f s
  | .atqPop f => Sys2Proof.Machine.execAtqPop f s
  | .atomicServe id => Sys2Proof.Machine.execAtomicServe id s
  | .atomicReply id => Sys2Proof.Machine.execAtomicReply id s
  | .fence f => Sys2Proof.Machine.execFence f s
  | .fencer f => Sys2Proof.Machine.execFencer f s
  | .trig f => Sys2Proof.Machine.execTrig f s
  | .drain id => Sys2Proof.Machine.execDrain id s
  | .portServe cluster dest => Sys2Proof.Machine.execPortServe cluster dest s
  | .hint f => Sys2Proof.Machine.execHint f s
  | .step f => Sys2Proof.Machine.execStep f s
  | .evict f => Sys2Proof.Machine.execEvict f s
  | .pin f => Sys2Proof.Machine.execPin f s
  | .tierMoveStart stk => Sys2Proof.Machine.execTierMoveStart stk s
  | .tierMoveComplete stk => Sys2Proof.Machine.execTierMoveComplete stk s
  | .tileFill tile slot => Sys2Proof.Machine.execTileFill tile slot s
  | .tileWriteback tile => Sys2Proof.Machine.execTileWriteback tile s
  | .resealComplete group => Sys2Proof.Machine.execResealComplete group s
  | .writeQueueDrain stk => Sys2Proof.Machine.execWriteQueueDrain stk s
  | .patrolScrub group => Sys2Proof.Machine.execPatrolScrub group s
  | .pmap f => Sys2Proof.Machine.execPmap f s
  | .tlbinv f => Sys2Proof.Machine.execTlbinv f s
  | .tprobe f => Sys2Proof.Machine.execTprobe f s
  | .migr f => Sys2Proof.Machine.execMigr f s
  | .migrationComplete id => Sys2Proof.Machine.execMigrationComplete id s
  | .pageWalk engine rctx va write => Sys2Proof.Machine.execPageWalk engine rctx va write s
  | .priResponse rctx page ok => Sys2Proof.Machine.execPriResponse rctx page ok s
  | .atsInvalidation rctx va len => Sys2Proof.Machine.execAtsInvalidation rctx va len s
  | .pfillDone f => Sys2Proof.Machine.execPfillDone f s
  | .pfillFail f => Sys2Proof.Machine.execPfillFail f s
  | .pstate f => Sys2Proof.Machine.execPstate f s
  | .preset f => Sys2Proof.Machine.execPreset f s
  | .generatorStart cont core unit => Sys2Proof.Machine.execGeneratorStart cont core unit s
  | .recruit f => Sys2Proof.Machine.execRecruit f s
  | .hget f => Sys2Proof.Machine.execHget f s
  | .hnext f => Sys2Proof.Machine.execHnext f s
  | .hred f => Sys2Proof.Machine.execHred f s
  | .hjoin f => Sys2Proof.Machine.execHjoin f s
  | .hquit f => Sys2Proof.Machine.execHquit f s
  | .helperRelease team group lanes => Sys2Proof.Machine.execHelperRelease team group lanes s
  | .msend f => Sys2Proof.Machine.execMsend f s
  | .mwait f => Sys2Proof.Machine.execMwait f s
  | .mack f => Sys2Proof.Machine.execMack f s
  | .mackReg f => Sys2Proof.Machine.execMackReg f s
  | .mackDrop f => Sys2Proof.Machine.execMackDrop f s
  | .ringAppend msg => Sys2Proof.Machine.execRingAppend msg s
  | .ringReturn msg => Sys2Proof.Machine.execRingReturn msg s
  | .mmx f => Sys2Proof.Machine.execMmx f s
  | .mringOpen f => Sys2Proof.Machine.execMringOpen f s
  | .mringClose f => Sys2Proof.Machine.execMringClose f s
  | .epi f => Sys2Proof.Machine.execEpi f s
  | .mfenceOp f => Sys2Proof.Machine.execMfenceOp f s
  | .mprio f => Sys2Proof.Machine.execMprio f s
  | .mstat f => Sys2Proof.Machine.execMstat f s
  | .vxm f => Sys2Proof.Machine.execVxm f s
  | .matrixGrant engine => Sys2Proof.Machine.execMatrixGrant engine s
  | .passEnd engine => Sys2Proof.Machine.execPassEnd engine s
  | .epilogueComplete engine => Sys2Proof.Machine.execEpilogueComplete engine s
  | .slewStep die => Sys2Proof.Machine.execSlewStep die s
  | .primOpen f => Sys2Proof.Machine.execPrimOpen f s
  | .prim f => Sys2Proof.Machine.execPrim f s
  | .primClose f => Sys2Proof.Machine.execPrimClose f s
  | .ptileBind f => Sys2Proof.Machine.execPtileBind f s
  | .ptile f => Sys2Proof.Machine.execPtile f s
  | .ptileDone f => Sys2Proof.Machine.execPtileDone f s
  | .primRecordSweep die rctx stream => Sys2Proof.Machine.execPrimRecordSweep die rctx stream s
  | .edge f => Sys2Proof.Machine.execEdge f s
  | .edgev f => Sys2Proof.Machine.execEdgev f s
  | .vmask f => Sys2Proof.Machine.execVmask f s
  | .vimov f => Sys2Proof.Machine.execVimov f s
  | .zview f => Sys2Proof.Machine.execZview f s
  | .ropW f => Sys2Proof.Machine.execRopW f s
  | .ropRel f => Sys2Proof.Machine.execRopRel f s
  | .rasterApply id => Sys2Proof.Machine.execRasterApply id s
  | .ropRelServe id => Sys2Proof.Machine.execRopRelServe id s
  | .texq f => Sys2Proof.Machine.execTexq f s
  | .texqInv f => Sys2Proof.Machine.execTexqInv f s
  | .texw f => Sys2Proof.Machine.execTexw f s
  | .texs f => Sys2Proof.Machine.execTexs f s
  | .matev f => Sys2Proof.Machine.execMatev f s
  | .matld f => Sys2Proof.Machine.execMatld f s
  | .vrate f => Sys2Proof.Machine.execVrate f s
  | .shadingStart cont core unit => Sys2Proof.Machine.execShadingStart cont core unit s
  | .texwComplete id => Sys2Proof.Machine.execTexwComplete id s
  | .launch f => Sys2Proof.Machine.execLaunch f s
  | .cjoin f => Sys2Proof.Machine.execCjoin f s
  | .tbset f => Sys2Proof.Machine.execTbset f s
  | .tbclr f => Sys2Proof.Machine.execTbclr f s
  | .yield f => Sys2Proof.Machine.execYield f s
  | .morePut f => Sys2Proof.Machine.execMorePut f s
  | .moreGet f => Sys2Proof.Machine.execMoreGet f s
  | .teamClaim die core grid => Sys2Proof.Machine.execTeamClaim die core grid s
  | .teamStart team => Sys2Proof.Machine.execTeamStart team s
  | .teamRetire team => Sys2Proof.Machine.execTeamRetire team s
  | .quantumExpiry team => Sys2Proof.Machine.execQuantumExpiry team s
  | .contextSave team => Sys2Proof.Machine.execContextSave team s
  | .contextRestore team core => Sys2Proof.Machine.execContextRestore team core s
  | .parkResume p => Sys2Proof.Machine.execParkResume p s
  | .trap f => Sys2Proof.Machine.execTrap f s
  | .tret f => Sys2Proof.Machine.execTret f s
  | .brkpt f => Sys2Proof.Machine.execBrkpt f s
  | .rdtf f => Sys2Proof.Machine.execRdtf f s
  | .wrtf f => Sys2Proof.Machine.execWrtf f s
  | .sfence f => Sys2Proof.Machine.execSfence f s
  | .monset f => Sys2Proof.Machine.execMonset f s
  | .rdmon f => Sys2Proof.Machine.execRdmon f s
  | .reservedEncoding bits why => Sys2Proof.Machine.execReservedEncoding bits why s
  | .clockGate die core => Sys2Proof.Machine.execClockGate die core s
  | .powerGate die core => Sys2Proof.Machine.execPowerGate die core s
  | .coreWake die core => Sys2Proof.Machine.execCoreWake die core s
  | .hangWarning p => Sys2Proof.Machine.execHangWarning p s
  | .hangReport p => Sys2Proof.Machine.execHangReport p s
  | .loadKey slot blob => Sys2Proof.Machine.execLoadKey slot blob s
  | .eraseKey slot => Sys2Proof.Machine.execEraseKey slot s
  | .createContext desc => Sys2Proof.Machine.execCreateContext desc s
  | .teardownContext rctx => Sys2Proof.Machine.execTeardownContext rctx s
  | .writeTierAttributes base len pri n owner => Sys2Proof.Machine.execWriteTierAttributes base len pri n owner s
  | .declareRange rctx remove desc => Sys2Proof.Machine.execDeclareRange rctx remove desc s
  | .breakWait team who => Sys2Proof.Machine.execBreakWait team who s
  | .resumeHostServiced team how => Sys2Proof.Machine.execResumeHostServiced team how s
  | .attestationReport nonce buf => Sys2Proof.Machine.execAttestationReport nonce buf s
  | .setPowerState target => Sys2Proof.Machine.execSetPowerState target s
  | .submissionDoorbell rctx n => Sys2Proof.Machine.execSubmissionDoorbell rctx n s
  | .completionDoorbell rctx n => Sys2Proof.Machine.execCompletionDoorbell rctx n s
  | .hostSubmission rctx => Sys2Proof.Machine.execHostSubmission rctx s
  | .fabricBlockWrite off value => Sys2Proof.Machine.execFabricBlockWrite off value s
  | .dieLinkMapWrite die dest port => Sys2Proof.Machine.execDieLinkMapWrite die dest port s
  | .hostRegisterWrite off value => Sys2Proof.Machine.execHostRegisterWrite off value s
  | .cxlMemRead addr len slot => Sys2Proof.Machine.execCxlMemRead addr len slot s
  | .cxlMemWrite addr bytes slot => Sys2Proof.Machine.execCxlMemWrite addr bytes slot s
  | .cxlCacheSnoop line => Sys2Proof.Machine.execCxlCacheSnoop line s
  | .linkRetrain link => Sys2Proof.Machine.execLinkRetrain link s
  | .linkFail link rctx => Sys2Proof.Machine.execLinkFail link rctx s
  | .powerGood fails => Sys2Proof.Machine.execPowerGood fails s
  | .monitorSample die m => Sys2Proof.Machine.execMonitorSample die m s
  | .atsTranslationCompletion rctx page res => Sys2Proof.Machine.execAtsTranslationCompletion rctx page res s
  | .mailboxCommandComplete => Sys2Proof.Machine.execMailboxCommandComplete s
  | .materialLoadComplete id => Sys2Proof.Machine.execMaterialLoadComplete id s
  | .loadReplyLand id => Sys2Proof.Machine.execLoadReplyLand id s

end Sys2Proof.Machine
end

