-- ==== Sys2Proof/Machine/Place.lean ====
section
/-! DEFINITION. A machine in which a program has come to run: what the host and the schedule have set up when a team
of one group stands at its first instruction (assumption 4). -/

namespace Sys2Proof.Machine

/-- The leaf of the page that holds the instruction: readable, writable, executable, user, A and D set, 4 KiB, at
device physical address 0x10000 (R234). -/
def placeLeaf : Word := 0x10B7B

/-- A context as a host creates one (R393). -/
def placeCtx : Ctx :=
  { rctx := 0, root := 0x1000, handler := 0, subBase := 0, cplBase := 0, pasid := 0, kslot := 0, domain := 0,
    ringLog := 4, tbn := 0, nseg := 1, qdepth := 1, gsz := 4096, dpQuota := 0, barQuota := 1024, pinQuota := 0,
    mons := 0, segbase := 0, savebase := 0, desc := [], stepc := 0, pool := [], tbs := [], tbOwn := [], ranges := [], subDoor := 0,
    cplDoor := 0, taken := 0, recs := [] }

/-- A launch header of one role with one group of 16 lanes and 256 registers (R26, R27). -/
def placeHeader : Header :=
  { aff := 0, nbar := 1, bob := false, pair := false, tmem := 16, bobEntry := 0, dpool := 0,
    roles := [{ entry := 0x10000, ngrp := 1, gwc := 0, regc := 31 }] }

/-- Its group, with one path at the entry point. -/
def placeGroup : Group :=
  { who := .group 0, role := 0, width := 16, regs := 256,
    paths := [{ pid := 0, pc := 0x10000, act := 0xFFFF, fmt := 0, chain := none, lat := [], park := none, fence := 0,
                born := 0, helper := none, hk := [], stalled := false, age := none, prog := none }],
    nextPid := 1, lastPid := 0, recon := [], ras := [], spilled := [], dsp := 0, inTrap := false, held := 0, gone := 0,
    retired := false, hits := [], faults := [], triggered := false, dqRead := 0, vsr := 0, tile := none,
    recruit := none, opFence := 0 }

/-- Its team, running on core 0 of die 0. -/
def placeTeam : Team :=
  { uid := 0, rctx := 0, origin := .grid 0, hdr := placeHeader, index := 0, ixbase := 0, ixcount := 1, prio := 0,
    frame := [], die := 0, core := 0, slot := 0, seg := 0, unit := none, barEven := 1, resv := 0, phase := .running,
    groups := [placeGroup], bobbin := none, dq := [], dqBase := 0, signalled := false,
    fillEnded := false, mprio := 0, since := 0, savedAt := 0, drainTo := 0, code := 0, quant := 450000, service := none }

/-- The machine s in which that team runs, the given bytes stand at its PC, and its group issues next. -/
def place (s : State) (bytes : List Byte) : State :=
  let c := s.ctl
  let s1 : State := { s with ctl := { c with
    nextUid := c.nextUid + 1, agenda := [.issue { team := 0, who := .group 0, pid := 0 } 0 1], cur := none,
    teams := [placeTeam], ctxs := [placeCtx], past := [],
    tlbs := [{ eng := .core 0 0, rctx := 0, va := 0x10000, log := 12, leaf := placeLeaf }],
    host := { c.host with stage := 7, pstate := 0, devrdy := true } } }
  applyAll s1 (updBytes (dmLoc 0x10000) bytes)

end Sys2Proof.Machine
end

