-- ==== Sys2Proof/Machine/Step.lean ====
section
/-! DEFINITION. One step of the machine: the next move of the schedule is made. -/

namespace Sys2Proof.Machine

/-- One step: the schedule's next move is made ready (a path fetches, or a step of the device is chosen), and the
instruction or step it stands for is executed; a change of a memory is remembered for later fetches (R226). -/
def step (s : State) : Host.Outcome State Fault Refusal :=
  match Sys2Proof.Machine.prepare s with
  | (t, none) => .next (t.remember s)
  | (t, some i) =>
    match exec i t with
    | .next u => .next (u.remember s)
    | r => r

/-- s with an instruction stored where the next step fetches it (assumption 4): nbits of w, zeros above. -/
def State.withFetchWord (s : State) (nbits w : Nat) : State := place s (leBytes (w % 2 ^ nbits) 16)

end Sys2Proof.Machine
end

