-- ==== Sys2Proof/Safety.lean ====
section
/-! DEFINITION. What a safe run is, the invariants that steps keep, and the terms that claims about one instruction are
stated in: when it executes normally, what its party holds afterwards, and what it leaves alone. -/

namespace Sys2Proof.Machine

/-- Every byte store is in canonical form. -/
def State.memWf (s : State) : Prop :=
  Memory.wf s.dm ∧ Memory.wf s.dp ∧ Memory.wf s.tm ∧ Memory.wf s.hm ∧ Memory.wf s.rm

/-- Every register store is in canonical form. -/
def State.regWf (s : State) : Prop :=
  s.v.wf = true ∧ s.vi.wf = true ∧ s.a.wf = true ∧ s.w.wf = true ∧ s.k.wf = true ∧ s.csr.wf = true

/-- The reserved bits of every group register read zero (R62, R63). -/
def State.csrWf (s : State) : Prop :=
  ∀ key, s.csr.get key &&& ~~~csrLayout (key % 8) = 0

/-- The invariant of the machine's stores. -/
def State.wf (s : State) : Prop := s.memWf ∧ s.regWf ∧ s.csrWf

/-- A step does not stop the machine. -/
def State.goesOn (s : State) : Prop := ∃ t, step s = .next t

/-- A path. -/
def State.pathOf (s : State) (p : PathId) : Path := ((s.ctl.team p.team).party p.who).path p.pid

/-- A party. -/
def State.groupOf (s : State) (p : PathId) : Group := (s.ctl.team p.team).party p.who

/-- The path is one of a party of a team of the machine. -/
def Ctl.stands (c : Ctl) (p : PathId) : Bool :=
  c.hasTeam p.team &&
    (match p.who with
     | .bobbin => (c.team p.team).bobbin.isSome
     | .group _ => (c.team p.team).groups.any (fun g => g.who == p.who)) &&
    ((c.team p.team).party p.who).who == p.who && ((c.team p.team).party p.who).paths.any (fun q => q.pid == p.pid)

/-- The tile of an address is in the memory-side cache under this key slot, or is unsealed, and nothing holds it up (R246, R250,
R251). -/
def Ctl.inCache (c : Ctl) (slot pa : Nat) : Bool :=
  !c.resealing pa && !c.recordPage (pa / 65536) && !(c.tile (tileOf pa)).quarantined &&
    (c.cached.find? (fun x => x.tile == tileOf pa)).any (fun x => x.slot == slot || c.unsealedAt pa)

/-- The instruction i, with fields f, is executed by the path of `cur` and nothing of R50's steps before its effect stops
it: no trap of steps 5 to 7, no report that is due before it (R129, R188), for a uniform form but `ldg` an executing lane
(R8, R175), no trap of helper code (R275), no register that it must wait for (R115, R198), no lane that redundancy mode
checks (R116). -/
structure Executes (i : Instr) (f : Fields) (cur : Cur) (s : State) : Prop where
  cur_eq : s.ctl.cur = some cur
  fields_eq : i.fields = some f
  stands : s.ctl.stands cur.p = true
  noTrap : stepFaults i (envOf s cur f) = []
  noReport : (envOf s cur f).p.helper.isSome = true ∨ reportsAt i (envOf s cur f).ex (envOf s cur f).g = none
  lanes : countsEmpty i = true ∨ f.u = false ∨ (envOf s cur f).ex ≠ 0
  helper : helperFault i (envOf s cur f) = none
  ready : (envOf s cur f).blocked i = false
  agrees : (envOf s cur f).shadowed i = 0

/-- Every byte store is the same. -/
def SameBytes (s t : State) : Prop := t.dm = s.dm ∧ t.dp = s.dp ∧ t.tm = s.tm ∧ t.hm = s.hm ∧ t.rm = s.rm

/-- Every register store is the same. -/
def SameRegs (s t : State) : Prop := t.v = s.v ∧ t.vi = s.vi ∧ t.a = s.a ∧ t.w = s.w ∧ t.k = s.k ∧ t.csr = s.csr

/-- Only the control state may differ. -/
def SameStores (s t : State) : Prop := SameBytes s t ∧ SameRegs s t

/-- Lane register n of lane l as the executing party of e holds it in t, a pair when `wide`. -/
def Env.laneAfter (e : Env) (t : State) (n l : Nat) (wide : Bool) : Nat :=
  let v (k : Nat) : Nat := (t.v.get (vKey e.uid e.vp l k)).toNat
  if wide then v n + 2 ^ 32 * v (n + 1) else v n

/-- What a register-only lane instruction does (R18): each executing lane's register holds its value extended to 32 bits,
or its pair 64; every other lane register, every other register and every byte stands; gst takes in the flags; the path
goes on after the instruction, and the result enters the latches (R45). With WS = 1 no register is written. -/
structure LaneStep (i : Instr) (e : Env) (w : Nat) (sgn : Bool) (val fl : Nat → Nat) (s t : State) : Prop where
  result : e.f.ws = false → ∀ l ∈ lanesOf e.ex e.gw,
    e.laneAfter t e.f.dst.toNat l (w == 64) = (extTo64 w sgn (val l)).toNat % (if w = 64 then 2 ^ 64 else 2 ^ 32)
  others : ∀ key, (e.f.ws = true ∨ ∀ l ∈ lanesOf e.ex e.gw, key ≠ vKey e.uid e.vp l e.f.dst.toNat ∧
    (w = 64 → key ≠ vKey e.uid e.vp l (e.f.dst.toNat + 1))) → t.v.get key = s.v.get key
  flags : t.csrOf e.uid e.home 0 =
    s.csrOf e.uid e.home 0 ||| (wd (orFlags ((lanesOf e.ex e.gw).map fl)) &&& csrLayout 0)
  csrs : ∀ key, key ≠ csrKey e.uid e.home 0 → t.csr.get key = s.csr.get key
  regs : t.vi = s.vi ∧ t.a = s.a ∧ t.w = s.w ∧ t.k = s.k
  bytes : SameBytes s t
  path : t.ctl = s.ctl.leave e.cur.p (e.after i.last (some ((List.range e.gw).map (fun l =>
    if l ∈ lanesOf e.ex e.gw then extTo64 w sgn (val l) else 0))))

/-- What a register-only uniform instruction does (R8, R18): the w register of its privilege level's bank holds the
value extended to 64 bits, and nothing else but the flags changes; every lane's latch takes the value. -/
structure UniStep (i : Instr) (e : Env) (x : Word) (fl : Nat) (s t : State) : Prop where
  result : e.f.ws = false → t.wreg e.uid e.home (e.f.dst.toNat - 256) e.pl = x
  others : ∀ key, (e.f.ws = true ∨ key ≠ wKey e.uid e.home (wIndex (e.f.dst.toNat - 256) e.pl)) →
    t.w.get key = s.w.get key
  flags : t.csrOf e.uid e.home 0 = s.csrOf e.uid e.home 0 ||| (wd fl &&& csrLayout 0)
  csrs : ∀ key, key ≠ csrKey e.uid e.home 0 → t.csr.get key = s.csr.get key
  regs : t.v = s.v ∧ t.vi = s.vi ∧ t.a = s.a ∧ t.k = s.k
  bytes : SameBytes s t
  path : t.ctl = s.ctl.leave e.cur.p (e.after i.last (some (List.replicate e.gw x)))

/-- A register-only instruction answers the next state of its lane form or of its uniform form; `val` gives each lane's
value, of width w, with the flags it raises. -/
def RegisterOnly (i : Instr) (f : Fields) (cur : Cur) (s : State) (w : Env → Nat) (sgn : Env → Bool)
    (val : Env → Nat → Nat × Nat) : Prop :=
  let e := envOf s cur f
  ∃ t, exec i s = .next t ∧
    (f.u = false → LaneStep i e (w e) (sgn e) (fun l => (val e l).1) (fun l => (val e l).2) s t) ∧
    (f.u = true → UniStep i e (extTo64 (w e) (sgn e) (val e 0).1) (val e 0).2 s t)

end Sys2Proof.Machine
end

