-- ==== Sys2Proof/Certificates/Slice0/Obligations.lean ====
section
/-! DEFINITION. The statements about this machine. First the rules of the spec as functions, which the statements compare the
machine with; then the claims, one for each group of instructions or steps; then the obligations. -/

namespace Sys2Proof.Machine

/-! ### Register-only instructions -/

/-- The exact functions of R67 whose result wraps or is clamped (R18): of the sources a, b and c read as type T. -/
def intRule : Instr → Option (Int → Int → Int → Int)
  | .add _ => some fun a b _ => a + b
  | .sub _ => some fun a b _ => a - b
  | .mul _ => some fun a b _ => a * b
  | .mad _ => some fun a b c => a * b + c
  | .min _ => some fun a b _ => min a b
  | .max _ => some fun a b _ => max a b
  | .abs _ => some fun a _ _ => |a|
  | .neg _ => some fun a _ _ => -a
  | _ => none

/-- The functions of R67 that are given by the bits of the sources, by lane: the result is the low w bits, extended by
the sign of T. -/
def bitRule (e : Env) (l : Nat) : Instr → Option Nat
  | .and _ => some (e.na l &&& e.nb l)
  | .or _ => some (e.na l ||| e.nb l)
  | .xor _ => some (e.na l ^^^ e.nb l)
  | .not _ => some (2 ^ e.iw - 1 - e.na l)
  | .sel _ => some (if (e.k (e.f.sc.toNat - 352)).getLsbD l then e.na l else e.nb l)
  | .mov _ => some (e.na l)
  | .ldi _ => some (e.na l)
  | .iota _ => some (wrapInt e.iw (e.ia l + (l : Int) * e.ib l))
  | .mulhi _ => some (wrapInt e.iw (Int.fdiv (e.ia l * e.ib l) ((2 ^ e.iw : Nat) : Int)))
  | .shl _ => some (if e.iw ≤ e.nb l then 0 else e.na l * 2 ^ e.nb l)
  | .shr _ => some (if e.iw ≤ e.nb l then 0 else e.na l / 2 ^ e.nb l)
  | .sra _ => some (wrapInt e.iw (Int.fdiv (sextNat e.iw (e.na l)) ((2 ^ (min (e.nb l) e.iw) : Nat) : Int)))
  | .rot _ => some (e.na l * 2 ^ (e.nb l % e.iw) + e.na l / 2 ^ (e.iw - e.nb l % e.iw))
  | .bfe _ =>
    let pl := fieldOf e.iw (e.n32 e.f.sb.toNat l)
    let x := e.na l / 2 ^ pl.1 % 2 ^ pl.2
    some (if intSigned (mfld e.f 3 0) then wrapInt e.iw (sextNat pl.2 x) else x)
  | .bfi _ =>
    let pl := fieldOf e.iw (e.n32 e.f.sc.toNat l)
    some (e.na l - e.na l / 2 ^ pl.1 % 2 ^ pl.2 * 2 ^ pl.1 + e.nb l % 2 ^ pl.2 * 2 ^ pl.1)
  | .popc _ => some (bitsIn (e.na l) e.iw).length
  | .clz _ => some (((bitsIn (e.na l) e.iw).getLast?.map (fun i => e.iw - 1 - i)).getD e.iw)
  | .ctz _ => some ((bitsIn (e.na l) e.iw).head?.getD e.iw)
  | .brev _ => some (((bitsIn (e.na l) e.iw).map (fun i => 2 ^ (e.iw - 1 - i))).sum)
  | _ => none

/-- The float instructions of R69, R71 and R73: the exact function of the sources' values, whose result is rounded once
into the type's format. -/
def floatRule : Instr → Option (RM → FV → FV → FV → XR)
  | .fadd _ => some fun rm a b _ => xadd rm a b
  | .fsub _ => some fun rm a b _ => xadd rm a b.negate
  | .fmul _ => some fun _ a b _ => xmul a b
  | .fma _ => some fun rm a b c => xfma rm a b c
  | .fmin _ => some fun _ a b _ => xminmax false a b
  | .fmax _ => some fun _ a b _ => xminmax true a b
  | .frnd _ => some fun rm a _ _ => xrnd rm a
  | .fdiv _ => some fun _ a b _ => xdiv a b
  | .fsqrt _ => some fun _ a _ _ => xsqrt a
  | .frcp _ => some fun _ a _ _ => xdiv (.fin false 1 0) a
  | .frsq _ => some fun _ a _ _ => xrsq a
  | .fex2 _ => some fun _ a _ _ => xex2 a
  | .flg2 _ => some fun _ a _ _ => xlg2 a
  | .fsin _ => some fun _ a _ _ => xsin a
  | .fcos _ => some fun _ a _ _ => xcos a
  | _ => none

/-- One lane of a float instruction: a `.h2` is two binary16 values, each rounded on its own, their flags together. -/
def floatLaneRule (e : Env) (g : RM → FV → FV → FV → XR) (l : Nat) : Nat × Nat :=
  let one (f : FFmt) (a b c : Nat) : Nat × Nat := f.give e.rm (g e.rm (f.unpack a) (f.unpack b) (f.unpack c))
  let a := e.fbits e.f.sa.toNat l
  let b := e.fbits e.f.sb.toNat l
  let c := e.fbits e.f.sc.toNat l
  if e.ft = 4 then
    let lo := one f16 (a % 65536) (b % 65536) (c % 65536)
    let hi := one f16 (a / 65536) (b / 65536) (c / 65536)
    (lo.1 + 65536 * hi.1, lo.2 ||| hi.2)
  else one (fmtOf e.ft) a b c

/-- The conversions and packings: width and sign of the result, and each lane's value with its flags. -/
def convRule : Instr → Option ((Env → Nat) × (Env → Bool) × (Env → Nat → Nat × Nat))
  | .cvt f =>
    let st := scfld f 7 4
    let dt := scfld f 3 0
    some (fun _ => typeWidth dt, fun _ => decide (dt < 8) && intSigned dt,
      fun e l => cvtLane st dt e.convRm e.sat (e.bits f.sa.toNat l (typeWidth st) (f.typeImm st)))
  | .cvtNarrow f =>
    some (fun _ => 32, fun _ => false, fun e l =>
      let x := e.bits f.sa.toNat l 32 f.rawImm
      if scfld f 5 5 = 1 then widenLane (scfld f 4 0) x else narrowLane (scfld f 4 0) e.convRm e.sat x)
  | .mxpk f =>
    some (fun _ => 32, fun _ => false, fun e l =>
      let v (m : Nat) : FV := f32.unpack (e.bits f.sa.toNat m 32 f.rawImm)
      match mxScale (scfld f 4 0) (((lanesOf e.ex e.gw).filter (fun m => m / 32 == l / 32)).map v) with
      | none => (0xFF00, flagNV)
      | some k =>
        let r := mxElem (scfld f 4 0) e.convRm k (v l)
        (k * 256 + r.1, r.2))
  | .mxunpk f =>
    some (fun _ => 32, fun _ => false, fun e l =>
      let x := e.bits f.sa.toNat l 32 f.rawImm
      if fld x 15 8 = 255 then (f32.qnan, 0)
      else
        let v := elemVal (scfld f 4 0) (x % 256)
        f32.give e.convRm { v := v.scale ((fld x 15 8 : Int) - 127), fl := snan v, sticky := false })
  | .fclass _ =>
    some (fun e => floatWidth e.ft, fun _ => false, fun e l =>
      let a := e.fbits e.f.sa.toNat l
      if e.ft = 4 then (classOf f16 (a % 65536) + 65536 * classOf f16 (a / 65536), 0) else (classOf (fmtOf e.ft) a, 0))
  | _ => none

/-- The lane whose source a lane-movement instruction takes (R75). -/
def moveRule (e : Env) (l : Nat) : Instr → Option Nat
  | .shuf f => some (e.n32 f.sb.toNat l % e.gw)
  | .lrot f => some ((l + e.n32 f.sb.toNat l) % e.gw)
  | .bcast f => some (e.n32 f.sb.toNat l % e.gw)
  | _ => none

/-- Values combined from the first to the last under an operation of R76, with the flags of all steps. -/
def foldSteps (t op : Nat) : List Nat → Nat × Nat
  | [] => (identity t op, 0)
  | x :: r => r.foldl (fun a y => ((combine t op a.1 y).1, a.2 ||| (combine t op a.1 y).2)) (x, 0)

/-- Whether a compare's condition holds in a lane, and the flags it raises (R72, R75, R78). -/
def compareRule (e : Env) (l : Nat) : Instr → Option (Bool × Nat)
  | .cmp f => some (icond (scfld f 2 0) (e.ia l) (e.ib l), 0)
  | .fcmp f =>
    let a := (fmtOf e.ft).unpack (e.fbits f.sa.toNat l)
    let b := (fmtOf e.ft).unpack (e.fbits f.sb.toNat l)
    some (fcond (scfld f 2 0) (fcompare a b), fcondFlags (scfld f 2 0) a b)
  | .ballot _ => some (e.la l != 0, 0)
  | _ => none

/-- The masks of R77, before they are ANDed with GWMASK. -/
def maskRule (e : Env) : Instr → Option Word
  | .kand f => some (e.msrc f.sa &&& e.msrc f.sb)
  | .kor f => some (e.msrc f.sa ||| e.msrc f.sb)
  | .kxor f => some (e.msrc f.sa ^^^ e.msrc f.sb)
  | .kandn f => some (e.msrc f.sa &&& ~~~e.msrc f.sb)
  | .knot f => some (~~~e.msrc f.sa)
  | .kmov f => some (e.msrc f.sa)
  | _ => none

/-- A number that a uniform instruction writes to its w register, and to the latch of every lane. -/
def numberRule (e : Env) : Instr → Option Word
  | .kpop f => some (wd (popc (e.msrc f.sa &&& gwMask e.gw)))
  | .kfirst f => some (wd ((lowest (e.msrc f.sa &&& gwMask e.gw)).getD 64))
  | .clk _ => some (wd e.s.ctl.cyc)
  | .getfmt f => some (fmtGet e.p.fmt (mfld f 3 0))
  | .csrr f => some (e.csr f.sc.toNat)
  | _ => none

/-! ### Terms of the statements about control, memory and events -/

/-- The path goes on after its instruction, with its lanes and formats. -/
def GoesOn (cur : Cur) (s t : State) : Prop :=
  t.ctl.cur = none ∧ (t.pathOf cur.p).pc = nextPc cur.pc cur.len ∧ (t.pathOf cur.p).act = (s.pathOf cur.p).act ∧
    (t.pathOf cur.p).fmt = (s.pathOf cur.p).fmt

/-- A path of the executing group that has just started, in these lanes; where they hold helper 0 of the group's suspended
recruitment, in those of them that it still has (R278). -/
def Started (e : Env) (t : State) (pc act fmt : Word) : Prop :=
  ∃ q ∈ (t.groupOf e.cur.p).paths, q.pid = e.g.nextPid ∧ q.pc = advPc pc ∧ q.fmt = fmt ∧ q.act &&& ~~~act = 0 ∧
    ((∀ x ∈ e.s.ctl.recruits, some x.id = e.g.recruit → act.getLsbD x.lane = false) → q.act = act)

/-- Nobody else of the executing group is live (R97). -/
abbrev Env.alone (e : Env) : Prop := ∀ q ∈ e.g.live, q.pid = e.p.pid

/-- The path of the instruction is gone. -/
def PathGone (cur : Cur) (t : State) : Prop := ∀ q ∈ (t.groupOf cur.p).paths, q.pid ≠ cur.p.pid

/-- The group's stack after a live pair's other path has become the pending arm of its top entry (R102): a wait of it that was
released lies behind it (R148), one that a trap has ended goes with the arm (R152, R157). -/
def Group.demoted (g : Group) (pid : Nat) : List REnt :=
  match g.live.find? (fun p => p.pid != pid) with
  | none => g.recon
  | some o =>
    match g.recon with
    | x :: r => { x with ppc := advPc o.pastWait.headPc, pmask := o.act, pfmt := o.fmt, ppark := o.doomed } :: r
    | [] => []

/-- A part of a meaning, run in s, answers a and leaves s1. -/
def Runs {α : Type} (m : M α) (s : State) (a : α) (s1 : State) : Prop :=
  ∀ log, ∃ log1, m { st := s, log := log } = (a, { st := s1, log := log1 })

/-- The accesses of these lanes (lane, address) translate, and s1 is the state once they have (R232 to R238). -/
def Env.Reaches (e : Env) (xs : List (Nat × Nat)) (n : Need) (os : List (Nat × Loc)) (s1 : State) : Prop :=
  Runs (e.reachLanes xs n) e.s (.ok os) s1

/-- An entry of the executing path, still in its pending queue. -/
def Env.owns (e : Env) (x : Entry) : Prop :=
  x.team = e.uid ∧ x.who = e.g.who ∧ x.pid = e.p.pid ∧ x.home = e.home ∧ x.stage = .pend

/-- The entries that the elements of an instruction make (R211, R219): one of all of them, also where there are none; in helper
code one for each executing helper with that helper's elements, but of a uniform access one. -/
def Env.entriesOf (e : Env) (els : List Elem) : List (List Elem) :=
  if e.p.helper.isSome ∧ (e.f.u = false ∨ els = []) then
    ((lanesOf e.ex e.gw).map (fun l => els.filter (fun x => x.lane == l))).filter (fun m => els.isEmpty || !m.isEmpty)
  else [els]

/-- t is s1 with the entries that these elements make in the path's pending queue, in this order, and the path has gone on:
nothing else. -/
def Posts (i : Instr) (e : Env) (s1 t : State) (q : Entry → Prop) (els : List Elem) : Prop :=
  ∃ (new : List Entry) (n : Nat),
    t = { s1 with ctl := ({ s1.ctl with entries := s1.ctl.entries ++ new, nextId := n } : Ctl).leave e.cur.p (e.after i.last none) } ∧
    new.map (·.els) = e.entriesOf els ∧ ∀ x ∈ new, e.owns x ∧ q x

/-- t is s with the path gone on: nothing else. -/
def OnlyGoesOn (i : Instr) (e : Env) (s t : State) : Prop :=
  t = { s with ctl := s.ctl.leave e.cur.p (e.after i.last none) }

/-- Every byte but n bytes at l is the same. -/
def SameBytesBut (s t : State) (l : Loc) (n : Nat) : Prop :=
  ∀ sp key, ¬(sp = l.sp ∧ l.key ≤ key ∧ key < l.key + n) → (t.mem sp).get key = (s.mem sp).get key

/-- The uniform destination of a uniform instruction holds a value, unless it is suppressed; other uniform registers keep
theirs. -/
def WroteW (e : Env) (s t : State) (x : Word) : Prop :=
  (e.f.ws = false → t.wreg e.uid e.home (e.f.dst.toNat - 256) e.pl = x) ∧
  (∀ key, (e.f.ws = true ∨ key ≠ wKey e.uid e.home (wIndex (e.f.dst.toNat - 256) e.pl)) → t.w.get key = s.w.get key) ∧
  t.v = s.v ∧ t.vi = s.vi ∧ t.a = s.a ∧ t.k = s.k ∧ t.csr = s.csr

/-- Of the registers only n lane registers from d on of these lanes have changed. -/
def OnlyLanes (e : Env) (s t : State) (ls : List Nat) (d n : Nat) : Prop :=
  (∀ key, (∀ l ∈ ls, ∀ i, i < n → key ≠ vKey e.uid e.vp l (d + i)) → t.v.get key = s.v.get key) ∧
  t.vi = s.vi ∧ t.a = s.a ∧ t.w = s.w ∧ t.k = s.k ∧ t.csr = s.csr

/-- What a scratchpad instruction asks of each lane (R130, R131): its space, the bytes of an element, whether it writes
and whether it reads, what its entry does, its width and sign, and the data it brings. -/
structure SpRule where
  sp : Nat
  n : Nat
  wr : Bool
  rd : Bool
  act : Act
  sgn : Bool
  dat : Nat → Word × Word

/-- The scratchpad instructions. -/
def spRule (e : Env) : Instr → Option SpRule
  | .lds f => some (load f 1)
  | .ldp f => some (load f (poolSpace (f.mod.getLsbD 5)))
  | .sts f => some (store f 1)
  | .stp f => some (store f (poolSpace (f.mod.getLsbD 5)))
  | .atms op f =>
    let t := mfld f 3 0
    let w := typeWidth t
    some { sp := if f.mod.getLsbD 5 then poolSpace (f.mod.getLsbD 4) else 1, n := w / 8, wr := true, rd := true,
           act := .atom (atmsOp op.toNat) t, sgn := decide (4 ≤ t) && decide (t < 8),
           dat := fun l => (wd (e.bits f.sc.toNat l w (if op.toNat = 7 then 0 else f.typeImm t)),
             wd (e.bits f.sd l w (if op.toNat = 7 then 0 else f.typeImm t))) }
  | _ => none
where
  /-- A load. -/
  load (f : Fields) (sp : Nat) : SpRule :=
    { sp := sp, n := intWidth (mfld f 3 0) / 8, wr := false, rd := true, act := .read, sgn := intSigned (mfld f 3 0),
      dat := fun _ => (0, 0) }
  /-- A store. -/
  store (f : Fields) (sp : Nat) : SpRule :=
    { sp := sp, n := intWidth (mfld f 3 0) / 8, wr := true, rd := false, act := .write, sgn := false,
      dat := fun l => (wd (e.bits f.sc.toNat l (intWidth (mfld f 3 0)) (f.intImm (mfld f 3 0))), 0) }

/-- The element of a lane. -/
def SpRule.elem (r : SpRule) (e : Env) (x : SpLane) (l : Loc) : Elem :=
  { lane := x.lane, loc := l, n := r.n, vs := (fenceAddr e.t r.sp x.off).1, va := (fenceAddr e.t r.sp x.off).2,
    data := (r.dat x.lane).1, data2 := (r.dat x.lane).2,
    sink := if r.rd then e.sinkFor x.lane (8 * r.n) r.sgn true else .none }

/-- The barrier word that an instruction names is there, nothing bars its use, and it is bound or not as asked (R145). -/
abbrev Env.atWord (e : Env) (l : Loc) (bound : Bool) : Prop :=
  e.barOff % 16 = 0 ∧ classify e.s.ctl e.t e.barSpace e.barOff 16 = .data l ∧
    e.s.ctl.wouldBar (e.barEntry l .read) = false ∧ (e.s.ctl.barAt l).isSome = bound

/-- Every lane's address is a multiple of n. -/
abbrev Aligned (xs : List (Nat × Nat)) (n : Nat) : Prop := ∀ x ∈ xs, x.2 % n = 0

/-- The atomics of device memory (R196, R199, R200): operation, type, bytes, sign, whether it returns, whether its reply
brings flags, and the data of a lane. -/
def atomRule (e : Env) : Instr → Option (AtOp × Nat × Nat × Bool × Bool × Bool × (Nat → Word × Word))
  | .atg op f =>
    let t := atgType op.toNat (mfld f 1 0)
    some (atgOp op.toNat, t, atgWidth t / 8, decide (4 ≤ t) && decide (t < 8), true, decide (8 ≤ op.toNat), e.atgData op.toNat t)
  | .redg op f =>
    let t := atgType (op.toNat - 16) (mfld f 1 0)
    some (atgOp (op.toNat - 16), t, atgWidth t / 8, false, false, false, e.atgData (op.toNat - 16) t)
  | .atqPush _ => some (.push, 0, 16, false, true, false, fun _ => (0, 0))
  | .atqPop _ => some (.pop, 0, 16, false, true, false, fun _ => (0, 0))
  | _ => none

/-- What the n bytes at a location hold after an atomic's lane, and what the lane gets, of the old bytes and its data
(R131, R199, R200). -/
def atomStep (op : AtOp) (t old c d : Nat) : Nat × Nat :=
  match op with
  | .push => queueStep true old
  | .pop => queueStep false old
  | _ => ((op.apply t old c d).1, old)

/-- The device's reply to an entry's element. -/
def Entry.replyFor (x : Entry) (kind : ReplyKind) (v : Elem) (data : Nat) (fault : Option (Nat × Nat)) (r : Reply) : Prop :=
  r.kind = kind ∧ r.ins = x.ins ∧ r.team = x.team ∧ r.who = x.who ∧ r.pid = x.pid ∧ r.home = x.home ∧ r.lane = v.lane ∧
    r.sink = v.sink ∧ r.data = wd data ∧ r.cnt = x.cnt ∧ r.fault = fault

/-- A request of a key slot passes the seal engine of its stack (R245 to R251); s1 is the state once it has. -/
def Unsealed (s : State) (slot pa : Nat) (write : Bool) (s1 : State) : Prop :=
  Runs (sealAccess slot pa write) s .ok s1

/-- t's lane and uniform registers are those of s after a value has landed where a sink names, extended to the register
(R18); nothing lands for a team that is gone. -/
def Landed (s t : State) (uid : Nat) (k : Sink) (x : Word) : Prop :=
  let s1 : State := match k with
    | .reg r _ => if s.ctl.hasTeam uid then applyAll s (updSink uid r x) else s
    | .none => s
  t.v = s1.v ∧ t.w = s1.w ∧ t.vi = s.vi ∧ t.k = s.k

/-- A team has the party of an index. -/
def Team.hasParty (t : Team) (home : Nat) : Bool :=
  match whoOf home with
  | .bobbin => t.bobbin.isSome
  | .group n => t.groups.any (fun g => g.who == .group n)

/-- The entry has moved to another stage. -/
def Staged (t : State) (x : Entry) (st : Stage) : Prop := { x with stage := st } ∈ t.ctl.entries

/-- A lane's fault is on the record of the party (R188, R189): this one where the lane had none, else the earlier one, with MULT. -/
def Recorded (s t : State) (uid home lane cause sub : Nat) : Prop :=
  let faults (x : State) : List Fault1 := ((x.ctl.team uid).party (whoOf home)).faults
  ((∀ q ∈ faults s, q.lane ≠ lane) → ∃ q ∈ faults t, q.lane = lane ∧ q.cause = cause ∧ q.sub = sub ∧ q.mult = false) ∧
    ∀ q ∈ faults s, q.lane = lane → { q with mult := true } ∈ faults t

/-- Every path of the device that waited on a barrier word has been released, those of saved teams too (R142, R148). -/
def WaitersReleased (t : State) (l : Loc) : Prop :=
  ∀ x ∈ t.ctl.teams, ∀ g ∈ x.parties, ∀ p ∈ g.paths, ∀ k off q, p.park = some k → k.kind = .barrier l off q →
    k.doom = none → k.released = true

/-- What R139's loop makes of a bound word when da thread arrivals and db bytes reach it: it goes round n times, and ov says whether
it sets OVER. A kind of event that the word expects none of is not counted. -/
structure BarWord.Counts (w : BarWord) (da db : Nat) (w1 : BarWord) (n : Nat) (ov : Prop) : Prop where
  phases : n * w.expa ≤ w.cnta + (if w.expa = 0 then 0 else da) ∧ n * w.expb ≤ w.cntb + (if w.expb = 0 then 0 else db)
  noMore : w.cnta + (if w.expa = 0 then 0 else da) < (n + 1) * w.expa ∨ w.cntb + (if w.expb = 0 then 0 else db) < (n + 1) * w.expb
  sets : ov ↔ (w.expa = 0 ∧ 0 < da) ∨ (w.expb = 0 ∧ 0 < db) ∨
    (0 < n ∧ (1 < n ∨ 0 < w.cnta + (if w.expa = 0 then 0 else da) - n * w.expa ∨
      0 < w.cntb + (if w.expb = 0 then 0 else db) - n * w.expb)) ∨
    0xFFFFF < w.cnta + (if w.expa = 0 then 0 else da) - n * w.expa ∨
    0xFFFFFFFF < w.cntb + (if w.expb = 0 then 0 else db) - n * w.expb
  ovr : w1.ovr = true ↔ w.ovr = true ∨ ov
  word : w1 = { w with ovr := w1.ovr, pseq := (w.pseq + n) % 2 ^ 16,
                       cnta := min (w.cnta + (if w.expa = 0 then 0 else da) - n * w.expa) 0xFFFFF,
                       cntb := min (w.cntb + (if w.expb = 0 then 0 else db) - n * w.expb) 0xFFFFFFFF }

/-- Of the registers only OVER in the `gst` of the party that a counting event is charged to may have changed: it is set where the
event sets OVER and the party has not retired (R139). -/
def OverCharged (s t : State) (uid home : Nat) (ov : Prop) : Prop :=
  t.v = s.v ∧ t.vi = s.vi ∧ t.a = s.a ∧ t.w = s.w ∧ t.k = s.k ∧
    (∀ key, key ≠ csrKey uid home 0 → t.csr.get key = s.csr.get key) ∧
    (ov ∧ s.ctl.hasTeam uid = true ∧ ((s.ctl.team uid).party (whoOf home)).retired = false →
      t.csrOf uid home 0 = s.csrOf uid home 0 ||| 0x40) ∧
    (¬ov ∨ s.ctl.hasTeam uid = false ∨ ((s.ctl.team uid).party (whoOf home)).retired = true → t.csr = s.csr)

/-- j is the job of that number. -/
abbrev Ctl.theJob (c : Ctl) (id : Nat) (j : Job) : Prop := j ∈ c.jobs ∧ j.id = id ∧ ∀ q ∈ c.jobs, q.id = id → q = j

/-- A copy as its instruction gives it (R182, R185 to R187): what it moves, the destination's space and address, the
source's, the bytes it writes, and the ranges that must lie inside their spaces. -/
structure CopyRule where
  kind : JobKind
  dsp : Nat
  dst : Nat
  ssp : Nat
  src : Nat
  size : Nat
  rs : List (Nat × Nat × Nat)

/-- The copies whose sizes their operands give, where those are allowed. -/
def copyRule (e : Env) : Instr → Option CopyRule
  | .cpy f =>
    let n := (e.usrcB f.sc.toNat).toNat
    let a := e.addrOf (mfld f 5 4) f.sa.toNat
    let b := e.addrOf (mfld f 3 2) f.sb.toNat
    if n ≤ 2 ^ 30 then
      some { kind := .cpy, dsp := mfld f 5 4, dst := a, ssp := mfld f 3 2, src := b, size := n,
             rs := [(mfld f 5 4, a, n), (mfld f 3 2, b, n)] }
    else none
  | .cpfill f =>
    let n := (e.usrcB f.sc.toNat).toNat
    let a := e.addrOf (mfld f 5 4) f.sa.toNat
    if n ≤ 2 ^ 30 then
      some { kind := .fill (e.usrc f.sb.toNat) (2 ^ (f.xmod % 4)), dsp := mfld f 5 4, dst := a, ssp := 1, src := 0,
             size := n, rs := [(mfld f 5 4, a, n)] }
    else none
  | .cpz f =>
    let n := (e.usrcB f.sc.toNat).toNat
    let m := (e.usrcB f.se).toNat
    let a := e.addrOf (mfld f 5 4) f.sa.toNat
    let b := e.addrOf (mfld f 3 2) f.sb.toNat
    if n ≤ 2 ^ 22 ∧ m ≤ 2 ^ 22 then
      some { kind := .cpz m, dsp := mfld f 5 4, dst := a, ssp := mfld f 3 2, src := b, size := n,
             rs := [(mfld f 5 4, a, n), (mfld f 3 2, b, m)] }
    else none
  | .cpx f =>
    let rows := (e.usrcB f.sc.toNat).toNat
    let fa := wfld e.p.fmt 4 0
    let n := planes fa * rows * planeBytes fa
    let a := e.addrOf 1 f.sa.toNat
    if fa < 20 ∧ 0 < rows ∧ rows ≤ 64 then
      some { kind := .cpx fa rows (e.usrcB f.se).toNat, dsp := 1, dst := a, ssp := mfld f 3 2,
             src := e.addrOf (mfld f 3 2) f.sb.toNat, size := n, rs := [(1, a, n)] }
    else none
  | _ => none

/-- A job that an instruction has submitted: it is charged to the lowest executing lane and not accepted yet. -/
def Env.submitted (e : Env) (t : State) (kind : JobKind) (dsp dst ssp src size : Nat) (compl : Compl) : Prop :=
  ∃ j, t.ctl.jobs.getLast? = some j ∧ j.team = e.uid ∧ j.who = e.g.who ∧ j.pid = e.p.pid ∧ j.lane = e.chargeLane ∧
    j.kind = kind ∧ j.dsp = dsp ∧ j.dst = wd dst ∧ j.ssp = ssp ∧ j.src = wd src ∧ j.size = size ∧ j.compl = compl ∧
    j.accepted = false ∧ j.got = [] ∧ j.landed = [] ∧ j.err = none

/-- The traps that an instruction takes as its own effect (R382), or a word that is no instruction (R49, R51): cause, subcause and
faulting lanes. -/
def trapRule (e : Env) : Instr → Option TrapReq
  | .trap f => some (mkTrap 0x21 (scfld f 7 0) e.ex)
  | .brkpt _ => some (mkTrap 0x20 0 e.ex)
  | .reservedEncoding _ .badLen => some (mkTrap 2 (e.pos * 32 + 1) e.p.act)
  | .reservedEncoding _ .invalidMajor => some (mkTrap 1 (e.pos * 32 + 8) e.p.act)
  | .reservedEncoding _ .reservedMajor => some (mkTrap 1 (e.pos * 32) e.p.act)
  | .reservedEncoding _ .unnamedMinor => some (mkTrap 1 (e.pos * 32 + 16) e.p.act)
  | _ => none

/-- Doubleword k of the trap frame of a trap without addresses (R377). -/
def frameRule (s : State) (e : Env) (r : TrapReq) (k : Nat) : Nat :=
  if k = 0 then (trapHead e.p e.cur r).toNat
  else if k = 1 then r.cause % 256 + r.sub % 256 * 256
  else if k = 2 then r.lanes.toNat
  else if k = 3 then e.p.act.toNat
  else if k = 4 then e.cur.bits.toNat % 2 ^ 64
  else if k = 5 then e.cur.bits.toNat / 2 ^ 64
  else if k = 6 then e.p.fmt.toNat
  else if k = 7 then (s.gstAt e.t e.g e.p).toNat
  else if k = 72 then e.cur.npc.toNat
  else if k = 75 then e.g.na % 65536 * 65536 + e.g.nr % 65536
  else 0

/-- The group has taken a trap (R376, R377): its frame's 128 doublewords are on their way to the page at l, which `tfa` names, and
the path stands at the handler, at supervisor level, in the faulting lanes, with `fmt` 0. -/
def Entered (s s1 t : State) (e : Env) (r : TrapReq) (l : Loc) : Prop :=
  SameBytes s1 t ∧ t.v = s.v ∧ t.vi = s.vi ∧ t.a = s.a ∧ t.w = s.w ∧ t.k = s.k ∧
  t.csrOf e.uid e.g.who.idx 0 = s.csrOf e.uid e.g.who.idx 0 ||| 0x1000 ∧
  (∀ key, key ≠ csrKey e.uid e.g.who.idx 0 → t.csr.get key = s.csr.get key) ∧
  (t.pathOf e.cur.p).pc = advPc (s.csrOf e.uid e.g.who.idx 2) ∧ (t.pathOf e.cur.p).act = r.lanes &&& e.p.act ∧
  (t.pathOf e.cur.p).fmt = 0 ∧ (t.pathOf e.cur.p).chain = none ∧ (t.pathOf e.cur.p).park = none ∧
  (t.groupOf e.cur.p).recon = e.g.demoted e.p.pid ∧
  (t.groupOf e.cur.p).inTrap = true ∧ (t.groupOf e.cur.p).held = e.p.act &&& ~~~(r.lanes &&& e.p.act) ∧
  ∃ new, t.ctl.entries = s1.ctl.entries ++ new ∧ new.length = 16 ∧
    ∀ i x, new[i]? = some x → x.act = .write ∧ x.team = e.uid ∧ x.who = e.g.who ∧ x.stage = .pend ∧
      x.els.map (fun y => (y.loc, y.n, y.data)) =
        (List.range 8).map (fun k => (l.plus (64 * i + 8 * k), 8, wd (frameRule s e r (8 * i + k))))

/-- The team is to be saved and its trap reported to the host, after the demotion of a live pair (R102, R379, R380). -/
def Serviced (s t : State) (e : Env) (r : TrapReq) : Prop :=
  SameStores s t ∧ (t.groupOf e.cur.p).recon = e.g.demoted e.p.pid ∧ (t.ctl.team e.uid).phase = .saving ∧
    (t.ctl.team e.uid).service = some { who := e.g.who, pid := e.p.pid, cause := r.cause, sub := r.sub, pc := trapHead e.p e.cur r,
                                        npc := e.cur.npc, insn := e.cur.bits, double := e.g.inTrap }

/-- A command of the mailbox has done its work: this is what it will answer (R392). -/
def Answered (t : State) (st : Nat) (r : Word) : Prop :=
  t.ctl.host.mailbox.ran = true ∧ t.ctl.host.mailbox.pendStatus = st ∧ t.ctl.host.mailbox.pendResult = r

/-- The party whose registers a path uses: its recruiter's group for helper code, else its own. -/
def Ctl.homeOf (c : Ctl) (p : PathId) (q : Path) : Nat :=
  match q.helper.bind (fun r => c.recruits.find? (fun x => x.id == r)) with
  | some r => r.group
  | none => p.who.idx

/-- A path's fetch at pc in s1 finds n bytes of an instruction (R39, R40, R226): its page translates for execution, the tile of
device memory passes its seal, and the 32-byte block that holds them is the one in memory, or in the memories as they stood so
many changes before, since the team's start or restore; s3 is the state once it has. -/
def FetchFinds (s1 s3 : State) (p : PathId) (pc : Word) (back : Nat) (n : Nat) (bits : BitVec 128) (l : Loc) (block : List Byte) : Prop :=
  let t := s1.ctl.team p.team
  let q := s1.pathOf p
  let base : Loc := { l with key := l.key - pc.toNat % 32 }
  pc = advPc q.pc ∧ pc.toNat % 4 = 0 ∧
  (∃ s2, Runs (translate (t.engine p.who) t.rctx pc.toNat (s1.pl t.uid (s1.ctl.homeOf p q) == 0) { rd := false, wr := false, x := true })
      s1 (.ok l) s2 ∧
    if l.sp = .dm then Runs (sealAccess (s1.ctl.ctx t.rctx).kslot l.key false) s2 .ok s3 else s3 = s2) ∧
  block = (s1.memoryThen t back).loadBytes base 32 ∧
  n = lenBytes (BitVec.ofNat 2 (ofBytes ((block.drop (pc.toNat % 32)).take 8))) ∧ pc.toNat % 32 + n ≤ 32 ∧
  bits = BitVec.ofNat 128 (ofBytes ((block.drop (pc.toNat % 32)).take n))

/-- What a step answers when its instruction answers o: the memories before it are kept for later fetches where one has changed
(R226). -/
def Remembering (before : State) (o : Host.Outcome State Fault Refusal) : Host.Outcome State Fault Refusal :=
  match o with
  | .next u => .next (u.remember before)
  | r => r

end Sys2Proof.Machine

open Sys2Proof Sys2Proof.Machine

/-! ### Claims -/

/-- R72, R90 to R93: `cvt`, the narrow conversions (`cvtNarrow`), `mxpk`, `mxunpk` and `fclass` complete with their value and flags. -/
def Sys2Proof.Claims.ConversionsComplete : Prop :=
  ∀ (i : Instr) (f : Fields) (cur : Cur) (s : State) (r : (Env → Nat) × (Env → Bool) × (Env → Nat → Nat × Nat)),
    convRule i = some r → Executes i f cur s → s.wf → RegisterOnly i f cur s r.1 r.2.1 r.2.2

/-- R94: `vdot` completes with one chunk of R89 over the n elements of a, and of the n elements that start at lane
register b, added to c. -/
def Sys2Proof.Claims.VdotAddsOneChunk : Prop :=
  ∀ (f : Fields) (cur : Cur) (s : State), Executes (.vdot f) f cur s → s.wf →
    let e := envOf s cur f
    let fa := wfld e.p.fmt 4 0
    let fb := wfld e.p.fmt 9 5
    let n := 32 / container fa
    let nb := (n * container fb + 31) / 32
    f.sb.toNat + nb ≤ e.regs → s.ctl.waitsFor e.uid e.g.who e.p e.vp e.home [(f.sb.toNat, nb)] = false →
    RegisterOnly (.vdot f) f cur s (fun _ => 32) (fun _ => false) (fun e l =>
      let row := ((List.range nb).map (fun i => e.v (f.sb.toNat + i) l * 2 ^ (32 * i))).sum
      chunk fa fb (e.bits f.sc.toNat l 32 f.rawImm) ((List.range n).map (fun i =>
        (elemVal fa (elemAt (e.bits f.sa.toNat l 32 f.rawImm) (container fa) i),
         elemVal fb (elemAt row (container fb) i)))))

/-- R74, R75: `shuf`, `lrot` and `bcast` complete with source a of the lane that the index names mod GW, whether or not
that lane executes. -/
def Sys2Proof.Claims.LaneMovesTakeTheNamedLane : Prop :=
  ∀ (i : Instr) (f : Fields) (cur : Cur) (s : State) (g : Nat → Nat),
    (∀ l, moveRule (envOf s cur f) l i = some (g l)) → Executes i f cur s → s.wf →
    RegisterOnly i f cur s (fun e => typeWidth e.lt) (fun e => decide (4 ≤ e.lt) && decide (e.lt < 8))
      (fun e l => (e.la (g l), 0))

/-- R76: `scan` gives each executing lane the combination of the executing lanes up to it, or before it (the identity for
the first), `redw` that of all of them, in ascending order (where no lane executes both write nothing, R8). The flags are those of every step; that they take in the last step of
an exclusive scan, which makes no lane's result, is the model's reading (log 102). -/
def Sys2Proof.Claims.ScansCombineInLaneOrder : Prop :=
  ∀ (f : Fields) (cur : Cur) (s : State),
    let e := envOf s cur f
    let op := scfld f 2 0
    let ls := lanesOf e.ex e.gw
    let fl := (foldSteps e.lt op (ls.map e.la)).2
    let upTo (l : Nat) : List Nat := (ls.filter (fun m => if bitOf f.sc.toNat 3 then decide (m < l) else decide (m ≤ l))).map e.la
    (Executes (.scan f) f cur s → s.wf → f.u = false →
      ∃ t, exec (.scan f) s = .next t ∧
        LaneStep (.scan f) e (typeWidth e.lt) (decide (4 ≤ e.lt) && decide (e.lt < 8))
          (fun l => (foldSteps e.lt op (upTo l)).1) (fun _ => fl) s t) ∧
    (Executes (.redw f) f cur s → s.wf → f.u = false →
      ∃ t, exec (.redw f) s = .next t ∧
        LaneStep (.redw f) e (typeWidth e.lt) (decide (4 ≤ e.lt) && decide (e.lt < 8))
          (fun _ => (foldSteps e.lt op (ls.map e.la)).1) (fun _ => fl) s t)

/-- R75: `sortk` completes; the executing lanes take, in order, the numbers of the executing lanes sorted by key,
equal keys by lane. -/
def Sys2Proof.Claims.SortkIsAStableSort : Prop :=
  ∀ (f : Fields) (cur : Cur) (s : State), Executes (.sortk f) f cur s → s.wf → f.u = false →
    let e := envOf s cur f
    let ls := lanesOf e.ex e.gw
    let key (l : Nat) : Int := if 4 ≤ e.lt then sextNat (typeWidth e.lt) (e.la l) else e.la l
    ∃ (t : State) (val : Nat → Nat), exec (.sortk f) s = .next t ∧
      LaneStep (.sortk f) e 32 false val (fun _ => 0) s t ∧ (ls.map val).Perm ls ∧
      (ls.map val).Pairwise (fun a b => key a < key b ∨ (key a = key b ∧ a < b))

/-- R57, R77: `kand`, `kor`, `kxor`, `kandn`, `knot` and `kmov` complete with their result ANDed with GWMASK in their k register (k0 is not written)
or their w register, and nothing else changes. -/
def Sys2Proof.Claims.MaskInstructionsWriteMasks : Prop :=
  ∀ (i : Instr) (f : Fields) (cur : Cur) (s : State) (m : Word),
    maskRule (envOf s cur f) i = some m → Executes i f cur s → s.wf →
    let e := envOf s cur f
    let r := m &&& gwMask e.gw
    ∃ t, exec i s = .next t ∧
      (f.ws = false → 352 < f.dst.toNat → (envOf t cur f).k (f.dst.toNat - 352) = r) ∧
      (∀ n, f.dst.toNat ≠ 352 + n → (envOf t cur f).k n = e.k n) ∧
      (∀ key, key ≠ kKey e.uid e.g.who.idx (f.dst.toNat - 352) → t.k.get key = s.k.get key) ∧
      (f.dst.toNat ≤ 352 ∨ f.ws = true → t.k = s.k) ∧
      (f.ws = false → f.dst.toNat < 352 → t.wreg e.uid e.home (f.dst.toNat - 256) e.pl = r) ∧
      (∀ key, key ≠ wKey e.uid e.home (wIndex (f.dst.toNat - 256) e.pl) → t.w.get key = s.w.get key) ∧
      (352 ≤ f.dst.toNat ∨ f.ws = true → t.w = s.w) ∧
      t.v = s.v ∧ t.vi = s.vi ∧ t.a = s.a ∧ t.csr = s.csr ∧ SameBytes s t ∧ GoesOn cur s t

/-- R64, R77, R95: `kpop`, `kfirst`, `clk`, `getfmt` and `csrr` complete with their number in the w register and in every
lane's latch, and nothing else changes. A `csrr` of gst shows the flags of every earlier instruction: none are pending. -/
def Sys2Proof.Claims.UniformReadsWriteOneRegister : Prop :=
  ∀ (i : Instr) (f : Fields) (cur : Cur) (s : State) (x : Word),
    numberRule (envOf s cur f) i = some x → Executes i f cur s → s.wf →
    (i = .csrr f → f.sc = 0 → (envOf s cur f).flagsPending = false) →
    ∃ t, exec i s = .next t ∧ UniStep i (envOf s cur f) x 0 s t

/-- R98, R99, R102, R107: with a free place on the stack, `split` pushes an entry that holds the join PC and the path's
lanes and formats. Lanes in which the mask is set go on, the others start at the else PC as a second live path, or stay
a pending arm where a DUAL entry stands already; with one side empty the other goes on alone. A live pair is divided
first. -/
def Sys2Proof.Claims.SplitDividesThePath : Prop :=
  ∀ (f : Fields) (cur : Cur) (s : State), Executes (.split f) f cur s →
    let e := envOf s cur f
    e.g.recon.length < 16 →
    let tk := e.p.act &&& e.k (f.sa.toNat - 352)
    let r := e.p.act &&& ~~~tk
    let el := advPc (cur.pc + wd (wrapInt 64 (sextNat 32 (wfld f.ext64 31 0))))
    let both := tk ≠ 0 ∧ r ≠ 0
    ∃ t, exec (.split f) s = .next t ∧ SameStores s t ∧
      (t.groupOf cur.p).recon =
        { jpc := advPc (cur.pc + wd (wrapInt 64 (sextNat 32 (wfld f.ext64 63 32)))), jmask := e.p.act, arr := 0,
          ppc := if both ∧ e.g.hasDual = true then el else 0, pmask := if both ∧ e.g.hasDual = true then r else 0,
          pfmt := if both ∧ e.g.hasDual = true then e.p.fmt else 0, fcopy := e.p.fmt,
          kind := if both ∧ e.g.hasDual = false then .dual else .ser, ppark := none } :: e.g.demoted e.p.pid ∧
      (t.pathOf cur.p).pc = (if tk = 0 then el else cur.npc) ∧ (t.pathOf cur.p).act = (if tk = 0 then r else tk) ∧
      (t.pathOf cur.p).fmt = e.p.fmt ∧ (both → e.g.hasDual = false → Started e t el r e.p.fmt)

/-- R103, R108: `join` at its entry's join PC ends the path with its lanes arrived. While the group's other path lives
nothing more happens; else a pending arm starts, and when none is left the entry is popped and all its lanes go on after
the join. -/
def Sys2Proof.Claims.JoinEndsTheArm : Prop :=
  ∀ (f : Fields) (cur : Cur) (s : State) (x : REnt) (rest : List REnt), Executes (.join f) f cur s →
    let e := envOf s cur f
    e.g.recon = x :: rest → x.jpc = cur.pc →
    ∃ t, exec (.join f) s = .next t ∧
      (¬e.alone → SameStores s t ∧ PathGone cur t ∧
        (t.groupOf cur.p).recon = { x with arr := x.arr ||| e.p.act } :: rest) ∧
      (e.alone → x.kind ≠ .callv → x.pmask ≠ 0 → SameStores s t ∧ Started e t x.ppc x.pmask x.pfmt ∧
        (t.groupOf cur.p).recon = { x with arr := x.arr ||| e.p.act, pmask := 0, ppark := none } :: rest) ∧
      (e.alone → x.kind ≠ .callv → x.pmask = 0 → x.jmask ≠ 0 → lastSpilled false e.g.spilled = none →
        SameStores s t ∧ Started e t (x.jpc + 8) x.jmask x.fcopy ∧ (t.groupOf cur.p).recon = rest)

/-- R109: `brk` takes its lanes out of the n innermost regions: the n-th entry counts them as arrived, those inside it lose
them; lanes that stay go on. -/
def Sys2Proof.Claims.BrkLeavesRegions : Prop :=
  ∀ (f : Fields) (cur : Cur) (s : State), Executes (.brk f) f cur s →
    let e := envOf s cur f
    let n := scfld f 3 0 + 1
    e.ex ≠ 0 → n ≤ e.g.nr → (∀ a, e.g.ras.head? = some a → a.depth + n ≤ e.g.nr) →
    (e.p.act &&& ~~~e.ex ≠ 0 ∨ ¬e.alone) →
    ∃ t, exec (.brk f) s = .next t ∧ SameStores s t ∧
      (∀ j, (t.groupOf cur.p).recon[j]? = e.g.recon[j]?.map (fun x =>
        if j + 1 < n then { x with jmask := x.jmask &&& ~~~e.ex, arr := x.arr &&& ~~~e.ex, pmask := x.pmask &&& ~~~e.ex }
        else if j + 1 = n then { x with arr := x.arr ||| e.ex } else x)) ∧
      (e.p.act &&& ~~~e.ex ≠ 0 →
        (t.pathOf cur.p).act = e.p.act &&& ~~~e.ex ∧ (t.pathOf cur.p).pc = nextPc cur.pc cur.len) ∧
      (e.p.act &&& ~~~e.ex = 0 → PathGone cur t)

/-- R110, R111: with a free place, `call` and `callv.u` push the next instruction's address with the depth of the stack, and
the path goes on at the target. -/
def Sys2Proof.Claims.CallsPushTheReturnAddress : Prop :=
  ∀ (i : Instr) (f : Fields) (cur : Cur) (s : State) (x : Word), Executes i f cur s →
    let e := envOf s cur f
    (i = .call f ∧ x = cur.pc + wd (wrapInt 64 (sextNat 32 f.imm32.toNat)) ∨
      i = .callvU f ∧ x = e.opnd f.sa.toNat 0 false 0 ∧ x ≠ 0 ∧ x.toNat % 4 = 0) →
    e.g.ras.length < 8 →
    ∃ t, exec i s = .next t ∧ SameStores s t ∧
      (t.groupOf cur.p).ras = { pc := cur.npc, depth := e.g.nr } :: e.g.ras ∧
      (t.groupOf cur.p).recon = e.g.demoted e.p.pid ∧
      (t.pathOf cur.p).pc = x ∧ (t.pathOf cur.p).act = e.p.act ∧ (t.pathOf cur.p).fmt = e.p.fmt

/-- R110, R111: `ret` pops the top return address at the depth it was pushed at and goes on there. From the last call of a
`callv` it ends the path, and the lanes of its entry go on after the `callv`. -/
def Sys2Proof.Claims.RetPopsTheReturnAddress : Prop :=
  ∀ (f : Fields) (cur : Cur) (s : State) (a : RAEnt) (rest : List RAEnt), Executes (.ret f) f cur s →
    let e := envOf s cur f
    e.g.ras = a :: rest → lastSpilled true e.g.spilled = none →
    (a.pc.getLsbD 0 = false → a.depth = e.g.nr →
      ∃ t, exec (.ret f) s = .next t ∧ SameStores s t ∧ (t.groupOf cur.p).ras = rest ∧
        (t.groupOf cur.p).recon = e.g.demoted e.p.pid ∧
        (t.pathOf cur.p).pc = a.pc ∧ (t.pathOf cur.p).act = e.p.act ∧ (t.pathOf cur.p).fmt = e.p.fmt) ∧
    (∀ (x : REnt) (r : List REnt), a.pc.getLsbD 0 = true → e.g.recon = x :: r → x.kind = .callv → e.alone → x.pmask = 0 →
      x.jmask ≠ 0 → lastSpilled false e.g.spilled = none →
      ∃ t, exec (.ret f) s = .next t ∧ SameStores s t ∧ (t.groupOf cur.p).ras = rest ∧
        (t.groupOf cur.p).recon = r ∧ Started e t x.jpc x.jmask x.fcopy)

/-- R111: with free places, `callv` with a code address in every executing lane, whose word can be read again once the path has
ended, pushes its entry and a return address that carries the CALLV mark, and the lanes that hold the lowest target go there. -/
def Sys2Proof.Claims.CallvCallsTheLowestTarget : Prop :=
  ∀ (f : Fields) (cur : Cur) (s s0 s1 : State) (cw : Word), Executes (.callv f) f cur s →
    let e := envOf s cur f
    let entry : REnt :=
      { jpc := cur.npc, jmask := e.p.act, arr := e.p.act &&& ~~~e.ex, ppc := cur.pc, pmask := e.ex, pfmt := 0,
        fcopy := e.p.fmt, kind := .callv, ppark := none }
    let target (l : Nat) : Word := e.opnd f.sa.toNat l true 0
    let ls := lanesOf e.ex e.gw
    e.ex ≠ 0 → (∀ l ∈ ls, target l ≠ 0 ∧ (target l).toNat % 4 = 0) → e.g.recon.length < 16 → e.g.ras.length < 8 →
    Runs (do
      demote e.uid e.g.who e.p.pid
      modGroup e.uid e.g.who (fun g => { g with recon := entry :: g.recon })
      endPath e.uid e.g.who e.p.pid) s () s0 →
    Runs (readCall e.acc cur.pc) s0 (.ok cw) s1 → wfld cw 39 31 = f.sa.toNat →
    ∃ (t : State) (m : Word), exec (.callv f) s = .next t ∧ SameBytes s1 t ∧ SameRegs s t ∧
      (∃ l ∈ ls, target l = m) ∧ (∀ l ∈ ls, m.toNat ≤ (target l).toNat) ∧
      let cm := maskOf (ls.filter (fun l => target l == m))
      (t.groupOf cur.p).recon =
        { entry with pmask := e.ex &&& ~~~cm } :: e.g.demoted e.p.pid ∧
      (t.groupOf cur.p).ras = { pc := cur.pc ||| 1, depth := e.g.nr + 1 } :: e.g.ras ∧
      Started e t m cm e.p.fmt

/-- R119 to R127, R131: `lds`, `sts`, `ldp`, `stp` and `atms` whose lanes are aligned, inside their window or its selvage, and not held up
complete: the accesses of the data lanes are posted as one entry (of stores to one place the highest lane's), a lane in
the selvage is a recorded hit that reads zero, no other register changes, and no byte does before the access is served. -/
def Sys2Proof.Claims.ScratchpadAccessesArePosted : Prop :=
  ∀ (i : Instr) (f : Fields) (cur : Cur) (s : State) (r : SpRule), Executes i f cur s →
    let e := envOf s cur f
    let xs := e.spLanes r.sp r.n
    let ds := dataLanes xs
    spRule e i = some r → s.wf → (∀ x ∈ xs, x.off % r.n = 0) → (∀ x ∈ xs, ∀ b, x.cls ≠ .out b) →
    (r.wr = true → ∀ d ∈ ds, s.ctl.boundByte d.2 r.n = false ∧ s.ctl.ringHeader d.2 r.n = false) →
    spPark s.ctl e.t (r.sp == 1) r.wr ds r.n = none →
    ∃ (t : State) (new : List Entry), exec i s = .next t ∧ GoesOn cur s t ∧ SameBytes s t ∧
      t.vi = s.vi ∧ t.a = s.a ∧ t.k = s.k ∧ t.csr = s.csr ∧
      t.ctl.entries = s.ctl.entries ++ new ∧ (∀ x ∈ new, e.owns x ∧ x.act = r.act) ∧ (ds = [] → new = []) ∧
      (ds ≠ [] → new.map (·.els) =
        e.entriesOf (if r.act == .write then lastAt (ds.map (fun d => r.elem e d.1 d.2)) else ds.map (fun d => r.elem e d.1 d.2))) ∧
      (∀ key, (∀ x ∈ xs, x.cls = .selv → key ≠ vKey e.uid e.vp x.lane f.dst.toNat ∧
        (8 * r.n = 64 → key ≠ vKey e.uid e.vp x.lane (f.dst.toNat + 1))) → t.v.get key = s.v.get key) ∧
      (∀ key, key ≠ wKey e.uid e.home (wIndex (f.dst.toNat - 256) e.pl) → t.w.get key = s.w.get key) ∧
      (r.rd = false ∨ f.ws = true → t.v = s.v ∧ t.w = s.w) ∧
      ((∀ x ∈ xs, x.cls ≠ .selv) → t.v = s.v ∧ t.w = s.w ∧ (t.groupOf cur.p).hits = e.g.hits) ∧
      (∀ x ∈ xs, x.cls = .selv → whoOf e.home = e.g.who → ∃ h ∈ (t.groupOf cur.p).hits, h.lane = x.lane) ∧
      (r.rd = true → f.ws = false → f.u = false → ∀ x ∈ xs, x.cls = .selv →
        e.laneAfter t f.dst.toNat x.lane (8 * r.n == 64) = 0) ∧
      (r.rd = true → f.ws = false → f.u = true → ∀ x ∈ xs, x.cls = .selv → t.wreg e.uid e.home (f.dst.toNat - 256) e.pl = 0)

/-- R132: `tmprobe` writes to its w register, for the 64 lines from the address on, which are present (Q = 0) or pinned
(Q = 1). Lines outside the window read as present and unpinned. -/
def Sys2Proof.Claims.TmprobeReadsLineStates : Prop :=
  ∀ (f : Fields) (cur : Cur) (s : State), Executes (.tmprobe f) f cur s → s.wf →
    let e := envOf s cur f
    ∃ (t : State) (x : Word), exec (.tmprobe f) s = .next t ∧ WroteW e s t x ∧ SameBytes s t ∧ GoesOn cur s t ∧
      ∀ i, i < 64 →
        let l := (e.spAddr 0 / 64 + i) % 2 ^ 26
        x.getLsbD i =
          if 64 * l < e.t.hdr.tmem * 256 then
            (if f.mod.getLsbD 0 then s.ctl.pinned (tmLoc e.uid (64 * l)) else !s.ctl.absent e.uid l)
          else !f.mod.getLsbD 0

/-- R137, R138, R146: `barinit` binds an unbound word with an expectation to the team's lowest free object and makes the word
that of a fresh barrier; with no object free it returns all ones. -/
def Sys2Proof.Claims.BarinitBindsAWord : Prop :=
  ∀ (f : Fields) (cur : Cur) (s : State) (l : Loc), Executes (.barinit f) f cur s → s.wf →
    let e := envOf s cur f
    let c := (e.usrc f.sc.toNat).toNat
    let used := e.barPool l
    e.atWord l false → (fld c 19 0 ≠ 0 ∨ fld c 63 32 ≠ 0) → s.ctl.entryAt l 16 = false →
    ∃ t, exec (.barinit f) s = .next t ∧ GoesOn cur s t ∧
      (∀ i, i < used.2 → i ∉ used.1 → (∀ j, j < i → j ∈ used.1) →
        WroteW e s t (wd i) ∧ SameBytesBut s t l 16 ∧
        t.ctl.bars = s.ctl.bars ++ [{ loc := l, obj := i, team := e.uid, rctx := e.t.rctx }] ∧
        t.barWordAt l = { ovr := false, die := l.sp == .dp, pseq := 0, expa := fld c 19 0, cnta := 0, expb := fld c 63 32,
                          cntb := 0 }) ∧
      ((∀ i, i < used.2 → i ∈ used.1) → WroteW e s t allOnes ∧ SameBytes s t ∧ t.ctl.bars = s.ctl.bars)

/-- R152: `barinv` releases the word's binding, clears its bound bit, and ends every wait on it: it takes PROT 0x24, unless an
earlier `barinv`, `pfree` or break has ended it already. -/
def Sys2Proof.Claims.BarinvReleasesTheWord : Prop :=
  ∀ (f : Fields) (cur : Cur) (s : State) (l : Loc), Executes (.barinv f) f cur s → s.wf →
    let e := envOf s cur f
    e.atWord l true → s.ctl.entryAt l 16 = false →
    ∃ t, exec (.barinv f) s = .next t ∧ GoesOn cur s t ∧ SameRegs s t ∧ SameBytesBut s t l 8 ∧ t.ctl.barAt l = none ∧
      t.load l 8 = (s.barWordAt l).lo - 2 ^ 63 ∧
      ∀ x ∈ t.ctl.teams, ∀ g ∈ x.parties, ∀ p ∈ g.paths, ∀ k, p.park = some k →
        ∀ off q, k.kind = .barrier l off q → k.released = false → k.doom.isSome = true ∧
          ((∀ y ∈ s.ctl.teams, ∀ h ∈ y.parties, ∀ o ∈ h.paths, ∀ m, o.park = some m → m.doom = none) →
            ∃ r, k.doom = some r ∧ r.cause = 10 ∧ r.sub = 0x24 ∧ r.lanes = k.ex)

/-- R147: `arrive` posts one arrival for each executing lane of the word, `arrivex` as many as its operand says, both as
releases at the word's scope; `arrivex` of 0 posts none. -/
def Sys2Proof.Claims.ArrivalsArePosted : Prop :=
  ∀ (i : Instr) (f : Fields) (cur : Cur) (s : State) (l : Loc) (n : Nat), Executes i f cur s →
    let e := envOf s cur f
    (i = .arrive f ∧ n = popc e.ex ∨ i = .arrivex f ∧ n = wfld (e.usrc f.sc.toNat) 19 0) → e.atWord l true →
    ∃ t, exec i s = .next t ∧ (i = .arrivex f → n = 0 → OnlyGoesOn i e s t) ∧
      (n ≠ 0 → Posts i e s t (fun x => x.act = .bar (.count n 0) ∧ x.rel = true ∧ x.scope = if l.sp = .tm then 1 else 3)
        [{ lane := 0, loc := l, n := 16, vs := (fenceAddr e.t e.barSpace e.barOff).1,
           va := (fenceAddr e.t e.barSpace e.barOff).2, data := 0, data2 := 0, sink := .none }])

/-- R148, R149: a `wait` whose phase has passed, and a `waitc` whose counter has reached its value, complete; a `waitc.s`
takes the value off its counter. Otherwise they park on the word, or on the counter, from now on (a park that a save has
interrupted goes on: R156). -/
def Sys2Proof.Claims.WaitsCompleteOrPark : Prop :=
  ∀ (f : Fields) (cur : Cur) (s : State), s.wf →
    let e := envOf s cur f
    let fresh (k : Park) : Prop := (∀ a, e.p.age = some a → a.pc ≠ cur.pc) → k.since = s.ctl.cyc
    (∀ l, Executes (.wait f) f cur s → e.atWord l true →
      ∃ t, exec (.wait f) s = .next t ∧ SameStores s t ∧
        ((s.barWordAt l).pseq % 2 ≠ e.parity → OnlyGoesOn (.wait f) e s t) ∧
        ((s.barWordAt l).pseq % 2 = e.parity → ∃ k, (t.pathOf cur.p).park = some k ∧
          k.kind = .barrier l e.barOff (s.barWordAt l).pseq ∧ k.released = false ∧ fresh k ∧ k.ex = e.ex)) ∧
    (Executes (.waitc f) f cur s →
      ∃ t, exec (.waitc f) s = .next t ∧ SameBytes s t ∧ t.v = s.v ∧ t.vi = s.vi ∧ t.w = s.w ∧ t.k = s.k ∧ t.csr = s.csr ∧
        (e.ctrGoal ≤ e.a e.ctr → GoesOn cur s t ∧
          (t.a.get (aKey e.uid e.home e.ctr)).toNat = (if f.mod.getLsbD 0 then e.a e.ctr - e.ctrGoal else e.a e.ctr) ∧
          ∀ key, key ≠ aKey e.uid e.home e.ctr → t.a.get key = s.a.get key) ∧
        (e.a e.ctr < e.ctrGoal → SameRegs s t ∧ ∃ k, (t.pathOf cur.p).park = some k ∧ k.kind = .counter e.ctr e.ctrGoal ∧
          fresh k ∧ k.ex = e.ex))

/-- R150, R151: `tryw` and `tryw.c` write 1 where the wait would complete and 0 where it would park; `phase` writes a
doubleword of the word, and with clr clears OVER of the word. -/
def Sys2Proof.Claims.TestsOfBarriers : Prop :=
  ∀ (f : Fields) (cur : Cur) (s : State), s.wf →
    let e := envOf s cur f
    (∀ l, Executes (.tryw f) f cur s → e.atWord l true → f.ws = false →
      ∃ t, exec (.tryw f) s = .next t ∧ GoesOn cur s t ∧ SameBytes s t ∧
        WroteW e s t (if (s.barWordAt l).pseq % 2 ≠ e.parity then 1 else 0)) ∧
    (Executes (.trywC f) f cur s → f.ws = false →
      ∃ t, exec (.trywC f) s = .next t ∧ GoesOn cur s t ∧ SameBytes s t ∧
        WroteW e s t (if e.ctrGoal ≤ e.a e.ctr then 1 else 0)) ∧
    (∀ l, Executes (.phase f) f cur s → e.atWord l true → f.ws = false →
      ∃ t, exec (.phase f) s = .next t ∧ GoesOn cur s t ∧ SameBytesBut s t l 8 ∧
        WroteW e s t (wd (if f.mod.getLsbD 0 then (s.barWordAt l).hi else (s.barWordAt l).lo)) ∧
        t.barWordAt l = if f.mod.getLsbD 1 then { s.barWordAt l with ovr := false } else s.barWordAt l)

/-- R211, R212: an entry at the head of what its path's queue lets go leaves it. A scratchpad access of one element is served
at its bank: a read lands, a store changes its bytes alone, an atomic does both; the parts of an access of device or host
memory go to their port queues, or to the synchronisation engine that serves their line; a fence is gone. An entry that
older ones bar stays; a read that an older store of its queue covers takes the stored value. The parts that helpers have of one atomic
on one line leave together. -/
def Sys2Proof.Claims.DrainServesAnEntry : Prop :=
  ∀ (s : State) (x : Entry), s.wf → s.ctl.entries.find? (fun o => o.id == x.id && o.stage == .pend) = some x →
    ∃ t, exec (.drain x.id) s = .next t ∧
      (s.ctl.forwards x = none → (∃ o ∈ s.ctl.runOf x, s.ctl.barred o = true) → SameStores s t ∧ x ∈ t.ctl.entries) ∧
      (s.ctl.forwards x = none → (∀ o ∈ s.ctl.runOf x, s.ctl.barred o = false) →
        (x.isFence = true → SameStores s t ∧ x ∉ t.ctl.entries) ∧
        (∀ y, x.els = [y] → s.ctl.runOf x = [x] → x.scratch = true → s.ctl.pinnedAt x = false →
          (x.act = .read → SameBytes s t ∧ x ∉ t.ctl.entries ∧ Landed s t x.team y.sink (wd (s.load y.loc y.n)) ∧
            t.a = s.a ∧ t.csr = s.csr) ∧
          (x.act = .write → SameRegs s t ∧ x ∉ t.ctl.entries ∧ SameBytesBut s t y.loc y.n ∧
            t.load y.loc y.n = y.data.toNat % 256 ^ y.n) ∧
          (∀ op ty, x.act = .atom op ty → x.flags = false →
            let r := atomStep op ty (s.load y.loc y.n) y.data.toNat y.data2.toNat
            x ∉ t.ctl.entries ∧ SameBytesBut s t y.loc (max y.n 16) ∧ Landed s t x.team y.sink (wd r.2) ∧
              t.a = s.a ∧ t.csr = s.csr ∧
            (op ≠ .push → op ≠ .pop → t.load y.loc y.n = r.1 % 256 ^ y.n))) ∧
        ((∀ o ∈ s.ctl.runOf x, o.scratch = false) → (x.reads = true ∨ x.act = .write ∨ x.act = .join) → SameStores s t ∧
          ∀ o ∈ s.ctl.runOf x, o ∉ t.ctl.entries ∧
            ∀ p ∈ o.parts, ∃ q ∈ t.ctl.entries, q.els = p ∧ q.act = o.act ∧ q.ins = o.ins ∧ q.cluster = o.cluster ∧
              q.stage = if q.line.sp = .dm ∧ (o.isAtom = true ∨ o.act = .join ∨ s.ctl.lineHeld q = true) then .sync else .port)) ∧
      (∀ v y, s.ctl.forwards x = some [(y, v)] →
        SameBytes s t ∧ x ∉ t.ctl.entries ∧ t.a = s.a ∧ t.csr = s.csr ∧
        (y.loc.sp = .tm ∨ y.loc.sp = .dp → Landed s t x.team y.sink (wd v)) ∧
        (y.loc.sp ≠ .tm → y.loc.sp ≠ .dp → SameRegs s t ∧
          ∃ r ∈ t.ctl.replies, x.replyFor (if x.cnt.isSome then .gather else .load) y v none r))

/-- R139, R147, R148: arrivals that reach a bound word are counted as R139's loop counts them, over-arrival carried into the next
phases; OVER goes to the word and to the charged party; where a phase has ended every wait on the word is released, and no
other byte and no other register changes. -/
def Sys2Proof.Claims.ArrivalsEndAPhase : Prop :=
  ∀ (s : State) (x : Entry) (da db : Nat) (y : Elem) (w1 : BarWord) (n : Nat) (ov : Prop), s.wf →
    s.ctl.entries.find? (fun o => o.id == x.id && o.stage == .pend) = some x →
    x.act = .bar (.count da db) → x.els = [y] → s.ctl.barred x = false → (s.ctl.barAt y.loc).isSome = true →
    let w := s.barWordAt y.loc
    (w.expa ≠ 0 ∨ w.expb ≠ 0) → w.Counts da db w1 n ov →
    ∃ t, exec (.drain x.id) s = .next t ∧ x ∉ t.ctl.entries ∧ SameBytesBut s t y.loc 16 ∧ t.barWordAt y.loc = w1 ∧
      OverCharged s t x.team x.home ov ∧ (n ≠ 0 → WaitersReleased t y.loc)

/-- R228, R229: `fence` posts its order and scope, `fencer` those and its range (one of no bytes is nothing), `trig` a release
at device scope. No byte and no register changes. -/
def Sys2Proof.Claims.FencesArePosted : Prop :=
  ∀ (f : Fields) (cur : Cur) (s : State),
    let e := envOf s cur f
    let acq := mfld f 5 4 % 2 == 1
    let rel := decide (2 ≤ mfld f 5 4)
    let lo := wrapSp (scfld f 1 0) (e.usrc f.sa.toNat).toNat
    let n := (e.usrc f.sb.toNat).toNat
    (Executes (.fence f) f cur s → ∃ t, exec (.fence f) s = .next t ∧
      Posts (.fence f) e s t (fun x => x.act = .fence acq rel none ∧ x.scope = mfld f 3 1) []) ∧
    (Executes (.fencer f) f cur s → n = 0 → ∃ t, exec (.fencer f) s = .next t ∧ OnlyGoesOn (.fencer f) e s t) ∧
    (Executes (.fencer f) f cur s → n ≠ 0 → lo + n ≤ (if scfld f 1 0 = 0 then 2 ^ 64 else 2 ^ 32) →
      ∃ t, exec (.fencer f) s = .next t ∧
        Posts (.fencer f) e s t (fun x => x.scope = mfld f 3 1 ∧ x.act = .fence acq rel (some {
          space := (fenceAddr e.t (scfld f 1 0) lo).1, lo := (fenceAddr e.t (scfld f 1 0) lo).2, len := n })) []) ∧
    (Executes (.trig f) f cur s → ∃ t, exec (.trig f) s = .next t ∧
      Posts (.trig f) e s t (fun x => x.act = .fin .trig ∧ x.rel = true ∧ x.scope = 4) [])

/-- R229, R361: when what `trig` has posted leaves, its party counts as triggered; at the first moment that every party of the team
counts so, the team signals, and its decrement is on its way to the join counter of its record, if that has one. -/
def Sys2Proof.Claims.TriggersCount : Prop :=
  ∀ (s : State) (x : Entry), s.ctl.entries.find? (fun o => o.id == x.id && o.stage == .pend) = some x →
    x.act = .fin .trig → s.ctl.barred x = false → s.ctl.hasTeam x.team = true → x.who = whoOf x.home →
    (s.ctl.team x.team).hasParty x.home = true →
    let tm := (s.ctl.team x.team).updParty x.who (fun g => { g with triggered := true })
    ∃ t, exec (.drain x.id) s = .next t ∧ SameStores s t ∧ x ∉ t.ctl.entries ∧
      ((t.ctl.team x.team).party x.who).triggered = true ∧
      (tm.signalled = false → (∀ g ∈ tm.parties, s.ctl.countsTriggered tm g = true) →
        ((∃ g ∈ tm.parties, g.retired = false) ∨ ∀ g ∈ tm.parties, g.triggered = true) →
        (t.ctl.team x.team).signalled = true ∧
          ∀ pa, (s.ctl.recOf tm).bind (·.join) = some pa →
            ∃ q ∈ t.ctl.entries, q.act = .join ∧ q.stage = .sync ∧ q.els.map (·.loc) = [dmLoc pa]) ∧
      ((∃ g ∈ tm.parties, g.triggered = false ∧ g.retired = false) → (t.ctl.team x.team).signalled = tm.signalled)

/-- R217, R286, R314, R370: what an instruction has posted behind its release follows when that leaves: `tbset` makes the buffer that
the team's record has reserved FULL, `mfence.op` marks the moment from which the party's operands are read as they stand, and
a releasing send is on its way. -/
def Sys2Proof.Claims.PostedEffectsFollow : Prop :=
  ∀ (s : State) (x : Entry) (fin : Fin), s.ctl.entries.find? (fun o => o.id == x.id && o.stage == .pend) = some x →
    x.act = .fin fin → s.ctl.barred x = false → s.ctl.finReady x fin = true → s.ctl.hasTeam x.team = true →
    let tm := s.ctl.team x.team
    (∀ i r, fin = .tbset i → s.ctl.recOf tm = some r → (s.ctl.ctx tm.rctx).reservedBy i r.id = true →
      (∀ c ∈ s.ctl.ctxs, ∀ q ∈ c.recs, q.eligible = true) →
      ∃ t, exec (.drain x.id) s = .next t ∧ SameStores s t ∧ x ∉ t.ctl.entries ∧ (t.ctl.ctx tm.rctx).tb i = 1) ∧
    (fin = .dropOperands → x.who = whoOf x.home → tm.hasParty x.home = true →
      ∃ t, exec (.drain x.id) s = .next t ∧ SameStores s t ∧ x ∉ t.ctl.entries ∧
        ((t.ctl.team x.team).party x.who).opFence = s.ctl.nextId + 1) ∧
    (∀ m, fin = .send m → ∃ t, exec (.drain x.id) s = .next t ∧ SameStores s t ∧ x ∉ t.ctl.entries ∧
      ∀ y ∈ s.ctl.msgs, y.id = m → { y with sent := true } ∈ t.ctl.msgs)

/-- R195, R199, R200, R203: an atomic of one lane is served at its synchronisation engine in one step: the location takes the
operation's result, no other byte changes, and the lane is answered with what the location held. -/
def Sys2Proof.Claims.AtomicsReadModifyWrite : Prop :=
  ∀ (s s1 : State) (x : Entry) (y : Elem) (op : AtOp) (ty : Nat), s.wf →
    s.ctl.entries.find? (fun o => o.id == x.id && o.stage == .sync) = some x → x.els = [y] → x.act = .atom op ty →
    s.ctl.runOf x = [x] → s.ctl.lineWaits x = false → s.ctl.partialWrite x = false →
    s.ctl.stalled (x.cluster / 16) (syncDie y.loc.key) = false → Unsealed s x.kslot y.loc.key true s1 →
    let r := atomStep op ty (s.load y.loc y.n) y.data.toNat y.data2.toNat
    ∃ t, exec (.atomicServe x.id) s = .next t ∧ SameRegs s t ∧ x ∉ t.ctl.entries ∧
      SameBytesBut s t y.loc (if op = .push ∨ op = .pop then 16 else y.n) ∧
      (if op = .push ∨ op = .pop then t.load y.loc 16 = r.1 % 256 ^ 16 else t.load y.loc y.n = r.1 % 256 ^ y.n) ∧
      (x.party = 1 → ∃ q ∈ t.ctl.replies, x.replyFor .atomic y r.2 none q)

/-- R361, R369: at the counter's engine a `cjoin` adds its signed operand to CNT where the sum is a count, and is answered with
the sum, or with all ones and CNT unchanged; the signal of a team takes one off CNT. -/
def Sys2Proof.Claims.JoinCountersCount : Prop :=
  ∀ (s s1 : State) (x : Entry) (y : Elem), s.wf →
    s.ctl.entries.find? (fun o => o.id == x.id && o.stage == .sync) = some x → x.els = [y] → y.loc.sp = .dm →
    (x.act = .cjoin ∨ x.act = .join) → s.ctl.runOf x = [x] → s.ctl.lineWaits x = false → s.ctl.partialWrite x = false →
    s.ctl.stalled (x.cluster / 16) (syncDie y.loc.key) = false → Unsealed s x.kslot y.loc.key true s1 →
    let sum : Int := (s.cnt y.loc.key : Int) + sextNat 32 y.data.toNat
    ∃ t, exec (.atomicServe x.id) s = .next t ∧ SameRegs s t ∧ SameBytesBut s t y.loc 4 ∧
      (x.act = .cjoin → 0 ≤ sum → sum < 2 ^ 31 → x ∉ t.ctl.entries ∧ (t.cnt y.loc.key : Int) = sum ∧
        ∃ q ∈ t.ctl.replies, x.replyFor .atomic y sum.toNat none q) ∧
      (x.act = .cjoin → (sum < 0 ∨ 2 ^ 31 ≤ sum) → x ∉ t.ctl.entries ∧ t.cnt y.loc.key = s.cnt y.loc.key ∧
        ∃ q ∈ t.ctl.replies, x.replyFor .atomic y (2 ^ 64 - 1) none q) ∧
      (x.act = .join → (∀ q ∈ t.ctl.entries, q.id = x.id → s.ctl.nextId ≤ q.id) ∧ t.cnt y.loc.key = s.cnt y.loc.key - 1)

/-- R177 to R182, R185 to R187: `cpy`, `cpz`, `cpfill` and `cpx` of an allowed size, whose ranges lie inside their spaces and whose completion object is
named right, complete: the job is handed to the path's engine, and no byte changes yet. A range with a byte of the selvage is a
recorded hit of the lowest executing lane. -/
def Sys2Proof.Claims.CopiesAreSubmitted : Prop :=
  ∀ (i : Instr) (f : Fields) (cur : Cur) (s : State) (r : CopyRule) (compl : Compl), Executes i f cur s →
    let e := envOf s cur f
    copyRule e i = some r → e.fixedOut r.rs = none → e.completion = .ok compl →
    ∃ t, exec i s = .next t ∧ GoesOn cur s t ∧ SameStores s t ∧
      e.submitted t r.kind r.dsp r.dst r.ssp r.src r.size compl ∧
      ((∃ x ∈ r.rs, (rangeSelv s.ctl e.t x.1 x.2.1 x.2.2).isSome = true) →
        ∃ h ∈ (t.groupOf cur.p).hits, h.lane = e.chargeLane ∧ h.copy = true)

/-- R183, R184, R188: a `spat` whose record has been read and is well formed submits its gather or scatter; a malformed record,
once there is room for its job, ends it at once: ENGINE 0x10 is on the record of the lowest executing lane. -/
def Sys2Proof.Claims.PatternsAreSubmitted : Prop :=
  ∀ (f : Fields) (cur : Cur) (s s1 : State) (w : List Word), Executes (.spat f) f cur s →
    let e := envOf s cur f
    let sp := mfld f 3 2
    let rc := e.addrOf sp f.sb.toNat
    let a := e.addrOf (mfld f 5 4) f.sa.toNat
    let sc := f.mod.getLsbD 0
    Runs (e.spatRecord sp rc) s (.ok w) s1 →
    (spatOf sc w = none → s.ctl.copyRoom e.t (if s.ctl.lessBusy e.t.die (e.t.core / 4) then 1 else 0) = true →
      ∃ t, exec (.spat f) s = .next t ∧ GoesOn cur s t ∧ SameStores s1 t ∧ t.ctl.jobs = s1.ctl.jobs ∧
        ((s1.ctl.team e.uid).hasParty e.home = true → ((s1.ctl.team e.uid).party (whoOf e.home)).retired = false →
          Recorded s1 t e.uid e.home e.chargeLane 0x1C 0x10)) ∧
    (∀ r compl, spatOf sc w = some r →
      e.fixedOut ((if sp = 0 then [] else [(sp, rc, 64)]) ++ [(mfld f 5 4, a, r.es * r.count)]) = none →
      e.completion = .ok compl →
      ∃ t, exec (.spat f) s = .next t ∧ GoesOn cur s t ∧ SameStores s1 t ∧
        (if sc then e.submitted t (.spat true r) r.space r.range.1 (mfld f 5 4) a (r.es * r.count) compl
         else e.submitted t (.spat false r) (mfld f 5 4) a r.space r.range.1 (r.es * r.count) compl))

/-- R173, R177, R216: the copy engine that R177 names, with a free entry for the job, accepts it once the older accesses that it
must come after have reached their cluster, and reads its operands as they then stand; a job of no bytes ends at once and counts its
counter. -/
def Sys2Proof.Claims.EnginesAcceptJobs : Prop :=
  ∀ (s : State) (j : Job), s.wf → s.ctl.theJob j.id j → j.accepted = false → j.isCopy = true →
    let x := shapeOf j.f (j.rd s) j.kind
    let early := s.olderTouching j (x.fixed ++ x.more) x.sps
    let en := if (match j.kind with
      | .cpz _ => true
      | _ => s.ctl.lessBusy j.die j.cluster) then 1 else 0
    (∀ o ∈ s.ctl.entries, o.ins ∈ early → o.reached (j.die * 16 + j.cluster) 2 = true) →
    s.ctl.copyRoom (s.ctl.team j.team) en = true →
    ∃ t, exec (.copyAccept j.id) s = .next t ∧ SameBytes s t ∧
      (j.err = none → x.size ≠ j.done → SameRegs s t ∧ ∃ seq, j.accept s x en seq early ∈ t.ctl.jobs) ∧
      (∀ key, j.err = none → j.kind = .cpy → x.size = j.done → j.compl = .counter key →
        (∀ q ∈ t.ctl.jobs, q.id ≠ j.id) ∧ t.a.get key = s.a.get key + 1 ∧ (∀ k, k ≠ key → t.a.get k = s.a.get k) ∧
        t.v = s.v ∧ t.vi = s.vi ∧ t.w = s.w ∧ t.k = s.k ∧ t.csr = s.csr)

/-- R178, R179, R182, R188, R216: one source byte of an accepted copy is read where it lies in a scratchpad, or its read enters
the queues of device memory; one byte whose value is known lands where it goes, and changes that byte alone; the last one
ends the job. A byte of a copy that names a barrier word is counted there as R139's loop counts it. A job in error ends with its
fault recorded. -/
def Sys2Proof.Claims.CopyBytesMove : Prop :=
  ∀ (s s1 : State) (j : Job) (i sp a : Nat) (l : Loc), s.wf → s.ctl.theJob j.id j → j.accepted = true → s1.ctl.theJob j.id j →
    (j.err = none → j.kind = .cpy → i < j.size → anyOverlap i 1 (j.got.map (fun g => (g.1, g.2.length))) = false →
      s.ctl.reading j.id i 1 = false → j.srcAt i = some (sp, a) → Runs (jobReach j sp a false false) s (.at_ l) s1 →
      j.done ≠ j.size →
      ∃ t, exec (.copyByteLand j.id (.read i 1)) s = .next t ∧ SameStores s1 t ∧
        (l.sp = .tm ∨ l.sp = .dp → ({ j with got := j.got ++ [(i, [(s1.mem l.sp).get l.key])] } : Job) ∈ t.ctl.jobs) ∧
        (l.sp ≠ .tm → l.sp ≠ .dp → ∃ q ∈ t.ctl.entries, q.act = .jread j.id ∧ q.cluster = j.die * 16 + j.cluster ∧
          q.kslot = j.kslot ∧ q.els = [{ lane := i, loc := l, n := 1, vs := 0, va := a, data := 0, data2 := 0, sink := .none }] ∧
          (q.stage = .port ∨ q.stage = .sync))) ∧
    (∀ b : Byte, j.err = none → j.kind = .cpy → i < j.size → anyOverlap i 1 j.landed = false → j.gotByte i = some b →
      j.dstAt i = some (sp, a) → j.compl = .none →
      Runs (jobReach j sp a true false) s (.at_ l) s1 →
      ∃ t, exec (.copyByteLand j.id (.land i 1)) s = .next t ∧ SameRegs s t ∧ SameBytesBut s1 t l 1 ∧
        (t.mem l.sp).get l.key = b ∧
        (j.done + 1 = j.size → ∀ q ∈ t.ctl.jobs, q.id ≠ j.id) ∧
        (j.done + 1 ≠ j.size → ({ j with landed := j.landed ++ [(i, 1)] } : Job) ∈ t.ctl.jobs)) ∧
    (∀ (b : Byte) (w : Loc) (off : Nat) (w1 : BarWord) (n : Nat) (ov : Prop), j.err = none → j.kind = .cpy → i < j.size →
      anyOverlap i 1 j.landed = false → j.gotByte i = some b → j.dstAt i = some (sp, a) → j.compl = .barrier w off →
      Runs (jobReach j sp a true false) s (.at_ l) s1 → j.lost = false → (s1.ctl.barAt w).isSome = true →
      w.touches 16 l 1 = false → ((s1.barWordAt w).expa ≠ 0 ∨ (s1.barWordAt w).expb ≠ 0) → (s1.barWordAt w).Counts 0 1 w1 n ov →
      ∃ t, exec (.copyByteLand j.id (.land i 1)) s = .next t ∧ (t.mem l.sp).get l.key = b ∧ t.barWordAt w = w1 ∧
        (∀ p key, ¬(p = l.sp ∧ key = l.key) → ¬(p = w.sp ∧ w.key ≤ key ∧ key < w.key + 16) → (t.mem p).get key = (s1.mem p).get key) ∧
        OverCharged s1 t j.team j.who.idx ov ∧ (n ≠ 0 → WaitersReleased t w)) ∧
    (∀ c b x, j.err = some (c, b, x) →
      ∃ t, exec (.jobError j.id) s = .next t ∧ SameStores s t ∧ (∀ q ∈ t.ctl.jobs, q.id ≠ j.id) ∧
        (s.ctl.hasTeam j.team = true → (s.ctl.team j.team).hasParty j.who.idx = true →
          ((s.ctl.team j.team).party (whoOf j.who.idx)).retired = false → Recorded s t j.team j.who.idx j.lane c b))

/-- R161, R162, R170, R171: `hint` gives every tier page of its range its priority and its step, relative or absolute, and
counts the pages, those that its walks find (s1 is the state once they have been walked); `step` advances the context's step
counter; no other page and no byte changes. That the page's N is measured by the hinting context's counter is the model's choice
(log 19). -/
def Sys2Proof.Claims.HintsPlacePages : Prop :=
  ∀ (f : Fields) (cur : Cur) (s : State), s.wf →
    let e := envOf s cur f
    let c := (e.usrc f.sc.toNat).toNat
    let st := (s.ctl.ctx e.t.rctx).stepc
    (∀ ps s1, Executes (.hint f) f cur s → (e.usrc f.sa.toNat).toNat + (e.usrc f.sb.toNat).toNat ≤ 2 ^ 64 →
      Runs (tierPages e.t.rctx (e.usrc f.sa.toNat).toNat (e.usrc f.sb.toNat).toNat) s (.ok ps) s1 →
      ∃ t, exec (.hint f) s = .next t ∧ GoesOn cur s t ∧ SameBytes s t ∧ WroteW e s t (wd ps.length) ∧
        ∀ pg, t.ctl.page pg = if pg ∈ ps then
            { s1.ctl.page pg with rctx := some e.t.rctx, pri := mfld f 2 0, n := if f.mod.getLsbD 3 then (st + c) % 2 ^ 32 else c % 2 ^ 32 }
          else s1.ctl.page pg) ∧
    (Executes (.step f) f cur s → (∃ x ∈ s.ctl.ctxs, x.rctx = e.t.rctx) →
      let n := (st + (e.usrc f.sa.toNat).toNat % 2 ^ 32) % 2 ^ 32
      ∃ t, exec (.step f) s = .next t ∧ GoesOn cur s t ∧ SameBytes s t ∧ WroteW e s t (wd n) ∧
        (t.ctl.ctx e.t.rctx).stepc = n)

/-- R163, R171, R265: `evict` asks for the demotion of every unpinned page of its range that lies in the fast tier or holds a
FULL procedural block, before every touch-driven move that has not started; `pin` pins every page of its range that is not
pinned, within the quotas, and asks for those outside the fast tier; past a quota it pins none and writes all ones; `pin.u`
takes the context's own pins off. Each counts its pages where the queues have room; s1 is the state once they have been walked. That
the N of a page that `pin` takes is measured by the pinning context's counter, and that `evict` counts and drops FULL blocks in
either tier, are the model's choices (log 19, log 26). -/
def Sys2Proof.Claims.EvictAndPinAskForMoves : Prop :=
  ∀ (f : Fields) (cur : Cur) (s s1 : State) (ps : List Nat), s.wf →
    let e := envOf s cur f
    let c := s1.ctl
    Runs (tierPages e.t.rctx (e.usrc f.sa.toNat).toNat (e.usrc f.sb.toNat).toNat) s (.ok ps) s1 →
    let ask (up : Bool) (pg : Nat) : TierMove := { stk := pageStk pg, pg := pg, promote := up, asked := true, running := false, victim := none }
    let room (l : List Nat) : Prop := ∀ pg ∈ l, c.movesOf (pageStk pg) + (l.filter (fun q => pageStk q == pageStk pg)).length ≤ 64
    (e.usrc f.sa.toNat).toNat + (e.usrc f.sb.toNat).toNat ≤ 2 ^ 64 → e.p.prog = none →
    (let out := ps.filter (fun pg => (c.page pg).pin.isNone &&
        ((c.page pg).fast || (s1.blocksOn pg).any (fun b => s1.fillState b.1 b.2.1 b.2.2 == 2)))
     Executes (.evict f) f cur s → room out →
     ∃ t, exec (.evict f) s = .next t ∧ GoesOn cur s t ∧ SameBytes s t ∧ WroteW e s t (wd out.length) ∧ t.ctl.pages = c.pages ∧
       t.ctl.moves.Perm (c.moves ++ out.map (ask false)) ∧
       (out ≠ [] → t.ctl.moves =
         t.ctl.moves.filter (fun m => m.running || m.asked) ++ t.ctl.moves.filter (fun m => !(m.running || m.asked)))) ∧
    (let mine := ps.filter (fun pg => (c.page pg).pin == some e.t.rctx)
     Executes (.pin f) f cur s → f.mod.getLsbD 0 = true →
     ∃ t, exec (.pin f) s = .next t ∧ GoesOn cur s t ∧ SameBytes s t ∧ WroteW e s t (wd mine.length) ∧ t.ctl.moves = c.moves ∧
       ∀ pg, t.ctl.page pg = if pg ∈ mine then { c.page pg with pin := none } else c.page pg) ∧
    (let new := ps.filter (fun pg => (c.page pg).pin.isNone)
     let cap := ps.filter (fun pg => !(c.page pg).fast)
     let within := c.pinnedBy e.t.rctx + new.length ≤ (c.ctx e.t.rctx).pinQuota ∧
       ∀ pg ∈ new, c.pinnedOn (pageStk pg) + (new.filter (fun q => pageStk q == pageStk pg)).length ≤ 48 * 2 ^ 14
     Executes (.pin f) f cur s → f.mod.getLsbD 0 = false →
     (within → room cap →
       ∃ t, exec (.pin f) s = .next t ∧ GoesOn cur s t ∧ SameBytes s t ∧ WroteW e s t (wd new.length) ∧
         (∀ pg, t.ctl.page pg = if pg ∈ new then { c.page pg with pin := some e.t.rctx, rctx := some e.t.rctx } else c.page pg) ∧
         t.ctl.moves = c.moves ++ cap.map (ask true)) ∧
     (¬within → ∃ t, exec (.pin f) s = .next t ∧ GoesOn cur s t ∧ SameBytes s t ∧ WroteW e s t allOnes ∧
       t.ctl.pages = c.pages ∧ t.ctl.moves = c.moves))

/-- R162 to R165, R265: the move at the head of a stack's queue starts when none runs: it runs, or is dropped when nothing may leave
for it, or waits with the blocks it must drop; where it only empties a page's FULL blocks that is its end. The tier map
changes only when a move ends: its page then lies where it was sent, and the page it changed places with in the other tier. That an
`evict` has its page change places with one of the capacity tier by a free choice is the model's (log 18). -/
def Sys2Proof.Claims.TierMovesRun : Prop :=
  ∀ (s : State) (stk : Nat) (m : TierMove),
    ((∀ x ∈ s.ctl.moves, x.stk = stk → x.running = false) → s.ctl.moves.find? (fun x => x.stk == stk) = some m →
      ∃ t, exec (.tierMoveStart stk) s = .next t ∧ SameRegs s t ∧ t.ctl.pages = s.ctl.pages ∧
        (∀ d, s.decideMove m (Config.freeBits s.ctl.free).toNat = .runs d → d ∈ t.ctl.moves ∧ d.running = true) ∧
        (s.decideMove m (Config.freeBits s.ctl.free).toNat = .wait → SameStores s t ∧ t.ctl.moves = s.ctl.moves) ∧
        (s.decideMove m (Config.freeBits s.ctl.free).toNat = .empties →
          ∃ l, t.ctl.moves = s.ctl.moves.erase m ++ l) ∧
        (s.decideMove m (Config.freeBits s.ctl.free).toNat = .drop → SameStores s t ∧ t.ctl.moves = s.ctl.moves.erase m)) ∧
    (s.ctl.moves.find? (fun x => x.stk == stk && x.running) = some m →
      ∃ t, exec (.tierMoveComplete stk) s = .next t ∧ SameStores s t ∧ t.ctl.moves = s.ctl.moves.erase m ∧
        (m.victim ≠ some m.pg → (t.ctl.page m.pg).fast = m.promote) ∧
        (∀ v, m.victim = some v → (t.ctl.page v).fast = !m.promote) ∧
        ∀ pg, pg ≠ m.pg → m.victim ≠ some pg → t.ctl.page pg = s.ctl.page pg)

/-- R168, R246 to R251: a request on its way fills its tile under its key slot when the cache has a line free, the tile's counters pass
and the tile is virgin, or was sealed under that slot and passes its tag; a tile leaves the cache, and a dirty one is
sealed again under its slot with the next minor number, and its tag and ciphertext under the new counters; at 127 its group is
re-sealed first, and where its MAJOR, or that of a node above it, is exhausted it is quarantined and reported; where its counters
fail the write-back is discarded and reported. No byte changes. That the root's count rises with each write-back is the model's
reading, and so is how the host's unsealing of pages enters (log 119, log 142). -/
def Sys2Proof.Claims.TilesAreFilledAndWrittenBack : Prop :=
  ∀ (s : State) (tile slot : Nat) (x : Cached),
    let c := s.ctl
    let g := groupOfTile tile
    (c.wantsTile tile slot = true → c.resealing (tile * 1024) = false → c.unsealedAt (tile * 1024) = false →
      c.recordPage (tile * 1024 / 65536) = false → (c.tile tile).quarantined = false → (∀ y ∈ c.cached, y.tile ≠ tile) →
      c.cacheFull tile = false → c.countersPass g = true →
      ((c.tile tile).minor = 0 ∨ ((c.tile tile).slot = slot ∧ c.tagPasses (c.tile tile) = true)) →
      ∃ t, exec (.tileFill tile slot) s = .next t ∧ SameStores s t ∧
        t.ctl.cached = { tile := tile, slot := slot, dirty := false } :: c.cached ∧ t.ctl.tiles = c.tiles ∧ t.ctl.groups = c.groups) ∧
    (c.cached.find? (fun y => y.tile == tile) = some x → (∀ y ∈ c.cached, y.tile = tile → y = x) → c.resealing (tile * 1024) = false →
      ∃ t, exec (.tileWriteback tile) s = .next t ∧ SameStores s t ∧
        (x.dirty = true → c.unsealedAt (tile * 1024) = false →
          (c.countersPass g = true → c.treeFull g = false → (c.tile tile).minor ≠ 127 → (c.tile tile).quarantined = false →
            (∀ y ∈ t.ctl.cached, y.tile ≠ tile) ∧ (t.ctl.tile tile).minor = (c.tile tile).minor + 1 ∧ (t.ctl.tile tile).slot = x.slot ∧
            (t.ctl.sealGroup g).major = (c.sealGroup g).major ∧ t.ctl.rootCount (g / 4096) = c.rootCount (g / 4096) + 1 ∧
            ∀ k, c.keyOf x.slot = some k →
              let iv := ivOf tile ((c.tile tile).minor + 1) (c.sealGroup g).major
              (t.ctl.tile tile).cipher = Config.gcmCipher k iv (s.loadBytes (dmLoc (tile * 1024)) 1024) ∧
                (t.ctl.tile tile).tag = Config.gcmTag k iv (t.ctl.tile tile).cipher) ∧
          (c.countersPass g = true → c.treeFull g = false → (c.tile tile).minor = 127 → (c.sealGroup g).major ≠ 0xFFFFFFFFFFFFFFFF →
            (t.ctl.sealGroup g).resealing = some (tile, x.slot) ∧ t.ctl.cached = c.cached) ∧
          (c.countersPass g = true → ((c.tile tile).minor = 127 ∧ (c.sealGroup g).major = 0xFFFFFFFFFFFFFFFF ∨ c.treeFull g = true) →
            (∀ y ∈ t.ctl.cached, y.tile ≠ tile) ∧ (t.ctl.tile tile).quarantined = true ∧ Report.integrity tile ∈ t.ctl.host.reports) ∧
          (c.countersPass g = false → (∀ y ∈ t.ctl.cached, y.tile ≠ tile) ∧ t.ctl.tiles = c.tiles ∧
            Report.integrity tile ∈ t.ctl.host.reports)) ∧
        (x.dirty = false → (∀ y ∈ t.ctl.cached, y.tile = tile → y.dirty = true) ∧ t.ctl.tiles = c.tiles))

/-- R166, R250, R252: the end of a re-seal raises the group's major number and gives its live tiles minor 1, the tile that caused
it minor 2; a scrub pass changes no value, and quarantines and reports what fails its tag or its counters. -/
def Sys2Proof.Claims.ResealAndScrub : Prop :=
  ∀ (s : State) (group tile slot : Nat),
    ((s.ctl.sealGroup group).resealing = some (tile, slot) → s.ctl.treeFull group = false → (s.ctl.tiles.map (·.tile)).Nodup →
      ∃ t, exec (.resealComplete group) s = .next t ∧ SameStores s t ∧
        (t.ctl.sealGroup group).major = (s.ctl.sealGroup group).major + 1 ∧ (t.ctl.sealGroup group).resealing = none ∧
        (t.ctl.tile tile).minor = 2 ∧ (t.ctl.tile tile).slot = slot ∧
        ∀ y, y ≠ tile → groupOfTile y = group → (s.ctl.tile y).minor ≠ 0 → (t.ctl.tile y).minor = 1) ∧
    ∃ t, exec (.patrolScrub group) s = .next t ∧ SameStores s t ∧
      ∀ x ∈ s.ctl.tiles, groupOfTile x.tile = group → x.quarantined = false → s.ctl.unsealedAt (x.tile * 1024) = false →
        (s.ctl.countersPass group = false ∨ s.ctl.tagPasses x = false) →
        (t.ctl.tile x.tile).quarantined = true ∧ Report.integrity x.tile ∈ t.ctl.host.reports

/-- R158, R232, R236, R237: an access through a cached leaf of device memory goes to the page's base plus its offset when the leaf
allows it, without any change of the machine; an offset beyond the stack gives PROT 0x30, a leaf that lacks a right
that right's subcause, the lowest first. -/
def Sys2Proof.Claims.CachedLeavesTranslate : Prop :=
  ∀ (s : State) (eng : EngineId) (rctx va : Nat) (user : Bool) (n : Need) (x : Tlb),
    s.ctl.migrating rctx va = false → va < 2 ^ 48 →
    s.ctl.tlbs.find? (fun t => t.eng == eng && t.rctx == rctx && covers t.va (2 ^ t.log) va 1) = some x →
    x.leaf.getLsbD 63 = false → x.leaf.getLsbD 62 = false → x.leaf.getLsbD 8 = true → (n.wr = true → x.leaf.getLsbD 9 = true) →
    let r := translate eng rctx va user n { st := s, log := [] }
    let pa := leafBase x.leaf.toNat x.log + va % 2 ^ x.log
    r.2.st = s ∧
    r.1 = (if offOk pa = false then .fault 10 0x30
      else if n.rd = true ∧ x.leaf.getLsbD 4 = false then .fault 10 0x38
      else if n.wr = true ∧ x.leaf.getLsbD 5 = false then .fault 10 0x39
      else if n.x = true ∧ x.leaf.getLsbD 6 = false then .fault 10 0x3A
      else if user = true ∧ x.leaf.getLsbD 3 = false then .fault 10 0x3B
      else .ok (dmLoc pa))

/-- R232, R235: an engine that has an access to make walks for it. When every table read passes its seal, and the leaf it finds is of
device memory and allows the access, the walk sets the leaf's A bit, and D for a write, in its entry, and the engine caches
the leaf; no register and no other byte changes. -/
def Sys2Proof.Claims.WalksCacheTheLeaf : Prop :=
  ∀ (s s1 s2 : State) (eng : EngineId) (rctx : Nat) (va : Word) (write user : Bool) (n : Need) (e at_ lg : Nat), s.wf →
    s.ctl.migrating rctx va.toNat = false → s.walkFor eng rctx va.toNat write = some (user, n) →
    Runs (sealedWalk rctx va.toNat) s (some (.leaf e at_ lg)) s1 → entBit e 63 = false → entBit e 62 = false →
    leafFault eng va.toNat e lg user n = none →
    let e1 := wd e ||| 0x100 ||| (if n.wr then 0x200 else 0)
    (e1 ≠ wd e → Unsealed s1 (s.ctl.ctx rctx).kslot at_ true s2) →
    ∃ t, exec (.pageWalk eng rctx va write) s = .next t ∧ SameRegs s t ∧ SameBytesBut s t (dmLoc at_) 8 ∧
      t.load (dmLoc at_) 8 = e1.toNat ∧
      { eng := eng, rctx := rctx, va := va.toNat / 2 ^ lg * 2 ^ lg, log := lg, leaf := e1 } ∈ t.ctl.tlbs

/-- R238: the host's answers: a page request that succeeds makes its translation be asked for again, a translation is cached and
its request ends, a page without access asks for the page, a refusal is kept for the access that meets it; an
invalidation drops what overlaps it once no access that used it has still to reach the host link. No register and no byte changes. -/
def Sys2Proof.Claims.HostTranslations : Prop :=
  ∀ (s : State) (rctx page : Nat),
    (∀ r ∈ s.ctl.ats, r.rctx = rctx → r.page = page → r.pri = true → r.failed = false →
      ∀ ok, ∃ t, exec (.priResponse rctx page ok) s = .next t ∧ SameStores s t ∧
        (if ok then { r with pri := false } else { r with failed := true }) ∈ t.ctl.ats) ∧
    (∀ r ∈ s.ctl.ats, r.rctx = rctx → r.page = page → r.pri = false → r.failed = false →
      (∀ addr lg wr, 12 ≤ lg → lg ≤ 30 →
        ∃ t, exec (.atsTranslationCompletion rctx page (.page addr lg wr)) s = .next t ∧ SameStores s t ∧
          { rctx := rctx, va := page * 4096 / 2 ^ lg * 2 ^ lg, log := lg, addr := addr / 2 ^ lg * 2 ^ lg, write := wr } ∈ t.ctl.atc ∧
          ∀ q ∈ t.ctl.ats, ¬(q.rctx = rctx ∧ q.page = page ∧ q.pri = false ∧ q.failed = false)) ∧
      ((s.ctl.ats.filter (fun r => r.pri && !r.failed)).length < 512 →
        ∃ t, exec (.atsTranslationCompletion rctx page .noAccess) s = .next t ∧ SameStores s t ∧
          { r with pri := true } ∈ t.ctl.ats) ∧
      ∃ t, exec (.atsTranslationCompletion rctx page .refused) s = .next t ∧ SameStores s t ∧
        { r with failed := true } ∈ t.ctl.ats) ∧
    (∀ va len, (∀ x ∈ s.ctl.entries, x.unserved = true → x.stage ≠ .link → (s.ctl.team x.team).rctx = rctx →
        ∀ y ∈ x.els, y.loc.sp = .hm → overlap y.va y.n va len = false) →
      exec (.atsInvalidation rctx va len) s = .next { s with ctl := { s.ctl with
        atc := s.ctl.atc.filter (fun t => !(t.rctx == rctx && overlap t.va (2 ^ t.log) va len)) } })

/-- R240: where the tables down to the page's level are there or have been made, and no entry of the page is valid, `pmap` takes
a free aligned run of the context's pool, writes its leaf with V, LEAF, RD and the rights of MOD into every entry of the
page, and returns the run's address. A page that is mapped already gives 1, a pool without memory for a table 0. -/
def Sys2Proof.Claims.PmapInstallsALeaf : Prop :=
  ∀ (f : Fields) (cur : Cur) (s s1 s2 : State) (w : MapWalk) (es : List Nat),
    Executes (.pmap f) f cur s → s.wf →
    let e := envOf s cur f
    let a := (e.usrc f.sa.toNat).toNat
    let sz := scfld f 5 0
    let va := a / 2 ^ sz * 2 ^ sz
    let lv := levelOf sz
    let cx := s.ctl.ctx e.t.rctx
    a < 2 ^ 48 → s.ctl.migrating e.t.rctx a = false →
    Runs (mapWalk e.t.die e.t.rctx cx.kslot va lv (3 - lv) cx.root) s w s1 →
    (w = .mapped → ∃ t, exec (.pmap f) s = .next t ∧ GoesOn cur s t ∧ SameBytes s1 t ∧ WroteW e s t 1) ∧
    (w = .empty → ∃ t, exec (.pmap f) s = .next t ∧ GoesOn cur s t ∧ SameBytes s1 t ∧ WroteW e s t 0) ∧
    (∀ tbl, w = .table tbl →
      let rs := replicas tbl va sz
      Runs (readEntries cx.kslot rs) s1 (.ok es) s2 →
      ((∃ v ∈ es, entBit v 0 = true) →
        ∃ t, exec (.pmap f) s = .next t ∧ GoesOn cur s t ∧ SameBytes s1 t ∧ WroteW e s t 1) ∧
      ((∀ v ∈ es, entBit v 0 = false) → (∀ r ∈ rs, s2.ctl.inCache cx.kslot r = true) →
        (∃ p ∈ poolFor e.t.die sz (s2.ctl.poolOf e.t.rctx), (runsIn sz p).2 ≠ 0) →
        ∃ (t : State) (q : Nat), exec (.pmap f) s = .next t ∧ GoesOn cur s t ∧ WroteW e s t (wd q) ∧ q % 2 ^ sz = 0 ∧
          (∃ p ∈ s2.ctl.poolOf e.t.rctx, covers p.1 p.2 q (2 ^ sz) = true) ∧
          (∀ r ∈ rs, t.load (dmLoc r) 8 = (q + 2 ^ (sz - 1) + 0x13 + (if f.mod.getLsbD 3 then 0x40 else 0) +
            (if f.mod.getLsbD 2 then 0x20 else 0) + (if f.mod.getLsbD 1 then 8 else 0)) % 2 ^ 64) ∧
          ∀ sp key, (∀ r ∈ rs, ¬(sp = .dm ∧ r ≤ key ∧ key < r + 8)) → (t.mem sp).get key = (s1.mem sp).get key))

/-- R241, R242: `tlbinv` drops every cached translation of the context that its range overlaps, and posts its shootdown and
behind it a full fence at `.dev`; `tprobe` writes the leaf that a walk of its address ends in, or zero. -/
def Sys2Proof.Claims.TlbinvAndTprobe : Prop :=
  ∀ (f : Fields) (cur : Cur) (s : State), s.wf →
    let e := envOf s cur f
    let a := (e.usrc f.sa.toNat).toNat
    let b := (e.usrc f.sb.toNat).toNat
    (Executes (.tlbinv f) f cur s → a + b ≤ 2 ^ 64 →
      ∃ (t : State) (x y : Entry) (n : Nat), exec (.tlbinv f) s = .next t ∧
        (let c : Ctl := { s.ctl.dropTlbs e.t.rctx a b with entries := s.ctl.entries ++ [x, y], nextId := n }
         t = { s with ctl := c.leave cur.p (e.after (Instr.tlbinv f).last none) }) ∧ e.owns x ∧ e.owns y ∧
        x.act = .fin (.shootdown a b) ∧ y.act = .fence true true none ∧ y.scope = 4 ∧ x.id < y.id ∧
        ∀ q ∈ t.ctl.tlbs, q.rctx = e.t.rctx → b ≠ 0 ∧ overlap q.va (2 ^ q.log) a b = false) ∧
    (∀ w s1, Executes (.tprobe f) f cur s → s.ctl.migrating e.t.rctx a = false → Runs (sealedWalk e.t.rctx a) s (some w) s1 →
      ∃ t, exec (.tprobe f) s = .next t ∧ GoesOn cur s t ∧ SameBytes s t ∧
        WroteW e s t (match w with
          | .leaf v _ _ => wd v
          | .fault _ _ => 0))

/-- R243: a `migr` of an unpinned page of this device's memory to another stack that has a free run starts: the page's entries
lose V, every cache loses its translations, the shootdown and a full fence at `.dev` are posted, and the migration is under way
with its old and new run. A page that is not mapped here, or lies in that stack, gives 1 and changes nothing. When no access
to the page is on its way, and the counters over both runs can rise, the migration ends: the bytes stand in the new run, each of the page's entries points to it and
keeps its own A and D, the old run reads zero, and its address lands in the destination. -/
def Sys2Proof.Claims.MigrationsMovePages : Prop :=
  (∀ (f : Fields) (cur : Cur) (s s1 s2 : State) (w : Walk) (es : List Nat), Executes (.migr f) f cur s → s.wf →
    let e := envOf s cur f
    let a := (e.usrc f.sa.toNat).toNat
    let stk := (e.usrc f.sb.toNat).toNat % 16
    let cx := s.ctl.ctx e.t.rctx
    a < 2 ^ 48 → s.ctl.migrating e.t.rctx a = false → Runs (sealedWalk e.t.rctx a) s (some w) s1 →
    ((∃ c b, w = .fault c b ∧ c ≠ 11) ∨
        (∃ v at_ lg, w = .leaf v at_ lg ∧ (entBit v 63 = true ∨ entBit v 62 = true ∨ stkOf (leafBase v lg) = stk)) →
      ∃ t, exec (.migr f) s = .next t ∧ GoesOn cur s t ∧ SameBytes s t ∧ WroteW e s t 1) ∧
    (∀ v at_ lg, w = .leaf v at_ lg → entBit v 63 = false → entBit v 62 = false → stkOf (leafBase v lg) ≠ stk →
      let va := a / 2 ^ lg * 2 ^ lg
      let rs := replicas (at_ - 8 * levelIndex a (levelOf lg)) va lg
      Runs (readEntries cx.kslot rs) s1 (.ok es) s2 → (∀ r ∈ rs, s2.ctl.inCache cx.kslot r = true) →
      (∀ p ∈ s.ctl.pages, p.pin.isSome = true → overlap (p.pg * 65536) 65536 (leafBase v lg) (2 ^ lg) = false) →
      (∃ p ∈ cx.pool, stkOf p.1 = stk ∧ (runsIn lg p).2 ≠ 0) →
      ∃ (t : State) (m : Migr) (x y : Entry), exec (.migr f) s = .next t ∧ GoesOn cur s t ∧ SameRegs s t ∧ m ∈ t.ctl.migrs ∧
        m.team = e.uid ∧ m.va = va ∧ m.log = lg ∧ m.leaf = wd v ∧ m.old = leafBase v lg ∧ m.new % 2 ^ lg = 0 ∧
        (∃ p ∈ cx.pool, stkOf p.1 = stk ∧ covers p.1 p.2 m.new (2 ^ lg) = true) ∧
        t.ctl.entries = s.ctl.entries ++ [x, y] ∧ e.owns x ∧ e.owns y ∧ x.act = .fin (.shootdown va (2 ^ lg)) ∧
        y.act = .fence true true none ∧ y.scope = 4 ∧
        (∀ r ∈ rs, t.load (dmLoc r) 8 = s.load (dmLoc r) 8 / 2 * 2) ∧
        (∀ sp key, (∀ r ∈ rs, ¬(sp = .dm ∧ r ≤ key ∧ key < r + 8)) → (t.mem sp).get key = (s.mem sp).get key) ∧
        ∀ x ∈ t.ctl.tlbs, x.rctx = e.t.rctx → overlap x.va (2 ^ x.log) va (2 ^ lg) = false)) ∧
  (∀ (s s2 : State) (m : Migr) (tbl : Nat), s.wf → s.ctl.migrs.find? (fun x => x.id == m.id) = some m →
    let n := 2 ^ m.log
    s.ctl.pageBusy m.old n = false → s.ctl.runResealing m.old n = false → s.ctl.runResealing m.new n = false →
    s.ctl.runFull m.new n = false → 12 ≤ m.log → m.log ≤ 42 → m.old % n = 0 → m.new % n = 0 → m.old ≠ m.new →
    (∀ i, i < n → (s.ctl.sealGroup ((m.old + i) / 65536)).major ≠ 0xFFFFFFFFFFFFFFFF) →
    (∀ i, i < n → s.dm.get (m.new + i) = 0) → s.mapTable (s.ctl.ctx m.rctx).root m.va m.log = some tbl →
    let rs := replicas tbl m.va m.log
    Runs (moveSeals m.old m.new n) (applyAll s (copyPage s m.old m.new n)) () s2 →
    (∀ x ∈ s2.ctl.tree, x.major.toNat + n < 2 ^ 64 - 1) →
    (∀ r ∈ rs, r % 8 = 0 ∧ s2.ctl.inCache (s.ctl.ctx m.rctx).kslot r = true ∧
      overlap r 8 m.old n = false ∧ overlap r 8 m.new n = false) →
    ∃ t, exec (.migrationComplete m.id) s = .next t ∧ (∀ x ∈ t.ctl.migrs, x.id ≠ m.id) ∧
      (∀ i, i < n → t.dm.get (m.new + i) = s.dm.get (m.old + i) ∧ t.dm.get (m.old + i) = 0) ∧
      (∀ r ∈ rs, let x := m.leaf.toNat - m.old + m.new
        t.load (dmLoc r) 8 = (x - x / 256 % 4 * 256 + s.load (dmLoc r) 8 / 256 % 4 * 256) % 2 ^ 64) ∧
      (∀ sp key, ¬(sp = .dm ∧ m.old ≤ key ∧ key < m.old + n) → ¬(sp = .dm ∧ m.new ≤ key ∧ key < m.new + n) →
        (∀ r ∈ rs, ¬(sp = .dm ∧ r ≤ key ∧ key < r + 8)) → (t.mem sp).get key = (s.mem sp).get key) ∧
      t.a = s.a ∧ t.csr = s.csr ∧ Landed s t m.team m.sink (wd m.new))

/-- R264, R267, R269: in a generator team whose fill has not ended, `pfill.done` posts its release and the end of the fill behind
it, `pfill.fail` the failure without a release; `pstate` writes the fill state of the block of an address, or all ones. -/
def Sys2Proof.Claims.FillsAreEnded : Prop :=
  ∀ (f : Fields) (cur : Cur) (s : State), s.wf →
    let e := envOf s cur f
    let ends (i : Instr) (rel full : Bool) (reason : Nat) : Prop :=
      ∃ (t : State) (x : Entry), exec i s = .next t ∧ GoesOn cur s t ∧ SameStores s t ∧
        (t.ctl.team e.uid).fillEnded = true ∧ t.ctl.entries = s.ctl.entries ++ [x] ∧ e.owns x ∧
        x.act = .fin (.fillEnd full reason) ∧ x.rel = rel ∧ x.scope = 4
    (∀ k r g b d, e.t.origin = .fill k r g b d → e.t.fillEnded = false →
      (Executes (.pfillDone f) f cur s → ends (.pfillDone f) true true 0) ∧
      (Executes (.pfillFail f) f cur s → ends (.pfillFail f) false false (scfld f 1 0))) ∧
    (Executes (.pstate f) f cur s → s.ctl.blockAt e.t.rctx (e.usrc f.sa.toNat).toNat = none →
      ∃ t, exec (.pstate f) s = .next t ∧ GoesOn cur s t ∧ SameBytes s t ∧ WroteW e s t allOnes) ∧
    (∀ r b s1, Executes (.pstate f) f cur s → s.ctl.blockAt e.t.rctx (e.usrc f.sa.toNat).toNat = some (r, b) →
      Runs (fillAccess e.t.rctx r b false) s .ok s1 →
      ∃ t, exec (.pstate f) s = .next t ∧ GoesOn cur s t ∧ SameBytes s t ∧ WroteW e s t (wd (s.fillState e.t.rctx r b)))

/-- R259, R264, R267: when the end of a fill leaves its queue, of a completed one behind every write of its team, the block's state becomes FULL and
its waiters wait no more, or FAILED with the cause that every waiter takes; the continuation is gone. -/
def Sys2Proof.Claims.EndedFillsResumeTheirWaiters : Prop :=
  ∀ (s s1 : State) (x : Entry) (full : Bool) (reason k rctx range block depth : Nat) (q : Cont) (r : PRange) (l : Loc), s.wf →
    s.ctl.entries.find? (fun o => o.id == x.id && o.stage == .pend) = some x → x.act = .fin (.fillEnd full reason) →
    s.ctl.barred x = false → (full = true → s.ctl.teamWrites x = false) →
    (s.ctl.team x.team).origin = .fill k rctx range block depth → (s.ctl.team x.team).rctx = rctx →
    s.ctl.conts.find? (fun y => y.id == k) = some q → q.rctx = rctx → q.kind = .fill range block depth →
    s.ctl.range rctx range = some r → s.fillLoc rctx r block = some l → Runs (fillAccess rctx r block true) s .ok s1 →
    ∃ t, exec (.drain x.id) s = .next t ∧ SameRegs s t ∧ SameBytesBut s t l 1 ∧
      t.load l 1 / 4 ^ (block % 4) % 4 = (if full then 2 else 3) ∧ (∀ y ∈ t.ctl.conts, y.id ≠ k) ∧
      ∀ w ∈ s.ctl.waits, w.on rctx range block = true →
        if full then w ∉ t.ctl.waits
        else { w with failed := some (if reason = 1 then (0x0C, 1) else (0x0D, 2)) } ∈ t.ctl.waits

/-- R265, R269: where its reads of the fill states pass (s1), `preset` of a range without a FULL or FAILED block, whose fill states can be read, counts none and changes no byte;
of one FULL or FAILED block to which no access is on its way it empties that block, whose bytes then read zero, and
counts it; nothing but the block's fill state and its bytes changes. -/
def Sys2Proof.Claims.PresetEmptiesBlocks : Prop :=
  ∀ (f : Fields) (cur : Cur) (s s1 : State), Executes (.preset f) f cur s → s.wf →
    let e := envOf s cur f
    let a := (e.usrc f.sa.toNat).toNat
    let n := (e.usrc f.sb.toNat).toNat
    let bs := if n = 0 then [] else s.ctl.blocksIn e.t.rctx a n
    let state (x : PRange × Nat) : Nat := s.fillState e.t.rctx x.1 x.2
    a + n ≤ 2 ^ 64 → e.p.prog = none →
    Runs (forMap bs (fun x => fillAccess e.t.rctx x.1 x.2 false)) s (bs.map (fun _ => Sealed.ok)) s1 →
    ((∀ x ∈ bs, state x < 2) → ∃ t, exec (.preset f) s = .next t ∧ GoesOn cur s t ∧ WroteW e s t 0 ∧ SameBytes s t) ∧
    (∀ x l, bs = [x] → 2 ≤ state x → s.fillLoc e.t.rctx x.1 x.2 = some l → s1.blockWaits e.t.rctx x.1 x.2 = false →
      let qs := s.blockTiles e.t.rctx x.1 x.2
      (∀ q ∈ qs, overlap l.key 1 (q.1 * 1024) (q.2 * 1024) = false ∧
        (s1.ctl.sealGroup (groupOfTile q.1)).major.toNat + 2 * qs.length < 2 ^ 64 - 1 ∧
        (s1.ctl.sealGroup (groupOfTile (q.1 + q.2 - 1))).major.toNat + 2 * qs.length < 2 ^ 64 - 1) →
      (∀ m ∈ s1.ctl.tree, m.major.toNat + 2 * qs.length < 2 ^ 64 - 1) → 2 * qs.length < 2 ^ 64 - 1 →
      ∃ t, exec (.preset f) s = .next t ∧ GoesOn cur s t ∧ WroteW e s t 1 ∧ t.load l 1 / 4 ^ (x.2 % 4) % 4 = 0 ∧
        (∀ q ∈ qs, ∀ key, q.1 * 1024 ≤ key → key < (q.1 + q.2) * 1024 → t.dm.get key = 0) ∧
        ∀ sp key, ¬(sp = .dm ∧ key = l.key) → (∀ q ∈ qs, ¬(sp = .dm ∧ q.1 * 1024 ≤ key ∧ key < (q.1 + q.2) * 1024)) →
          (t.mem sp).get key = (s.mem sp).get key)

/-- R30, R31, R262, R344, R364, R378: a claimed team whose shares are free starts: it runs, every group of every role stands at its
role's entry with all its lanes, and its uniform registers hold the record's frame. -/
def Sys2Proof.Claims.TeamsStartAtTheirEntries : Prop :=
  ∀ (s : State) (x : Team), s.wf →
    s.ctl.teams.find? (fun t => t.uid == x.uid && t.phase == .claimed) = some x → s.ctl.host.pstate = 0 →
    s.ctl.roomFor x.rctx x.die x.core x.hdr = true →
    ∃ (t : State) (y : Team), exec (.teamStart x.uid) s = .next t ∧ y ∈ t.ctl.teams ∧ y.uid = x.uid ∧ y.phase = .running ∧
      y.hdr = x.hdr ∧ y.since = s.ctl.cyc ∧
      ∀ g r, x.hdr.groupRoles[g]? = some r →
        (∃ q ∈ y.groups, q.who = .group g ∧ q.role = r.1 ∧ q.width = r.2.width ∧ q.regs = r.2.regs ∧
          q.paths = [newPath (advPc r.2.entry) (gwMask r.2.width)]) ∧
        ∀ i, i < 56 → t.wreg x.uid g i 0 = x.frame.getD i 0

/-- R30, R362, R363: a core that may claim a record's next indices takes as many as it could start at once, and no more than are
left: the new teams wait for their start, and the record's count has moved. -/
def Sys2Proof.Claims.CoresClaimIndices : Prop :=
  ∀ (s : State) (die core : Nat) (r : Rec),
    ((s.ctl.ctxs.map (·.recs)).flatten).find? (fun q => q.id == r.id) = some r →
    (∀ t ∈ s.ctl.teams, t.phase ≠ .claimed) → s.mayClaim die core (.grid r.rctx r.id) = true →
    let n := min (Ctl.startable r.rctx die core r.hdr 64 s.ctl) (r.ixcount - r.claimed)
    ∃ (t : State) (new : List Team), exec (.teamClaim die core r.id) s = .next t ∧ SameStores s t ∧
      t.ctl.teams = s.ctl.teams ++ new ∧ new.map (·.index) = (List.range n).map (fun k => r.ixbase + r.claimed + k) ∧
      (∀ x ∈ new, x.phase = .claimed ∧ x.hdr = r.hdr ∧ x.frame = r.frame ∧ x.rctx = r.rctx ∧ x.die = die ∧ x.core = core) ∧
      ∀ c ∈ t.ctl.ctxs, c.rctx = r.rctx → ∀ q ∈ c.recs, q.id = r.id → ∃ o ∈ (s.ctl.ctxs.map (·.recs)).flatten,
        q = { o with claimed := o.claimed + n, waitAt := s.ctl.cyc }

/-- R245, R262, R263, R344, R346: the continuation of a fill or of a shading block, given a core that has the shares of its header,
starts its team there; a header that fails, or cannot be read, ends the fill or the block. -/
def Sys2Proof.Claims.ContinuationsStartTeams : Prop :=
  ∀ (s s1 : State) (k : Cont) (core : Nat) (got : Option (List Word)), s.wf →
    let ws := got.getD []
    let fits (t : State) : Prop := (headerOf ws).fitsUnit = true ∧ t.ctl.host.pstate = 0 ∧ t.ctl.coreFits k.die core (headerOf ws) = true ∧
      t.ctl.resvFits k.die (headerOf ws) ≠ [] ∧ t.ctl.freeSegs k.rctx k.die true ≠ []
    s.ctl.conts.find? (fun x => x.id == k.id && x.team.isNone) = some k →
    (∀ (range block depth : Nat) (r : PRange), k.kind = .fill range block depth → s.ctl.range k.rctx range = some r →
      Runs (readWords k.die k.rctx k.hdr.toNat 2) s (some got) s1 →
      (hdrStatus ws 1 = 0 → fits s1 →
        ∃ (t : State) (y : Team), exec (.generatorStart k.id core none) s = .next t ∧ y ∈ t.ctl.teams ∧
          y.uid = s1.ctl.nextUid ∧ y.phase = .running ∧ y.origin = .fill k.id k.rctx range block depth ∧ y.die = k.die ∧
          y.core = core ∧ y.hdr = headerOf ws ∧
          y.frame = [wd block, wd (r.base + block * 2 ^ r.blog), k.arg, wd r.num, wd depth] ∧
          { k with team := some s1.ctl.nextUid } ∈ t.ctl.conts) ∧
      (∀ x s2, hdrStatus ws 1 ≠ 0 ∨ (headerOf ws).fitsUnit = false → Runs (fillAccess k.rctx r block true) s1 x s2 → x ≠ .wait →
        ∃ t, exec (.generatorStart k.id core none) s = .next t ∧ (∀ x ∈ t.ctl.conts, x.id ≠ k.id) ∧
          ∀ w ∈ s.ctl.waits, w.on k.rctx range block = true → { w with failed := some (0x0C, 3) } ∈ t.ctl.waits)) ∧
    (∀ (s2 : State) (cluster desc key : Nat) (dw : List Word) (sf : Surface), k.kind = .shade cluster desc key →
      Runs (contWords k desc 1) s (some (some dw)) s1 → surfaceOf dw = some sf →
      Runs (contWords k sf.shdr.toNat 2) s1 (some got) s2 →
      (hdrStatus ws 1 = 0 → fits s2 →
        ∃ (t : State) (y : Team), exec (.shadingStart k.id core none) s = .next t ∧ y ∈ t.ctl.teams ∧
          y.uid = s2.ctl.nextUid ∧ y.phase = .running ∧ y.origin = .shade k.id cluster desc key ∧ y.die = k.die ∧
          y.core = core ∧ y.hdr = headerOf ws ∧ y.frame = [wd desc, wd key, sf.arg, wd cluster, 1]) ∧
      (hdrStatus ws 1 ≠ 0 ∨ (headerOf ws).fitsUnit = false →
        ∃ t, exec (.shadingStart k.id core none) s = .next t ∧ (∀ x ∈ t.ctl.conts, x.id ≠ k.id) ∧
          ∀ b ∈ t.ctl.tex, ¬(b.is cluster k.rctx desc key = true ∧ b.cont = k.id ∧ b.bytes = none)))

/-- R343, R347: `texq` of blocks that can all be requested writes 3 to a lane whose key lies outside the surface, and to every other
lane the state that its block has once the lanes below it have made their requests: 0 PRESENT, 1 PENDING, 2 MISSING. `texq.inv` reads
the descriptor and drops every block of the surface once none is PENDING. -/
def Sys2Proof.Claims.TexelQueriesReadStates : Prop :=
  ∀ (f : Fields) (cur : Cur) (s s1 s2 : State) (a : Nat) (sf : Surface) (xs : List (Nat × Nat)), s.wf →
    let e := envOf s cur f
    let ls := lanesOf e.ex e.gw
    (Executes (.texq f) f cur s → e.ex ≠ 0 → f.mod.getLsbD 0 = false → f.ws = false → Runs e.surface s (.ok (a, sf)) s1 →
      Runs (requestAll e.t.die e.t.cluster e.t.rctx a sf (ls.filterMap (e.texKey sf))) s1 (.ok xs) s2 →
      ∃ t, exec (.texq f) s = .next t ∧ GoesOn cur s t ∧ SameBytes s1 t ∧ OnlyLanes e s t ls f.dst.toNat 1 ∧
        (∀ l ∈ ls, e.texKey sf l = none → e.laneAfter t f.dst.toNat l false = 3) ∧
        (∀ l ∈ ls, ∀ k ys s3, e.texKey sf l = some k →
          Runs (requestAll e.t.die e.t.cluster e.t.rctx a sf ((ls.filter (· < l)).filterMap (e.texKey sf))) s1 (.ok ys) s3 →
          e.laneAfter t f.dst.toNat l false = s3.ctl.texState e.t.cluster e.t.rctx a k)) ∧
    (Executes (.texqInv f) f cur s → Runs e.surface s (.ok (a, sf)) s1 →
      (∀ b ∈ s1.ctl.tex, b.rctx = e.t.rctx → b.desc = a → b.bytes.isSome = true) →
      ∃ t, exec (.texqInv f) s = .next t ∧ GoesOn cur s t ∧ SameBytes s1 t ∧ SameRegs s t ∧
        ∀ b, b ∈ t.ctl.tex ↔ b ∈ s1.ctl.tex ∧ ¬(b.rctx = e.t.rctx ∧ b.desc = a))

/-- R348: `texs` whose four texels of every lane lie in PRESENT blocks writes to each lane the four channels of the bilinear
filter, each rounded once, with the weights that the fractions of the lane's coordinates give. -/
def Sys2Proof.Claims.TexsFiltersFourTexels : Prop :=
  ∀ (f : Fields) (cur : Cur) (s s1 s2 : State) (a : Nat) (sf : Surface) (xs : List (Nat × Nat)),
    Executes (.texs f) f cur s → s.wf →
    let e := envOf s cur f
    let ls := lanesOf e.ex e.gw
    let cl := e.t.cluster
    let keys := ((ls.map (fun l => (e.taps sf l).2.map (fun x => blockKey cl (e.taps sf l).1 (x.2.1 / 8) (x.1 / 8)))).flatten).dedup
    e.ex ≠ 0 → f.ws = false → Runs e.surface s (.ok (a, sf)) s1 → (∀ l ∈ ls, e.n32 f.sc.toNat l < sf.levels) →
    Runs (requestAll e.t.die cl e.t.rctx a sf keys) s1 (.ok xs) s2 → (∀ k ∈ keys, s2.ctl.texState cl e.t.rctx a k = 0) →
    ∃ t, exec (.texs f) s = .next t ∧ GoesOn cur s t ∧ SameBytes s1 t ∧ OnlyLanes e s t ls f.dst.toNat 2 ∧
      ∀ l ∈ ls, ∀ ch, ch < 4 →
        e.laneAfter t f.dst.toNat l true / 2 ^ (16 * ch) % 2 ^ 16 =
          filterHalf ((e.taps sf l).2.map (fun x =>
            (x.2.2, chanOf (s2.ctl.texel cl e.t.rctx a (e.taps sf l).1 x.1 x.2.1) ch))) % 2 ^ 16

/-- R349: a shading team's `texw` of its own PENDING block is accepted as it issues; when its 512 bytes have been read the block is
PRESENT with them, its continuation has ended, and the job is gone. -/
def Sys2Proof.Claims.TexwFillsItsBlock : Prop :=
  (∀ (f : Fields) (cur : Cur) (s : State) (b : TexBlock) (k cl0 d0 k0 : Nat), Executes (.texw f) f cur s →
    let e := envOf s cur f
    let sp := mfld f 1 0
    let desc := (e.usrc f.sa.toNat).toNat
    let key := (e.usrc f.sb.toNat).toNat % 2 ^ 26
    let cl := e.t.die * 16 + fld key 25 22
    let src := wrapSp sp (e.usrc f.sc.toNat).toNat
    e.t.origin = .shade k cl0 d0 k0 → s.ctl.texBlock cl e.t.rctx desc key = some b → b.bytes = none → b.cont = k →
    src % 64 = 0 → e.notData sp src 512 = none →
    ∃ t, exec (.texw f) s = .next t ∧ GoesOn cur s t ∧ SameStores s t ∧
      ∃ j ∈ t.ctl.jobs, j.kind = .texw cl desc key ∧ j.team = e.uid ∧ j.ssp = sp ∧ j.src = wd src ∧ j.size = 512 ∧
        j.accepted = true ∧ j.acceptedAt = s.ctl.cyc) ∧
  (∀ (s s1 : State) (j : Job) (b : TexBlock) (bs : List Byte) (cl desc key : Nat), s.ctl.theJob j.id j → j.accepted = true →
    j.err = none → j.kind = .texw cl desc key → s.ctl.texBlock cl j.rctx desc key = some b → b.bytes = none →
    Runs (readSource j 512) s (some bs) s1 →
    ∃ t, exec (.texwComplete j.id) s = .next t ∧ SameStores s1 t ∧ t.ctl.texBlock cl j.rctx desc key = some { b with bytes := some bs } ∧
      (∀ x ∈ t.ctl.conts, x.id ≠ b.cont) ∧ ∀ q ∈ t.ctl.jobs, q.id ≠ j.id)

/-- R273, R274, R281: `recruit` in the one executing lane, outside a recruitment, asks for up to 63 helpers (for N of them), and
grants as many as the bank has free entries and the team lendable lanes, none under DMR or in a team that is being saved;
the lane gets G with the reason of a smaller grant, and goes on at the entry as helper 0 with the granted lanes of its own
group. Inside a recruitment `recruit` grants nothing, with reason 3. -/
def Sys2Proof.Claims.RecruitmentsStart : Prop :=
  ∀ (f : Fields) (cur : Cur) (s : State), Executes (.recruit f) f cur s → s.wf →
    let e := envOf s cur f
    let r := (lowest e.ex).getD 0
    let all := e.ownLendable.map (fun l => (e.g.who.idx, l)) ++ e.donorLendable
    let want := if f.sc = 324 then 63 else e.n32 f.sc.toNat r
    let n := if e.gst.getLsbD 8 ∨ e.t.phase = .saving then 0 else min (min want 63) (min e.bankFree all.length)
    let mine := ((all.take n).filter (fun x => x.1 == e.g.who.idx)).map (·.2)
    popc e.ex = 1 → e.g.who.idx < 64 → (∀ d ∈ e.t.groups, d.who.idx < 64) →
    (e.hst ≠ 0 → ∃ t, exec (.recruit f) s = .next t ∧ GoesOn cur s t ∧ SameBytes s t ∧
      e.laneAfter t f.dst.toNat r false = 0x300 ∧ t.ctl.recruits = s.ctl.recruits) ∧
    (e.hst = 0 → ∃ (t : State) (x : Recruit) (why : Nat), exec (.recruit f) s = .next t ∧ SameBytes s t ∧ t.csr = s.csr ∧
      t.a = s.a ∧ t.w = s.w ∧ t.k = s.k ∧
      e.laneAfter t f.dst.toNat r false = (why * 256 + n) % 2 ^ 32 ∧ (why = 0 ↔ n = want) ∧
      (n ≠ want → e.gst.getLsbD 8 = true → why = 2) ∧
      x ∈ t.ctl.recruits ∧ x.team = e.uid ∧ x.group = e.g.who.idx ∧ x.lane = r ∧ x.pid = e.p.pid ∧ x.lo = e.n32 f.sa.toNat r ∧
      x.hi = e.n32 f.sb.toNat r ∧ x.next = x.lo ∧ x.act = e.p.act ∧ x.fmt = e.p.fmt ∧ x.returned = [] ∧ x.contribs = [] ∧
      (t.pathOf cur.p).helper = some x.id ∧ (t.pathOf cur.p).act = maskOf (r :: mine) ∧
      (t.pathOf cur.p).pc = advPc (e.target 32 f.imm32b) ∧ (t.groupOf cur.p).recruit = some x.id)

/-- R276, R277, R281: in helper code `hget` reads the recruiter lane's register. `hnext` commits what its lanes hold and claims
the next iterations for them in lane order, 0xFFFFFFFF when none is left; `hred` adds a lane's contribution to its
iteration; `hquit` releases its lanes. -/
def Sys2Proof.Claims.HelpersWork : Prop :=
  ∀ (f : Fields) (cur : Cur) (s : State) (x : Recruit), s.wf →
    let e := envOf s cur f
    let ls := lanesOf e.ex e.gw
    let y := x.commitLanes cur.p ls
    let d := f.mod.getLsbD 0
    let v (n : Nat) : Nat := (s.v.get (vKey e.uid x.group x.lane n)).toNat
    e.rec? = some x →
    (Executes (.hget f) f cur s → e.recruiterWaits x f.sa.toNat (if d then 2 else 1) = false →
      RegisterOnly (.hget f) f cur s (fun _ => if d then 64 else 32) (fun _ => false)
        (fun _ _ => (v f.sa.toNat + (if d then 2 ^ 32 * v (f.sa.toNat + 1) else 0), 0))) ∧
    (Executes (.hnext f) f cur s → y.returned = [] → s.ctl.helperBusy e.uid y.freed = false → y.next + ls.length ≤ y.hi →
      y.next + ls.length ≤ y.lowest + 257 →
      ∃ t, exec (.hnext f) s = .next t ∧ GoesOn cur s t ∧ SameBytes s t ∧ OnlyLanes e s t ls f.dst.toNat 1 ∧
        (∀ k l, ls[k]? = some l → e.laneAfter t f.dst.toNat l false = (y.next + k) % 2 ^ 32) ∧
        ∃ z ∈ t.ctl.recruits, z.id = x.id ∧ z.next = y.next + ls.length ∧ z.committed = y.committed) ∧
    (Executes (.hnext f) f cur s → y.returned = [] → y.hi ≤ y.next →
      ∃ t, exec (.hnext f) s = .next t ∧ GoesOn cur s t ∧ SameBytes s t ∧ OnlyLanes e s t ls f.dst.toNat 1 ∧
        ∀ l ∈ ls, e.laneAfter t f.dst.toNat l false = 2 ^ 32 - 1) ∧
    (∀ l it, Executes (.hred f) f cur s → ls = [l] → x.held cur.p l = some it →
      (∀ o, x.opOf it (scfld f 1 0) = some o → o = (mfld f 5 2, mfld f 1 0)) →
      ∃ t, exec (.hred f) s = .next t ∧ OnlyGoesOn (.hred f) e { s with ctl := { s.ctl with
          recruits := s.ctl.recruits.map (fun o => if o.id == x.id then
            o.contribute it (scfld f 1 0) (mfld f 5 2) (mfld f 1 0) (e.n32 f.sa.toNat l) else o) } } t) ∧
    (Executes (.hquit f) f cur s → ¬(x.group = e.g.who.idx ∧ x.pid = e.p.pid ∧ e.ex.getLsbD x.lane = true) →
      ∃ t, exec (.hquit f) s = .next t ∧ SameStores s t ∧
        (e.p.act &&& ~~~(maskOf ls) = 0 → PathGone cur t) ∧
        (e.p.act &&& ~~~(maskOf ls) ≠ 0 → (t.pathOf cur.p).act = e.p.act &&& ~~~(maskOf ls) ∧
          (t.pathOf cur.p).pc = nextPc cur.pc cur.len) ∧
        ∀ z ∈ t.ctl.recruits, z.id = x.id → ∀ h ∈ z.lanes, h.at_ cur.p h.lane = true → h.lane ∉ ls)

/-- R277, R281, R283: `hjoin` of helper 0 alone, with no helper and no iteration left and no fault kept, ends the recruitment: the
recruiter's registers take the combined results, its flags go to gst, and the path goes on outside helper mode with the
lanes it had. -/
def Sys2Proof.Claims.JoiningEndsARecruitment : Prop :=
  ∀ (f : Fields) (cur : Cur) (s : State) (x : Recruit), Executes (.hjoin f) f cur s → s.wf →
    let e := envOf s cur f
    let m := scfld f 2 0
    let z := x.commitLanes cur.p [x.lane]
    e.rec? = some x → x.group = e.g.who.idx → x.pid = e.p.pid → lanesOf e.ex e.gw = [x.lane] → x.lanes.length ≤ 1 →
    x.returned = [] → e.recruiterWaits x f.dst.toNat m = false → x.fault = none →
    ∃ t, exec (.hjoin f) s = .next t ∧ SameBytes s t ∧ t.a = s.a ∧ t.w = s.w ∧ t.k = s.k ∧ t.vi = s.vi ∧
      (∀ j r, j < m → z.result j = some r → t.v.get (vKey e.uid x.group x.lane (f.dst.toNat + j)) = r.1) ∧
      (∀ key, (∀ j, j < m → key ≠ vKey e.uid x.group x.lane (f.dst.toNat + j)) → t.v.get key = s.v.get key) ∧
      t.csrOf e.uid x.group 0 = s.csrOf e.uid x.group 0 |||
        (wd (orFlags ((List.range 4).map (fun j => ((z.result j).getD (0, 0)).2))) &&& csrLayout 0) ∧
      (∀ key, key ≠ csrKey e.uid x.group 0 → t.csr.get key = s.csr.get key) ∧
      (t.pathOf cur.p).helper = none ∧ (t.pathOf cur.p).act = x.act ∧ (t.pathOf cur.p).fmt = x.fmt ∧
      (t.pathOf cur.p).pc = nextPc cur.pc cur.len ∧ (t.groupOf cur.p).recruit = none ∧
      ∀ q ∈ t.ctl.recruits, q.id ≠ x.id

/-- R278: helper lanes whose owner's wait is over or ends in a trap, and those of a team that is being saved, go back at a chain head
once their entries have drained: the recruitment has them no more and their iterations are returned; else, while the owner
waits on, they stay. -/
def Sys2Proof.Claims.LentLanesGoBack : Prop :=
  ∀ (s : State) (uid g : Nat) (lanes : Word) (x : Recruit),
    let t0 := s.ctl.team uid
    let d := t0.party (.group g)
    let waits (p : Path) : Prop := ∃ k, p.park = some k ∧ k.doom = none ∧
      s.parkMet { team := uid, who := .group g, pid := p.pid } k = false
    let hs := x.lanes.filter (fun h => h.group == g && lanes.getLsbD h.lane && !(x.group == g && h.lane == x.lane))
    s.ctl.recruits.filter (fun q => q.team == uid) = [x] → (∀ q ∈ s.ctl.recruits, q.id = x.id → q = x) →
    ∃ t, exec (.helperRelease uid g lanes) s = .next t ∧ SameStores s t ∧
      (s.ctl.hasTeam uid = true → (t0.phase = .saving ∨ (x.group ≠ g ∧ ∃ p ∈ d.live, ¬waits p)) → hs ≠ [] →
        (∀ p ∈ d.paths, s.midChain t0 p = false) → s.ctl.helperBusy uid hs = false →
        ∃ z ∈ t.ctl.recruits, z.id = x.id ∧ z.returned = x.returned ++ hs.filterMap (·.iter) ∧ ∀ h ∈ hs, h ∉ z.lanes) ∧
      (t0.phase ≠ .saving → s.ctl.hasTeam uid = true → (x.group = g ∨ ∀ p ∈ d.live, waits p) → t = s)

/-- R286, R290, R293, R295: `msend` to a destination word whose reserved bits are zero takes a send credit and sends the eight
uniform registers from sb on as 64 bytes; a releasing send leaves only behind its release. With no credit it parks. -/
def Sys2Proof.Claims.MessagesAreSent : Prop :=
  ∀ (f : Fields) (cur : Cur) (s : State), Executes (.msend f) f cur s →
    let e := envOf s cur f
    let dst := e.usrc f.sa.toNat
    wfld dst 43 40 = 0 → wfld dst 36 12 = 0 →
    ∃ t, exec (.msend f) s = .next t ∧ SameStores s t ∧
      (s.ctl.creditFree e.uid = true → GoesOn cur s t ∧ ∃ m, t.ctl.msgs = s.ctl.msgs ++ [m] ∧ m.team = e.uid ∧ m.dst = dst ∧
        m.who = e.g.who ∧ m.lane = (lowest e.ex).getD 0 ∧ m.cluster = e.t.cluster ∧ m.held = false ∧ m.stored = false ∧
        m.domain = (s.ctl.ctx e.t.rctx).domain ∧ m.dead = false ∧ m.sent = !f.mod.getLsbD 5 ∧
        m.bytes = ((List.range 8).map (fun j => bytesOf (e.w (f.sb.toNat - 256 + j)).toNat 8)).flatten ∧
        (f.mod.getLsbD 5 = false → t.ctl.entries = s.ctl.entries) ∧
        (f.mod.getLsbD 5 = true → ∃ x, t.ctl.entries = s.ctl.entries ++ [x] ∧ e.owns x ∧ x.act = .fin (.send m.id) ∧
          x.rel = true)) ∧
      (s.ctl.creditFree e.uid = false → t.ctl.msgs = s.ctl.msgs ∧ ∃ k, (t.pathOf cur.p).park = some k ∧ k.kind = .credit)

/-- R287, R289, R295: `mack.reg` of an aligned data region makes it the team's lowest free ring, empty, where the port is free;
`mwait` of a ring that holds a message writes its TAIL; `mack` of no more messages than it holds adds to HEAD and returns
it; `mack.drop` gives the ring up. -/
def Sys2Proof.Claims.RingsAreRegisteredAndRead : Prop :=
  ∀ (f : Fields) (cur : Cur) (s : State), s.wf →
    let e := envOf s cur f
    let g := e.usrc f.sb.toNat
    let k := g.toNat % 2 ^ 32
    (∀ x, s.ctl.ring e.uid (scfld f 3 0) = some x →
      (Executes (.mwait f) f cur s → s.ringCount x ≠ 0 →
        ∃ t, exec (.mwait f) s = .next t ∧ GoesOn cur s t ∧ SameBytes s t ∧ WroteW e s t (wd (s.tail x))) ∧
      (Executes (.mwait f) f cur s → s.ringCount x = 0 →
        ∃ t, exec (.mwait f) s = .next t ∧ SameStores s t ∧ ∃ k, (t.pathOf cur.p).park = some k ∧ k.kind = .ring x.r) ∧
      (Executes (.mack f) f cur s → k ≤ s.ringCount x →
        ∃ t, exec (.mack f) s = .next t ∧ GoesOn cur s t ∧ SameBytesBut s t (x.loc.plus 4) 4 ∧
          t.head x = (s.head x + k) % 2 ^ 32 ∧ WroteW e s t (wd ((s.head x + k) % 2 ^ 32))) ∧
      (Executes (.mackDrop f) f cur s →
        ∃ t, exec (.mackDrop f) s = .next t ∧ GoesOn cur s t ∧ SameStores s t ∧ t.ctl.ring e.uid x.r = none)) ∧
    (∀ l r, let b := (e.usrc f.sa.toNat).toNat % 2 ^ 32
      Executes (.mackReg f) f cur s → b % 64 = 0 → 0 < wfld g 19 16 → wfld g 19 16 ≤ 12 →
      classify s.ctl e.t (mfld f 5 4) b (64 + 64 * 2 ^ wfld g 19 16) = .data l → s.ctl.freeRing e.uid = some r →
      (∀ x ∈ s.ctl.rings, ¬(x.die = e.t.die ∧ x.domain = (s.ctl.ctx e.t.rctx).domain ∧ x.port = wfld g 11 0)) →
      s.ctl.entryAt l 64 = false →
      ∃ t, exec (.mackReg f) s = .next t ∧ GoesOn cur s t ∧ SameBytesBut s t l 64 ∧ t.load l 8 = 0 ∧
        t.load (l.plus 8) 8 = wfld g 19 16 * 2 ^ 16 + r * 2 ^ 12 + wfld g 11 0 ∧ WroteW e s t (wd r) ∧
        t.ctl.rings = s.ctl.rings ++ [{ team := e.uid, r := r, die := e.t.die, loc := l, log := wfld g 19 16,
                                        port := wfld g 11 0, domain := (s.ctl.ctx e.t.rctx).domain }])

/-- R288, R291, R292: a message of this device that no earlier one of its source precedes has its bytes written at TAIL of the ring it
is addressed to, when that takes it, and then TAIL is one more and the sender's credit is free; one that its ring cannot take
is held in the die's inbox; while that is full, what arrives waits in the routers. One that no ring or device can take is
returned, once no die boundary on its way retrains, and the sender records ENGINE 0x20 or 0x21. -/
def Sys2Proof.Claims.MessagesArriveOrReturn : Prop :=
  ∀ (s : State) (m : Msg), s.wf → s.ctl.msgs.find? (fun x => x.id == m.id && x.sent) = some m →
    (∀ x ∈ s.ctl.msgs, x.id = m.id → x = m) → (m.held = true ∨ m.stored = true ∨ s.ctl.msgBehind m = false) →
    (∀ x, m.dead = false → devOf m.dst = s.ctl.host.devid.toNat → s.ctl.ringFor m = some x → m.bytes.length = 64 →
      (m.stored = true → ∃ t, exec (.ringAppend m.id) s = .next t ∧ SameRegs s t ∧ m ∉ t.ctl.msgs ∧ SameBytesBut s t x.loc 4 ∧
        t.tail x = (s.tail x + 1) % 2 ^ 32) ∧
      (m.stored = false → m.held = false → 256 ≤ s.ctl.inboxCount x.die → exec (.ringAppend m.id) s = .next s) ∧
      (m.stored = false → (m.held = true ∨ (s.ctl.stalled m.die x.die = false ∧ s.ctl.inboxCount x.die < 256)) →
        let l := x.loc.plus (64 + 64 * (s.tail x % 2 ^ x.log))
        (s.ringTakes x = true → s.ctl.heldBehind m = false →
          ∃ t, exec (.ringAppend m.id) s = .next t ∧ SameRegs s t ∧ SameBytesBut s t l 64 ∧ t.loadBytes l 64 = m.bytes ∧
            { m with held := false, stored := true } ∈ t.ctl.msgs) ∧
        (s.ringTakes x = false ∨ s.ctl.heldBehind m = true → m.held = false →
          ∃ t, exec (.ringAppend m.id) s = .next t ∧ SameStores s t ∧ { m with held := true } ∈ t.ctl.msgs))) ∧
    (∀ b, s.ctl.undeliverable m = some b → s.ctl.returnStalled m = false →
      ∃ t, exec (.ringReturn m.id) s = .next t ∧ SameStores s t ∧ m ∉ t.ctl.msgs ∧
        (devOf m.dst = s.ctl.host.devid.toNat → b = 0x20) ∧
        (s.ctl.hasTeam m.team = true → (s.ctl.team m.team).hasParty m.who.idx = true →
          ((s.ctl.team m.team).party (whoOf m.who.idx)).retired = false → Recorded s t m.team m.who.idx m.lane 0x1C b))

/-- R297, R298, R301, R305, R310, R311, R317: `mmx` and `vxm` with well-formed operands inside their spaces, of an OPEN tile of
their accumulator kind, enter the reservation table of their cluster's engine with the formats and the priority of the
moment; no byte and no register changes. -/
def Sys2Proof.Claims.MatrixWorkIsAccepted : Prop :=
  ∀ (f : Fields) (cur : Cur) (s : State),
    let e := envOf s cur f
    let fa := wfld e.p.fmt 4 0
    let fb := wfld e.p.fmt 9 5
    let accepted (i : Instr) (kind : PassKind) (cycles : Nat) : Prop :=
      ∃ (t : State) (p : Pass), exec i s = .next t ∧ GoesOn cur s t ∧ SameStores s t ∧ t.ctl.passes = s.ctl.passes ++ [p] ∧
        p.engine = e.t.cluster ∧ p.team = e.uid ∧ p.who = e.g.who ∧ p.prio = e.t.mprio ∧ p.acceptedAt = s.ctl.cyc ∧
        p.granted = false ∧ p.fa = fa ∧ p.fb = fb ∧ p.kind = kind ∧ p.cycles = cycles
    (∀ m : MTile,
      let ctl := e.usrc f.sc.toNat
      let bstr := if wfld ctl 47 32 = 0 then 8 * container fb else wfld ctl 47 32
      let pa := mfld f 5 4
      let pb := mfld f 3 2
      let a := wrapSp pa (e.usrc f.sa.toNat).toNat
      let b := wrapSp pb (e.usrc f.sb.toNat).toNat
      let sa := if isMx fa then some (pa, wrapSp pa (e.usrc f.sd).toNat) else none
      let sb := if isMx fb then some (pb, wrapSp pb (e.usrc f.se).toNat) else none
      Executes (.mmx f) f cur s → wfld ctl 31 4 = 0 → bstr % 8 = 0 → 8 * container fb ≤ bstr →
      (isMx fa = true → f.sd ≠ 324) → (isMx fb = true → f.se ≠ 324) → a % 64 = 0 → b % 8 = 0 →
      (∀ x, sa = some x → x.2 % 64 = 0) → (∀ x, sb = some x → x.2 % 8 = 0) →
      e.fixedOut ([(pa, a, planes fa * 64 * planeBytes fa), (pb, b, kOf fa * bstr)] ++
        (sa.toList.map (fun x => (x.1, x.2, 64 * kOf fa / 32))) ++ (sb.toList.map (fun x => (x.1, x.2, kOf fa / 32 * 64)))) = none →
      s.ctl.tileNo e.uid (wfld ctl 3 0) = some m → m.st = .opened → m.int = (isIntFmt fa && isIntFmt fb) →
      e.mfencePending = false → e.tableFree = true →
      accepted (.mmx f) (.mmx m.uid (f.mod.getLsbD 1) (sextNat 16 (wfld ctl 63 48)) (BitVec.ofNat 32 f.imm32b) bstr (pa, a) (pb, b) sa sb)
        (passCycles fa)) ∧
    (let sp := mfld f 5 4
     let rb := e.gw * vecPer fb * container fa / 8
     let base := (e.usrc f.sa.toNat).toNat
     let row (x : Nat) : Nat := if f.mod.getLsbD 3 then e.v f.sa.toNat x else wrapSp sp (base + x * roundUp rb 64)
     let ls := lanesOf e.ex e.gw
     (Executes (.vxm f) f cur s → ls = [] → ∃ t, exec (.vxm f) s = .next t ∧ OnlyGoesOn (.vxm f) e s t) ∧
     (Executes (.vxm f) f cur s → ls ≠ [] →
     (f.mod.getLsbD 3 = true → ∀ x ∈ ls, row x ≠ 0 ∧ row x % 64 = 0) → (f.mod.getLsbD 3 = false → base % 64 = 0) →
     (∀ x ∈ ls, rangeOut s.ctl e.t sp (row x) rb = none) → e.mfencePending = false → e.tableFree = true →
     accepted (.vxm f)
       (.vxm (ls.map (fun x => (x, (sp, row x), BitVec.ofNat 32 (e.bits f.sc.toNat x 32 f.rawImm))))
         ((List.range e.gw).map (fun x => BitVec.ofNat 32 (e.v f.sb.toNat x))) (ls.map (fun x => e.sinkFor x 32 false true)))
       ((if f.mod.getLsbD 3 then ((ls.map (fun x => ((sp, row x), BitVec.ofNat 32 (e.bits f.sc.toNat x 32 f.rawImm)))).dedup).length
         else 1) * (planes fa * ((e.gw * vecPer fb + 63) / 64)))))

/-- R297, R312, R314, R315, R316: `mring.open` gives the team its lowest free tile number, filled with the operand, or all ones;
`mring.close` discards what is not granted and frees the tile; `mfence.op` posts its order; `mprio` sets the priority, not
above the team's own; `mstat` reads the status of a tile or of the engine. -/
def Sys2Proof.Claims.TilesAreManaged : Prop :=
  ∀ (f : Fields) (cur : Cur) (s : State), s.wf →
    let e := envOf s cur f
    let c := s.ctl
    let v := (e.usrc f.sa.toNat).setWidth 32
    (Executes (.mringOpen f) f cur s →
      ∃ t, exec (.mringOpen f) s = .next t ∧ GoesOn cur s t ∧ SameBytes s t ∧
        (∀ n, (c.mtiles.filter (fun m => m.engine == e.t.cluster)).length < 16 → n < 16 → c.tileNo e.uid n = none →
          (∀ k, k < n → (c.tileNo e.uid k).isSome = true) →
          WroteW e s t (wd n) ∧ ∃ m, t.ctl.mtiles = c.mtiles ++ [m] ∧ m.team = e.uid ∧ m.num = n ∧ m.engine = e.t.cluster ∧
            m.st = .opened ∧ m.int = f.mod.getLsbD 0 ∧ m.status = 0 ∧ m.els = List.replicate 4096 v) ∧
        (16 ≤ (c.mtiles.filter (fun m => m.engine == e.t.cluster)).length ∨ (∀ n, n < 16 → (c.tileNo e.uid n).isSome = true) →
          WroteW e s t allOnes ∧ t.ctl.mtiles = c.mtiles)) ∧
    (∀ m, Executes (.mringClose f) f cur s → c.tileNo e.uid (e.usrc f.sa.toNat).toNat = some m → m.st = .opened →
      ∃ t, exec (.mringClose f) s = .next t ∧ GoesOn cur s t ∧ SameStores s t ∧
        (∀ p, p ∈ t.ctl.passes ↔ p ∈ c.passes ∧ (p.onTile m.uid = true → p.granted = true)) ∧
        ((∀ p ∈ c.passes, p.onTile m.uid = true → p.granted = false) → ∀ x ∈ t.ctl.mtiles, x.uid ≠ m.uid) ∧
        ((∃ p ∈ c.passes, p.onTile m.uid = true ∧ p.granted = true) → ∀ x ∈ t.ctl.mtiles, x.uid = m.uid → x.st = .closing)) ∧
    (Executes (.mfenceOp f) f cur s → ∃ t, exec (.mfenceOp f) s = .next t ∧
      Posts (.mfenceOp f) e s t (fun x => x.act = .fin .dropOperands) []) ∧
    (Executes (.mprio f) f cur s → ∃ t, exec (.mprio f) s = .next t ∧ GoesOn cur s t ∧ SameStores s t ∧
      (t.ctl.team e.uid).mprio = max (wfld (e.usrc f.sa.toNat) 3 0) e.t.prio) ∧
    (Executes (.mstat f) f cur s → ∃ t, exec (.mstat f) s = .next t ∧ GoesOn cur s t ∧ SameBytes s t ∧
      WroteW e s t (
        if f.mod.getLsbD 0 then
          wd ((c.passes.filter (fun p => p.engine == e.t.cluster)).length * 2 ^ 32 +
            (c.slews.getD (e.t.cluster / 16) Slew.init).held.sum * 2 ^ 16 +
            (c.slews.getD (e.t.cluster / 16) Slew.init).held.getD (e.t.cluster % 16) 0)
        else match c.tileNo e.uid (e.usrc f.sa.toNat).toNat with
          | some m => wd ((c.passes.filter (fun p => p.onTile m.uid)).length * 2 ^ 32 + (if m.st = .draining then 2 ^ 8 else 0) +
              2 ^ 7 + (if m.int then 2 ^ 6 else 0) + m.status % 64)
          | none => 0))

/-- R304, R310, R313: `epi` with an allowed control word, output format, stride and alignment, its rows and its bias inside their
spaces, of an OPEN tile, is accepted: the tile is DRAINING, and a job to write 64 rows is charged to the lowest lane. -/
def Sys2Proof.Claims.EpiloguesAreAccepted : Prop :=
  ∀ (f : Fields) (cur : Cur) (s : State) (m : MTile) (compl : Compl), Executes (.epi f) f cur s →
    let e := envOf s cur f
    let ctl := e.usrc f.sc.toNat
    let out := wfld e.p.fmt 18 14
    let rb := 8 * container out
    let st := if wfld ctl 47 32 = 0 then rb else wfld ctl 47 32
    let d := mfld f 5 4
    let a := wrapSp d (e.usrc f.sa.toNat).toNat
    let b := wrapSp (mfld f 3 2) (e.usrc f.sb.toNat).toNat
    let bias := ctl.getLsbD 4
    wfld ctl 63 48 = 0 → wfld ctl 31 12 = 0 → wfld ctl 7 5 = 0 → wfld ctl 11 8 < 4 → (bias = true → f.sb ≠ 324 ∧ b % 4 = 0) →
    (out ≤ 7 ∨ (14 ≤ out ∧ out ≤ 16)) → st % 8 = 0 → rb ≤ st → a % 64 = 0 →
    e.fixedOut ((List.range 64).map (fun i => (d, wrapSp d (a + i * st), rb)) ++ (if bias then [(mfld f 3 2, b, 256)] else [])) = none →
    e.completion = .ok compl → s.ctl.tileNo e.uid (wfld ctl 3 0) = some m → m.st = .opened →
    ∃ (t : State) (j : Job), exec (.epi f) s = .next t ∧ GoesOn cur s t ∧ SameStores s t ∧
      t.ctl.mtiles = s.ctl.mtiles.map (fun y => if y.uid == m.uid then { y with st := .draining } else y) ∧
      t.ctl.jobs.getLast? = some j ∧ j.team = e.uid ∧ j.who = e.g.who ∧ j.lane = e.chargeLane ∧ j.dsp = d ∧ j.dst = wd a ∧
      j.size = 64 * rb ∧ j.compl = compl ∧ j.accepted = true ∧ j.acceptedAt = s.ctl.cyc ∧
      j.kind = .epi m.uid (BitVec.ofNat 32 f.imm32b) (wfld ctl 11 8) out rb st (if bias then some (mfld f 3 2, b) else none)
        (e.p.fmt.getLsbD 13)

/-- R217, R301, R302, R305: an engine that has granted nothing grants, while an entry of its table is ready, one of the ready
entries: one that has waited for more than 4,096 cycles before all others, else one of the lowest priority number among those
of 0 to 3; no store changes. Its operands come from its lines as they were read when it was accepted; of a line that was absent
then, each byte is the one that stands there, or one that stood there since the party's last `mfence.op` (which, is the model's
choice: log 151). -/
def Sys2Proof.Claims.EnginesGrantReadyEntries : Prop :=
  ∀ (s : State) (engine : Nat), (∀ p ∈ s.ctl.passes, p.engine = engine → p.granted = false) →
    let ready (p : Pass) : Prop := p ∈ s.ctl.passes ∧ p.engine = engine ∧ s.ctl.passReady p = true
    let stood (p : Pass) (l : Loc) (b : Byte) : Prop := b = (s.mem l.sp).get l.key ∨
      ∃ o ∈ s.ctl.olds, o.loc = l ∧ ((s.ctl.team p.team).party p.who).opFence ≤ o.at_ ∧ o.byte = b
    (∃ p, ready p) →
    ∃ (t : State) (p : Pass) (ops ls : List (List Byte)), exec (.matrixGrant engine) s = .next t ∧ SameStores s t ∧ ready p ∧
      ls.length = p.lines.length ∧
      ops = p.inPlace (((List.range p.sizes.length).zip p.sizes).map (fun z => p.bytesFrom (p.lines.zip ls) z.1 z.2)) ∧
      (∀ i l, p.lines[i]? = some l → (p.ops.getD i [] ≠ [] → ls.getD i [] = p.ops.getD i []) ∧
        (p.ops.getD i [] = [] → (ls.getD i []).length = 64 ∧ ∀ k, k < 64 → stood p (l.plus k) ((ls.getD i []).getD k 0))) ∧
      { p with granted := true, ops := ops, got := s.ctl.spare engine } ∈ t.ctl.passes ∧
      (∀ q, ready q → q.acceptedAt + 4096 < s.ctl.cyc → p.acceptedAt + 4096 < s.ctl.cyc) ∧
      (∀ q, ready q → q.prio ≤ 3 → (∀ r, ready r → s.ctl.cyc ≤ r.acceptedAt + 4096) → p.prio ≤ q.prio)

/-- R89, R302, R303, R308, R317: a granted entry that has its unit-cycles ends. A pass gives each element of its tile the chunks of
its row and column in order, or the immediate above the diagonal of a triangular one; a `vxm` of one row gives its lane y
and gst its flags. -/
def Sys2Proof.Claims.PassesCompute : Prop :=
  ∀ (s : State) (engine : Nat) (p : Pass),
    s.ctl.passes.find? (fun q => q.engine == engine && q.granted && decide (16 * q.cycles ≤ q.got)) = some p →
    ∃ t, exec (.passEnd engine) s = .next t ∧ SameBytes s t ∧ (∀ q ∈ t.ctl.passes, q.id ≠ p.id) ∧
      (∀ tile tri doff imm bstr a b sa sb, p.kind = .mmx tile tri doff imm bstr a b sa sb → SameRegs s t ∧
        ∀ m ∈ s.ctl.mtiles, m.uid = tile → m.st ≠ .closing →
          let el (n : Nat) : BitVec 32 × Nat :=
            if tri = true ∧ doff < ((n % 64 : Nat) : Int) - ((n / 64 : Nat) : Int) then (imm, 0)
            else
              let r := (List.range (kOf p.fa / 64)).foldl (fun (z : Nat × Nat) c =>
                ((chunk p.fa p.fb z.1 (chunkOf p.fa p.fb bstr p.ops (n / 64) (n % 64) c)).1,
                 z.2 ||| (chunk p.fa p.fb z.1 (chunkOf p.fa p.fb bstr p.ops (n / 64) (n % 64) c)).2)) ((m.els.getD n 0).toNat, 0)
              (BitVec.ofNat 32 r.1, r.2)
          { m with els := (List.range 4096).map (fun n => (el n).1),
                   status := m.status ||| orFlags ((List.range 4096).map (fun n => (el n).2)) } ∈ t.ctl.mtiles) ∧
      (∀ row vec k ops, s.wf → p.kind = .vxm [row] vec [k] → p.ops = [ops] →
        Landed s t p.team k (wd (vxmLane p vec ops row.2.2).1) ∧ t.a = s.a ∧
        (s.ctl.hasTeam p.team = true → t.csrOf p.team p.who.idx 0 =
          s.csrOf p.team p.who.idx 0 ||| (wd (vxmLane p vec ops row.2.2).2 &&& csrLayout 0)))

/-- R304: the epilogue at the head of an engine's queue, once no pass of its tile is left and every byte of its rows (no two of
them the same) can be reached, writes each row's elements, scaled, biased, activated and converted, and nothing else; the
tile and the job are gone. -/
def Sys2Proof.Claims.EpiloguesWriteTheirRows : Prop :=
  ∀ (s s1 s2 : State) (engine : Nat) (j : Job) (m : MTile) (tile : Nat) (sc : BitVec 32) (act out rb st : Nat)
    (bias : Option (Nat × Nat)) (satc : Bool) (bs xs : List ByteAt) (ls : List Loc), s.wf → s2.wf →
    s.ctl.headEpi engine = some j → j.kind = .epi tile sc act out rb st bias satc → j.err = none → j.accepted = true →
    j.compl = .none → s.ctl.mtiles.find? (fun y => y.uid == tile) = some m → (∀ p ∈ s.ctl.passes, p.onTile tile = false) →
    s2.ctl.theJob j.id j → j.size = 64 * rb → rb = 8 * container out →
    Runs (jobReachAll j false false (match bias with
      | none => []
      | some b => spreadBytes [(b.1, b.2, 256)])) s (.ok bs) s1 →
    Runs (jobReachAll j true false (spreadBytes ((List.range 64).map (fun i => (j.dsp, j.dst.toNat + i * st, rb))))) s1 (.ok xs) s2 →
    xs = ls.map ByteAt.at_ → ls.Nodup →
    let bb := bs.map (fun x => match x with
      | .at_ l => (s1.mem l.sp).get l.key
      | _ => (0 : Byte))
    let el (n : Nat) : Nat × Nat :=
      epiElem m.int sc act out satc (if bias.isSome then some (ofBytes ((bb.drop (n % 64 * 4)).take 4)) else none) (m.els.getD n 0)
    ∃ t, exec (.epilogueComplete engine) s = .next t ∧ (∀ x ∈ t.ctl.mtiles, x.uid ≠ m.uid) ∧ (∀ q ∈ t.ctl.jobs, q.id ≠ j.id) ∧
      t.v = s2.v ∧ t.vi = s2.vi ∧ t.a = s2.a ∧ t.w = s2.w ∧ t.k = s2.k ∧
      (∀ sp key, (∀ l ∈ ls, ¬(l.sp = sp ∧ l.key = key)) → (t.mem sp).get key = (s2.mem sp).get key) ∧
      ∀ i l, ls[i]? = some l → (t.mem l.sp).get l.key =
        (packRow (container out) ((List.range 64).map (fun k => (el (i / rb * 64 + k)).1))).getD (i % rb) 0

/-- R306, R307: a step of a die's slew limiter begins when grant and demand differ, or one step time after the last one of a run;
the grant rises by at most RISE towards the demand and not above CAP, and a fall by at most FALL is announced for the next
step. -/
def Sys2Proof.Claims.SlewStepsBoundTheGrant : Prop :=
  ∀ (s : State) (die : Nat), die < 8 → die < s.ctl.slews.length →
    let x := s.ctl.slews.getD die Slew.init
    let d := ((List.range 16).map (s.ctl.demand die)).sum
    ∃ t, exec (.slewStep die) s = .next t ∧ SameStores s t ∧
      (let y := t.ctl.slews.getD die Slew.init
       (x.running = false → x.held.sum = d → y = x) ∧
       ((if x.running then x.stepAt + x.step ≤ s.ctl.cyc else x.held.sum ≠ d) →
         y.stepAt = s.ctl.cyc ∧ y.step = x.step ∧ y.rise = x.rise ∧ y.fall = x.fall ∧ y.cap = x.cap ∧
         (x.pendingFall = none → x.held.sum < d → y.pendingFall = none ∧
           y.held.sum ≤ max x.held.sum (min d (min x.cap (x.held.sum + x.rise)))) ∧
         (x.pendingFall = none → d < x.held.sum → y.pendingFall = some (max d (x.held.sum - x.fall)))))

/-- R323, R325, R326, R327, R335: `prim.open` of a number that is open returns 1, of a descriptor that is misaligned or not well
formed 2, else it opens the stream and returns 0. `prim` appends a well-formed record, present in team memory, for the dies
whose regions it may touch and returns its sequence number. `prim.close` closes the stream with a marker to every die. -/
def Sys2Proof.Claims.PrimitivesAreStreamed : Prop :=
  ∀ (f : Fields) (cur : Cur) (s : State), s.wf →
    let e := envOf s cur f
    let a := (e.usrc f.sa.toNat).toNat
    let n := scfld f 1 0
    let answers (i : Instr) (b : State) (x : Nat) (p : State → Prop) : Prop :=
      ∃ t, exec i s = .next t ∧ GoesOn cur s t ∧ SameBytes b t ∧ WroteW e s t (wd x) ∧ p t
    (Executes (.primOpen f) f cur s → (s.ctl.stream e.t.rctx n).isSome = true →
      answers (.primOpen f) s 1 (fun t => t.ctl.streams = s.ctl.streams)) ∧
    (Executes (.primOpen f) f cur s → s.ctl.stream e.t.rctx n = none → a % 64 ≠ 0 →
      answers (.primOpen f) s 2 (fun t => t.ctl.streams = s.ctl.streams)) ∧
    (∀ s1 w, Executes (.primOpen f) f cur s → s.ctl.stream e.t.rctx n = none → a % 64 = 0 →
      Runs (e.spatRecord 0 a) s (.ok w) s1 → SameRegs s s1 →
      (panelOf w = none → answers (.primOpen f) s1 2 (fun t => t.ctl.streams = s1.ctl.streams)) ∧
      (∀ p, panelOf w = some p → answers (.primOpen f) s1 0 (fun t => ∃ q, t.ctl.streams = s1.ctl.streams ++ [q] ∧
        q.rctx = e.t.rctx ∧ q.num = n ∧ q.team = e.uid ∧ q.die = e.t.die ∧ (q.w, q.h, q.nv, q.fbo, q.vbo) = p ∧ q.nextSeq = 0 ∧
        q.prims = [] ∧ q.closing = false))) ∧
    (∀ st, s.ctl.stream e.t.rctx n = some st → st.team = e.uid → st.closing = false →
      (∀ q ∈ s.ctl.streams, q.id = st.id → q = st) →
      (∀ l vs cull pid,
        let dies := boxDies vs st.w st.h st.nv
        Executes (.prim f) f cur s → a % 2 ^ 32 % 64 = 0 → classify s.ctl e.t 1 (a % 2 ^ 32) 64 = .data l →
        s.ctl.wouldBar (e.entry 0 0 .read [{ lane := 0, loc := l, n := 64, vs := 1, va := a % 2 ^ 32, data := 0, data2 := 0,
                                             sink := .none }]) = false →
        s.ctl.absent e.uid (tmLine l) = false →
        primOf ((List.range 8).map (fun i => wd (s.load (l.plus (8 * i)) 8))) = some (vs, cull, pid) →
        (∀ d ∈ dies, (st.prims.filter (fun p => p.dies.any (fun x => x.1 == d))).length < 64) →
        answers (.prim f) s st.nextSeq (fun t => ∃ q ∈ t.ctl.streams, q.id = st.id ∧ q.nextSeq = (st.nextSeq + 1) % 2 ^ 32 ∧
          q.prims = st.prims ++ (if dies = [] then [] else
            [{ seq := st.nextSeq, vs := vs, cull := cull, pid := pid, dies := dies.map (fun d => (d, 0)) }]))) ∧
      (Executes (.primClose f) f cur s → ∃ t, exec (.primClose f) s = .next t ∧ GoesOn cur s t ∧ SameStores s t ∧
        { st with closing := true, markerDies := List.range 8 } ∈ t.ctl.streams))

/-- R326, R327, R328, R335: the sweep of a die appends the covered tiles of the first record it has left to the consumer's queue, in
order, as far as there is room. `ptile.bind` makes the team the consumer where there is none; `ptile` of a group that holds
no tile takes the first tile of the queue and returns its word, or all ones for the end marker and for a team that is not
the consumer; `ptile.done` retires the group's tile. -/
def Sys2Proof.Claims.TilesReachTheirConsumer : Prop :=
  (∀ (s : State) (die rctx n : Nat) (st : Stream) (p : Prim) (b : Binding), s.ctl.stream rctx n = some st →
    s.ctl.stalled st.die die = false → st.prims.find? (fun p => p.dies.any (fun d => d.1 == die)) = some p →
    s.ctl.binding rctx n die = some b →
    let ts := (st.tilesOn p die).drop (((p.dies.find? (fun d => d.1 == die)).map (·.2)).getD 0)
    let room := 64 - (s.ctl.queueOf b).length
    ∃ (t : State) (new : List RTile), exec (.primRecordSweep die rctx n) s = .next t ∧ SameStores s t ∧
      t.ctl.rtiles = s.ctl.rtiles ++ new ∧ new.map (fun x => (x.b, x.ty, x.tx)) = ts.take room ∧
      ∀ x ∈ new, x.stream = st.id ∧ x.die = die ∧ x.seq = p.seq ∧ x.vs = p.vs ∧ x.pid = p.pid ∧ x.marker = false ∧
        x.state = .queued) ∧
  (∀ (f : Fields) (cur : Cur) (s : State), s.wf →
    let e := envOf s cur f
    let n := scfld f 1 0
    let own := s.ctl.binding e.t.rctx n e.t.die
    let answers (i : Instr) (x : Word) (p : State → Prop) : Prop :=
      ∃ t, exec i s = .next t ∧ GoesOn cur s t ∧ SameBytes s t ∧ WroteW e s t x ∧ p t
    (Executes (.ptileBind f) f cur s →
      (∀ b, own = some b → answers (.ptileBind f) (if b.team = e.uid then 0 else 1) (fun t => t.ctl.binds = s.ctl.binds)) ∧
      (own = none → answers (.ptileBind f) 0 (fun t => t.ctl.binds =
        s.ctl.binds ++ [{ rctx := e.t.rctx, num := n, die := e.t.die, team := e.uid }]))) ∧
    (Executes (.ptile f) f cur s → e.g.tile = none →
      (∀ b x r, own = some b → b.team = e.uid → s.ctl.queueOf b = x :: r → x.marker = false →
        answers (.ptile f) (wd (x.pid.toNat * 2 ^ 32 + x.b * 2 ^ 24 + x.ty * 2 ^ 12 + x.tx)) (fun t =>
          { x with state := .held } ∈ t.ctl.rtiles ∧ (t.groupOf cur.p).tile = some { stream := x.stream, tile := x.id })) ∧
      (∀ b x r, own = some b → b.team = e.uid → s.ctl.queueOf b = x :: r → x.marker = true →
        answers (.ptile f) allOnes (fun t => b ∉ t.ctl.binds ∧ x ∉ t.ctl.rtiles)) ∧
      ((∀ b, own = some b → b.team ≠ e.uid) → answers (.ptile f) allOnes (fun t => t.ctl.binds = s.ctl.binds))) ∧
    (Executes (.ptileDone f) f cur s → ∃ t, exec (.ptileDone f) s = .next t ∧ GoesOn cur s t ∧ SameStores s t ∧
      (t.groupOf cur.p).tile = none))

/-- R324, R330, R331, R337: with a tile, `edge` gives an edge's value or the area at a lane's pixel in its view; `edgev` writes the
first and the last covered view of its facing to a view-interval register, or the empty interval; `vmask` the mask of an
interval; `vimov` moves a word between a lane register and a view-interval register. -/
def Sys2Proof.Claims.EdgesAndIntervals : Prop :=
  ∀ (f : Fields) (cur : Cur) (s : State) (t0 : RTile), s.wf →
    let e := envOf s cur f
    let ls := lanesOf e.ex e.gw
    let px (l : Nat) : Nat := e.n32 f.sa.toNat l % 64
    let x (l : Nat) : Nat := 8 * t0.tx + px l % 8
    let y (l : Nat) : Nat := 8 * t0.ty + px l / 8
    let gv (l : Nat) : Nat := 64 * t0.b + e.n32 f.sb.toNat l % 64
    let vi (l : Nat) : Nat := (s.vi.get (viKey e.uid e.g.who.idx l (f.sa.toNat - 328))).toNat
    let writes (i : Instr) (p : Nat → Nat → Prop) : Prop :=
      ∃ t, exec i s = .next t ∧ GoesOn cur s t ∧ SameBytes s t ∧ t.v = s.v ∧ t.a = s.a ∧ t.w = s.w ∧ t.k = s.k ∧ t.csr = s.csr ∧
        (f.ws = false → ∀ l ∈ ls, p l (t.vi.get (viKey e.uid e.g.who.idx l (f.dst.toNat - 328))).toNat) ∧
        ∀ key, (f.ws = true ∨ ∀ l ∈ ls, key ≠ viKey e.uid e.g.who.idx l (f.dst.toNat - 328)) → t.vi.get key = s.vi.get key
    e.tile = some t0 →
    (Executes (.edge f) f cur s → RegisterOnly (.edge f) f cur s (fun _ => 64) (fun _ => false) (fun _ l =>
      (wrapInt 64 (if mfld f 1 0 = 3 then
          edgeAt t0.vs (x l) (y l) (gv l) 0 + edgeAt t0.vs (x l) (y l) (gv l) 1 + edgeAt t0.vs (x l) (y l) (gv l) 2
        else edgeAt t0.vs (x l) (y l) (gv l) (mfld f 1 0)), 0))) ∧
    (Executes (.edgev f) f cur s → writes (.edgev f) (fun l z =>
      let cov (v : Nat) : Bool := decide (v < 64) &&
        covered t0.vs t0.cull t0.w t0.h t0.nv (x l) (y l) (64 * t0.b + v) (if f.mod.getLsbD 0 then -1 else 1)
      ((∀ v, cov v = false) → z = 0x10000) ∧
      ∀ v, cov v = true → z < 0x10000 ∧ cov (z % 256) = true ∧ cov (z / 256) = true ∧ z % 256 ≤ v ∧ v ≤ z / 256)) ∧
    (Executes (.vmask f) f cur s → RegisterOnly (.vmask f) f cur s (fun _ => 64) (fun _ => false) (fun _ l =>
      ((if bitOf (vi l) 16 then (0 : Word) else
        maskOf ((List.range 64).filter (fun v => decide (fld (vi l) 5 0 ≤ v) && decide (v ≤ fld (vi l) 13 8)))).toNat, 0))) ∧
    (Executes (.vimov f) f cur s → f.mod.getLsbD 0 = false →
      RegisterOnly (.vimov f) f cur s (fun _ => 32) (fun _ => false) (fun _ l => (vi l, 0))) ∧
    (Executes (.vimov f) f cur s → f.mod.getLsbD 0 = true → writes (.vimov f) (fun l z =>
      let w := e.v f.sa.toNat l
      z = if bitOf w 16 = true ∨ fld w 13 8 < fld w 5 0 then 0x10000 else w &&& 0x3F3F))

/-- R218, R333, R338: with a tile, `zview` and `rop.w` hand their lanes' pixels and masks, cut to the covered views, to the raster
output; `rop.rel` posts its release and the arrival behind everything that the group has handed over. No byte and no
register changes yet. -/
def Sys2Proof.Claims.RasterWorkIsHandedOver : Prop :=
  ∀ (f : Fields) (cur : Cur) (s : State),
    let e := envOf s cur f
    let ls := lanesOf e.ex e.gw
    let hands (i : Instr) (t0 : RTile) (op : ROp) (colour : Nat → BitVec 32) (sink : Nat → Sink) : Prop :=
      ∃ (t : State) (r : REntry), exec i s = .next t ∧ GoesOn cur s t ∧ SameStores s t ∧
        t.ctl.rents = s.ctl.rents ++ [r] ∧ r.die = t0.die ∧ r.team = e.uid ∧ r.who = e.g.who ∧ r.tile = t0.id ∧ r.op = op ∧
        r.lanes = ls.map (fun l => (l, e.n32 f.sa.toNat l % 64, e.opnd f.sb.toNat l true 0 &&& maskOf ((List.range 64).filter (fun v =>
          t0.cov (e.n32 f.sa.toNat l % 64) v 1 || t0.cov (e.n32 f.sa.toNat l % 64) v (-1))), colour l, sink l))
    (∀ t0, e.tile = some t0 → ls = [] →
      (Executes (.zview f) f cur s → ∃ t, exec (.zview f) s = .next t ∧ OnlyGoesOn (.zview f) e s t) ∧
      (Executes (.ropW f) f cur s → ∃ t, exec (.ropW f) s = .next t ∧ OnlyGoesOn (.ropW f) e s t)) ∧
    (∀ t0, e.tile = some t0 → ls ≠ [] →
      (Executes (.zview f) f cur s →
        hands (.zview f) t0 (.zview (mfld f 5 4) (f.mod.getLsbD 3)) (fun _ => 0) (fun l => e.sinkFor l 64 false true)) ∧
      (Executes (.ropW f) f cur s →
        hands (.ropW f) t0 .ropw (fun l => BitVec.ofNat 32 (e.n32 f.sc.toNat l)) (fun _ => .none))) ∧
    (∀ l, Executes (.ropRel f) f cur s → e.atWord l true →
      ∃ (t : State) (x : Entry) (r : REntry), exec (.ropRel f) s = .next t ∧ GoesOn cur s t ∧ SameStores s t ∧
        t.ctl.entries = s.ctl.entries ++ [x] ∧ e.owns x ∧ x.rel = true ∧ x.act = .fin .nothing ∧
        x.scope = (if l.sp = .tm then 1 else 3) ∧ t.ctl.rents = s.ctl.rents ++ [r] ∧ r.team = e.uid ∧ r.who = e.g.who ∧
        r.op = .rel l e.barOff ((lowest e.ex).getD 0) ∧ x.id ∈ r.waits ∧
        ∀ q ∈ s.ctl.rents, q.team = e.uid → q.who = e.g.who → q.lanes ≠ [] → q.id ∈ r.waits)

/-- R332, R333, R338: an entry that no earlier one of its tile or screen tile precedes is applied. A `rop.w` of one lane stores its
colour in the frame cell of every view of its mask and nothing else; a `zview` of one lane and view compares the sample's
depth with the stored one, stores it where it passes and W is set, and gives the lane the views that passed. A `rop.rel`
whose waits are over counts one arrival of its word. -/
def Sys2Proof.Claims.RasterWorkIsApplied : Prop :=
  ∀ (s : State) (r : REntry) (t0 : RTile) (l pix : Nat) (m : Word) (colour : BitVec 32) (k : Sink), s.wf →
    let cell (base v : Nat) : Nat := base + 4 * cellOf t0.w t0.nv (8 * t0.tx + pix % 8) (8 * t0.ty + pix / 8) (64 * t0.b + v)
    (s.ctl.rents.find? (fun q => q.id == r.id && q.lanes != []) = some r → r.lanes = [(l, pix, m, colour, k)] →
      s.ctl.rtiles.find? (fun x => x.id == r.tile) = some t0 → s.ctl.ropBehind r t0 = false →
      (r.op = .ropw → k = .none → (∀ v ∈ lanesOf m 64, cell t0.fbo v + 4 ≤ 2 ^ 27) →
        ∃ t, exec (.rasterApply r.id) s = .next t ∧ SameRegs s t ∧ r ∉ t.ctl.rents ∧
          (∀ v ∈ lanesOf m 64, t.load (dpLoc t0.die (cell t0.fbo v)) 4 = colour.toNat) ∧
          ∀ sp key, (∀ v ∈ lanesOf m 64, ¬(sp = .dp ∧ (dpLoc t0.die (cell t0.fbo v)).key ≤ key ∧
            key < (dpLoc t0.die (cell t0.fbo v)).key + 4)) → (t.mem sp).get key = (s.mem sp).get key) ∧
      (∀ test w v, r.op = .zview test w → lanesOf m 64 = [v] → cell t0.vbo v + 4 ≤ 2 ^ 27 →
        let at_ := dpLoc t0.die (cell t0.vbo v)
        let z := depthAt t0.vs (8 * t0.tx + pix % 8) (8 * t0.ty + pix / 8) (64 * t0.b + v)
        let o := fcompare (f32.unpack z) (f32.unpack (s.load at_ 4))
        let ok := test = 0 ∧ o = some .lt ∨ test = 1 ∧ (o = some .lt ∨ o = some .eq) ∨ 2 ≤ test
        ∃ t, exec (.rasterApply r.id) s = .next t ∧ r ∉ t.ctl.rents ∧ SameBytesBut s t at_ 4 ∧ t.a = s.a ∧ t.csr = s.csr ∧
          (ok → w = true → t.load at_ 4 = z % 2 ^ 32) ∧ (¬ok ∨ w = false → SameBytes s t) ∧
          (ok → Landed s t r.team k (maskOf [v])) ∧ (¬ok → Landed s t r.team k (maskOf [])))) ∧
    (∀ w off, s.ctl.rents.find? (fun q => q.id == r.id) = some r → r.op = .rel w off l →
      (∀ y ∈ r.waits, (∀ o ∈ s.ctl.entries, o.id ≠ y) ∧ ∀ q ∈ s.ctl.rents, q.id ≠ y) → (s.ctl.barAt w).isSome = true →
      let b := s.barWordAt w
      ∀ w1 n ov, b.expa ≠ 0 ∨ b.expb ≠ 0 → b.Counts 1 0 w1 n ov →
      ∃ t, exec (.ropRelServe r.id) s = .next t ∧ SameBytesBut s t w 16 ∧ (∀ q ∈ t.ctl.rents, q.id ≠ r.id) ∧
        t.barWordAt w = w1 ∧ OverCharged s t r.team r.who.idx ov ∧ (n ≠ 0 → WaitersReleased t w))

/-- R29, R357, R359, R364, R368: `launch` of an aligned record whose image, header and frame have been read returns the status of
R368. With status 0 the record follows behind a release at `.dev`, with its header, frame, counters, indices, buffers and a
priority that is not above its team's; otherwise nothing is enqueued. -/
def Sys2Proof.Claims.LaunchesEnqueueRecords : Prop :=
  ∀ (f : Fields) (cur : Cur) (s s1 s2 s3 s4 s5 : State) (ws hdr frame : List Word) (j w : Option (Option Nat)),
    Executes (.launch f) f cur s → s.wf →
    let e := envOf s cur f
    let a := (e.usrc f.sa.toNat).toNat
    let ha := (ws.getD 0 0).toNat
    let fa := (ws.getD 1 0).toNat
    let st := recordStatus ws hdr (s3.ctl.ctx e.t.rctx).tbn
    let enqueues (b : State) (x : Nat) (p : State → Prop) : Prop :=
      ∃ t, exec (.launch f) s = .next t ∧ GoesOn cur s t ∧ SameBytes b t ∧ WroteW e s t (wd x) ∧ p t
    a % 64 = 0 → Runs (e.readBlocks a 1) s (.ok ws) s1 → Runs (e.readBlocks ha (if ha % 64 = 0 then 2 else 0)) s1 (.ok hdr) s2 →
    Runs (e.readBlocks fa (if fa = 0 ∨ fa % 64 ≠ 0 then 0 else 7)) s2 (.ok frame) s3 → SameRegs s s3 →
    (st ≠ 0 → enqueues s3 st (fun t => t.ctl.entries = s3.ctl.entries)) ∧
    (st = 0 → Runs (e.joinAt (ws.getD 2 0)) s3 (.ok j) s4 → Runs (e.joinAt (ws.getD 3 0)) s4 (.ok w) s5 → SameRegs s s5 →
      (j = none ∨ w = none → enqueues s5 9 (fun t => t.ctl.entries = s5.ctl.entries)) ∧
      (j ≠ none → w ≠ none → s3.ctl.queueFull e.t.rctx = true → enqueues s5 8 (fun t => t.ctl.entries = s5.ctl.entries)) ∧
      (∀ j1 w1, j = some j1 → w = some w1 → s3.ctl.queueFull e.t.rctx = false → enqueues s5 0 (fun t =>
        ∃ (x : Entry) (r : Rec), t.ctl.entries = s5.ctl.entries ++ [x] ∧ e.owns x ∧ x.rel = true ∧ x.scope = 4 ∧
          x.act = .fin (.launch r) ∧ r.rctx = e.t.rctx ∧ r.hdr = headerOf hdr ∧ r.frame = frame ∧ r.join = j1 ∧ r.waitj = w1 ∧
          r.ixcount = wfld (ws.getD 4 0) 63 32 ∧ r.ixbase = wfld (ws.getD 4 0) 31 0 ∧ r.ins = bufsOf (ws.getD 6 0) ∧
          r.outs = bufsOf (ws.getD 7 0) ∧ r.prio = max (wfld (ws.getD 5 0) 3 0) (s3.ctl.teamPrio e.t) ∧ r.claimed = 0)))

/-- R369, R370: `cjoin` of an aligned counter of this device posts a release at `.dev` and behind it the addition of its operand;
`tbset` of a buffer that the team's record has reserved posts the change to FULL behind a release; `tbclr` of a FULL buffer
makes it EMPTY while no record waits. -/
def Sys2Proof.Claims.CountersAndTileBuffers : Prop :=
  ∀ (f : Fields) (cur : Cur) (s : State),
    let e := envOf s cur f
    let a := (e.usrc f.sa.toNat).toNat
    let x := s.ctl.ctx e.t.rctx
    (∀ s1 l, Executes (.cjoin f) f cur s → a % 8 = 0 → e.Reaches [(0, a)] { rd := true, wr := true, x := false } [(0, l)] s1 →
      l.sp = .dm → s1.ctl.refusedWrites e.t s1 [(0, a)] = [] →
      ∃ (t : State) (fs : List Entry) (q : Entry), exec (.cjoin f) s = .next t ∧ GoesOn cur s t ∧ SameStores s1 t ∧
        t.ctl.entries = s1.ctl.entries ++ fs ++ [q] ∧ fs.map (·.els) = e.entriesOf [] ∧ e.owns q ∧
        (∀ p ∈ fs, e.owns p ∧ p.ins < q.ins ∧ p.act = .fence false true none ∧ p.scope = 4) ∧
        q.act = .cjoin ∧ q.els = [{ lane := 0, loc := l, n := 8, vs := 0, va := a, data := wd ((e.usrc f.sb.toNat).toNat % 2 ^ 32),
                                    data2 := 0, sink := e.sinkFor 0 64 false true }]) ∧
    (∀ r, Executes (.tbset f) f cur s → a < x.tbn → s.ctl.recOf e.t = some r → x.reservedBy a r.id = true →
      ∃ t, exec (.tbset f) s = .next t ∧
        Posts (.tbset f) e s t (fun y => y.act = .fin (.tbset a) ∧ y.rel = true ∧ y.scope = 4) []) ∧
    (Executes (.tbclr f) f cur s → a < x.tbn → x.tb a = 1 → (∀ c ∈ s.ctl.ctxs, ∀ r ∈ c.recs, r.eligible = true) →
      ∃ t, exec (.tbclr f) s = .next t ∧ GoesOn cur s t ∧ SameStores s t ∧ (t.ctl.ctx e.t.rctx).tb a = 0 ∧
        ∀ i, i ≠ a → (t.ctl.ctx e.t.rctx).tb i = x.tb i)

/-- R36, R365, R371, R372: the bobbin's `more.put` appends to the decision queue while it has room, else it parks; `more.get` takes the
group's next entry, and parks where none is there yet. Only entries that every group that has not retired has read leave the
queue. A quantum that ends, by `yield` or by its time, saves a team for whose shares a waiter of no lower priority could
start, or in a power state that only drains; else its timer starts again. -/
def Sys2Proof.Claims.DecisionsAndQuanta : Prop :=
  ∀ (f : Fields) (cur : Cur) (s : State), s.wf →
    let e := envOf s cur f
    let frees (t : State) (dq : List Word) : Prop := ∃ k, (t.ctl.team e.uid).dq = dq.drop k ∧ (t.ctl.team e.uid).dqBase = e.t.dqBase + k ∧
      ∀ g ∈ (t.ctl.team e.uid).groups, g.retired = false → k = 0 ∨ e.t.dqBase + k ≤ g.dqRead
    let parks (i : Instr) : Prop := ∃ t k, exec i s = .next t ∧ SameStores s t ∧ (t.pathOf cur.p).park = some k ∧ k.kind = .decision
    (Executes (.morePut f) f cur s → e.bob = true → e.t.dq.length < 16 →
      ∃ t, exec (.morePut f) s = .next t ∧ GoesOn cur s t ∧ SameStores s t ∧ frees t (e.t.dq ++ [e.usrc f.sa.toNat])) ∧
    (Executes (.morePut f) f cur s → e.bob = true → 16 ≤ e.t.dq.length → parks (.morePut f)) ∧
    (Executes (.moreGet f) f cur s → e.t.bobbin ≠ none → e.t.dqBase ≤ e.g.dqRead → e.g.dqRead < e.t.dqBase + e.t.dq.length →
      e.bob = false →
      ∃ t, exec (.moreGet f) s = .next t ∧ GoesOn cur s t ∧ SameBytes s t ∧
        WroteW e s t (e.t.dq.getD (e.g.dqRead - e.t.dqBase) 0) ∧ (t.groupOf cur.p).dqRead = e.g.dqRead + 1 ∧ frees t e.t.dq) ∧
    (Executes (.moreGet f) f cur s → e.t.noBobbin = false → e.t.dqBase + e.t.dq.length ≤ e.g.dqRead → parks (.moreGet f)) ∧
    (let ends (uid : Nat) (t : State) : Prop :=
       (s.ctl.host.pstate ≠ 0 ∨ s.ctl.waiterFor (s.ctl.team uid) = true → (t.ctl.team uid).phase = .saving) ∧
       (s.ctl.host.pstate = 0 → s.ctl.waiterFor (s.ctl.team uid) = false → (t.ctl.team uid).phase = .running ∧
         (t.ctl.team uid).since = s.ctl.cyc ∧ (t.ctl.team uid).quant = s.ctl.host.quantum * 1800)
     (Executes (.yield f) f cur s → ∃ t, exec (.yield f) s = .next t ∧ GoesOn cur s t ∧ SameStores s t ∧
       (e.t.phase = .running → ends e.uid t) ∧ (e.t.phase ≠ .running → OnlyGoesOn (.yield f) e s t)) ∧
     (∀ uid, s.ctl.hasTeam uid = true → (s.ctl.team uid).phase = .running →
       (s.ctl.team uid).since + (s.ctl.team uid).quant ≤ s.ctl.cyc →
       ∃ t, exec (.quantumExpiry uid) s = .next t ∧ SameStores s t ∧ ends uid t) ∧
     ∀ uid, (s.ctl.team uid).phase ≠ .running ∨ s.ctl.cyc < (s.ctl.team uid).since + (s.ctl.team uid).quant →
       exec (.quantumExpiry uid) s = .next s)

/-- R32, R37, R225, R379, R384, R385: a team that is being saved and has nothing in flight of what its save waits for is saved: its
record of 4 MiB in device memory is written, and no other byte; what a save keeps of its paths stays. One that the host
services is reported with the trap that it took, and after a double trap with the frame that its group holds. The first
claimant of a core among the saved teams runs again there, behind every entry of before, once its record has passed its
seals. A team whose parties have retired drains, and then is gone: its registers and its memory read zero. What the record
holds is the model's choice (log 64). -/
def Sys2Proof.Claims.TeamsAreSavedRestoredAndRetired : Prop :=
  ∀ (s : State) (uid core : Nat), s.wf → s.ctl.hasTeam uid = true →
    let x := s.ctl.team uid
    let saves (a b : State) (ph : Phase) (rs : List Report) : Prop := ∃ t, exec (.contextSave uid) s = .next t ∧ SameRegs a t ∧
      SameBytesBut a t (dmLoc (s.ctl.saveAddr x)) (2 ^ 22) ∧ t.ctl.host.reports = b.ctl.host.reports ++ rs ∧
      t.ctl.team uid = { (b.ctl.team uid).mapPaths Path.saved with phase := ph, savedAt := s.ctl.cyc, unit := none } ∧
      ∀ m ∈ t.ctl.mtiles, m.team = uid → m.engine = 128
    (∀ s1, s.saveReady x = true → x.service = none → Runs (writeRecord x) s () s1 → saves s s1 .saved []) ∧
    (∀ v s1 s2 fr, s.saveReady x = true → x.service = some v → Runs (heldFrame x v) s (some fr) s1 → Runs (writeRecord x) s1 () s2 →
      (v.double = false → fr = []) ∧
      saves s1 s2 .serviced [.service x.rctx x.die (x.coreOf v.who) x.slot uid v fr]) ∧
    (∀ v s1, s.saveReady x = true → x.service = some v → Runs (heldFrame x v) s none s1 → exec (.contextSave uid) s = .next s1) ∧
    (s.saveReady x = false → exec (.contextSave uid) s = .next s) ∧
    (∀ s1, x.phase = .saved → s.mayClaim x.die core (.saved uid) = true → Runs (readRecord x) s true s1 →
      ∃ t, exec (.contextRestore uid core) s = .next t ∧ SameRegs s t ∧ (t.ctl.team uid).phase = .running ∧
        (t.ctl.team uid).groups = (x.mapPaths s.restored).groups ∧ (t.ctl.team uid).bobbin = (x.mapPaths s.restored).bobbin ∧
        (t.ctl.team uid).core = core ∧ (t.ctl.team uid).since = s.ctl.cyc ∧ (t.ctl.team uid).drainTo = s.ctl.nextId ∧
        (t.ctl.team uid).code = s.ctl.ver ∧ ∀ u, (t.ctl.team uid).unit = some u → u ∈ s.ctl.unitsFor x core) ∧
    (∀ s1, x.phase = .saved → s.mayClaim x.die core (.saved uid) = true → Runs (readRecord x) s false s1 →
      exec (.contextRestore uid core) s = .next s1) ∧
    (x.phase ≠ .saved ∨ s.mayClaim x.die core (.saved uid) = false → exec (.contextRestore uid core) s = .next s) ∧
    (x.phase = .running ∨ x.phase = .saving → x.allRetired = true →
      ∃ t, exec (.teamRetire uid) s = .next t ∧ SameStores s t ∧ (t.ctl.team uid).phase = .retiring) ∧
    (x.phase = .retiring → s.ctl.drained uid = false → exec (.teamRetire uid) s = .next s) ∧
    (x.phase = .retiring → s.ctl.drained uid = true → x.uid = uid →
      ∃ t, exec (.teamRetire uid) s = .next t ∧ (∀ y ∈ t.ctl.teams, y.uid ≠ uid) ∧
        (∀ p l n, p < 128 → l < 64 → n < 256 → t.v.get (vKey uid p l n) = 0) ∧
        (∀ p n, p < 128 → n < 128 → t.w.get (wKey uid p n) = 0) ∧ (∀ p n, p < 128 → n < 8 → t.csr.get (csrKey uid p n) = 0) ∧
        ∀ o, o < 2 ^ 32 → t.tm.get (tmLoc uid o).key = 0)

/-- R49, R51, R376, R377, R379, R382: `trap`, `brkpt` and every word that is no instruction take their trap: from a group outside a
trap, with a handler and a frame page that can be written, at the handler; in a trap, without a handler or a frame, and from
the bobbin, at the host. A live pair's other path has been demoted. While the frame page has still to be translated or its tile to
be filled, the trap waits and its instruction executes again (the model's choice: log 144). -/
def Sys2Proof.Claims.TrapsAreTaken : Prop :=
  ∀ (i : Instr) (f : Fields) (cur : Cur) (s : State) (r : TrapReq), s.wf →
    (Executes i f cur s ∨ s.ctl.cur = some cur ∧ s.ctl.stands cur.p = true ∧ ∃ bits why, i = .reservedEncoding bits why ∧
      f = unpack (bits.setWidth 64) .none) →
    let e := envOf s cur f
    trapRule e i = some r → e.p.helper = none → r.lanes &&& e.p.act ≠ 0 → (∀ q ∈ e.g.live, q.pid ≠ e.p.pid → q.doomed = none) →
    (∀ s0, e.bob = false → e.g.inTrap = false → s.csrOf e.uid e.g.who.idx 2 ≠ 0 → Runs (demote e.uid e.g.who e.p.pid) s () s0 →
      let frame := frameReach (e.t.engine e.g.who) e.t.rctx (s.csrOf e.uid e.g.who.idx 3).toNat
      (∀ s1 l, Runs frame s0 (.ok l) s1 → ∃ t, exec i s = .next t ∧ Entered s s1 t e r l) ∧
      (∀ s1, Runs frame s0 .wait s1 → ∃ t, exec i s = .next t ∧ SameStores s1 t ∧ (t.pathOf cur.p).pc = cur.pc ∧
        (t.groupOf cur.p).inTrap = false) ∧
      ∀ s1 c b, Runs frame s0 (.fault c b) s1 → ∃ t, exec i s = .next t ∧ Serviced s1 t e r) ∧
    (e.bob = true ∨ e.g.inTrap = true ∨ s.csrOf e.uid e.g.who.idx 2 = 0 →
      ∃ t, exec i s = .next t ∧ Serviced s t e r)

/-- R382: `tret` in a trap whose frame can be read and names the depths of the two stacks goes on at the frame's PC, or at NPC for
`.nx`, in the lanes of the frame that have not retired, at user level, with the frame's `fmt` and flags; the group is out of
its trap. -/
def Sys2Proof.Claims.TretRestoresTheFrame : Prop :=
  ∀ (f : Fields) (cur : Cur) (s s1 : State) (fr : List Word), Executes (.tret f) f cur s → s.wf →
    let e := envOf s cur f
    let act := fr.getD 3 0 &&& gwMask e.gw &&& ~~~e.g.gone
    e.g.inTrap = true → e.g.recruit = none → Runs e.readFrame s (.ok fr) s1 → SameRegs s s1 →
    wfld (fr.getD 75 0) 15 0 = e.g.nr → wfld (fr.getD 75 0) 31 16 = e.g.na → act ≠ 0 →
    ∃ t, exec (.tret f) s = .next t ∧ SameBytes s1 t ∧ t.v = s.v ∧ t.vi = s.vi ∧ t.a = s.a ∧ t.w = s.w ∧ t.k = s.k ∧
      (t.pathOf cur.p).pc = (if f.mod.getLsbD 0 then fr.getD 72 0 else fr.getD 0 0) ∧ (t.pathOf cur.p).act = act ∧
      (t.pathOf cur.p).fmt = fmtAll (s.pathOf cur.p).fmt.toNat (fr.getD 6 0).toNat ∧ (t.groupOf cur.p).inTrap = false ∧ (t.groupOf cur.p).held = 0 ∧
      t.csrOf e.uid e.home 0 = (s.csrOf e.uid e.home 0 &&& ~~~(0x307F : Word)) ||| (fr.getD 7 0 &&& 0x7F) ∧
      ∀ key, key ≠ csrKey e.uid e.home 0 → t.csr.get key = s.csr.get key

/-- R21, R228, R378, R382: `rdtf` and `wrtf` post the reads and writes of the frame page's doublewords, by lane or once, but NA and
NR, which `wrtf` leaves; `sfence`, when nothing that the group issued is outstanding, a ring send or an arrival of a raster
output among it, and it holds no hit and no fault, posts a full fence at `.sys`. -/
def Sys2Proof.Claims.FrameAccessesAndSfence : Prop :=
  ∀ (f : Fields) (cur : Cur) (s s1 : State) (os : List (Nat × Loc)),
    let e := envOf s cur f
    let at_ (k : Nat) : Nat := (s.csrOf e.uid e.home 3).toNat + (8 * scfld f 8 0 + 8 * k) % 4096
    let xs := if f.u then [(0, at_ (e.usrc f.sb.toNat).toNat)] else (lanesOf e.ex e.gw).map (fun l => (l, at_ l))
    (Executes (.rdtf f) f cur s → e.Reaches xs { rd := true, wr := false, x := false } os s1 →
      ∃ t, exec (.rdtf f) s = .next t ∧ Posts (.rdtf f) e s1 t (fun x => x.act = .read ∧ x.cnt = none)
        ((joinLocs os xs).map (fun x => { lane := x.1, loc := x.2.1, n := 8, vs := 0, va := x.2.2, data := 0, data2 := 0,
                                          sink := e.sinkFor x.1 64 false true }))) ∧
    (Executes (.wrtf f) f cur s → e.Reaches xs { rd := false, wr := true, x := false } os s1 →
      ∃ t, exec (.wrtf f) s = .next t ∧ Posts (.wrtf f) e s1 t (fun x => x.act = .write)
        ((highest (joinLocs os xs)).map (fun x =>
          let d := if x.2.2 = (s.csrOf e.uid e.home 3).toNat + 0x258 then 4 else 0
          { lane := x.1, loc := x.2.1.plus d, n := 8 - d, vs := 0, va := x.2.2 + d,
            data := wd ((e.opnd f.sa.toNat x.1 (!f.u) 0).toNat / 256 ^ d), data2 := 0, sink := .none }))) ∧
    (Executes (.sfence f) f cur s → e.outstanding = false → e.g.due = none →
      ∃ t, exec (.sfence f) s = .next t ∧
        Posts (.sfence f) e s t (fun x => x.act = .fence true true none ∧ x.scope = 6) [])

/-- R34, R148, R157, R347: a parked path whose condition has not come stays as it is; when it has come, a `wait` has completed, a
`texq.w` has completed with its values in their registers, and every other instruction executes again. A wait that a break
has ended takes its trap once the group's other path stands at a chain head: without a handler, at the host. -/
def Sys2Proof.Claims.ParksEnd : Prop :=
  ∀ (s : State) (p : PathId) (k : Park), s.wf → s.ctl.stands p = true → (s.pathOf p).park = some k →
    (s.ctl.team p.team).phase = .running ∨ (s.ctl.team p.team).phase = .saving →
    (k.doom = none → s.parkMet p k = false → exec (.parkResume p) s = .next s) ∧
    ((s.pathOf p).helper ≠ none ∨ s.ctl.lends p.team p.who.idx = false →
      (k.doom = none → s.parkMet p k = true →
        ∃ t, exec (.parkResume p) s = .next t ∧ SameBytes s t ∧ t.vi = s.vi ∧ t.a = s.a ∧ t.k = s.k ∧ t.csr = s.csr ∧
          (t.pathOf p).park = none ∧ (t.pathOf p).act = (s.pathOf p).act ∧ (t.pathOf p).fmt = (s.pathOf p).fmt ∧
          (∀ l off q, k.kind = .barrier l off q → SameRegs s t ∧ (t.pathOf p).pc = nextPc k.cur.pc k.cur.len) ∧
          (∀ a b c d w, k.kind = .texel a b c d (some w) → (t.pathOf p).pc = nextPc k.cur.pc k.cur.len ∧
            let s1 := applyAll s (putSinks p.team w)
            t.v = s1.v ∧ t.w = s1.w) ∧
          ((∀ l off q, k.kind ≠ .barrier l off q) → (∀ a b c d w, k.kind ≠ .texel a b c d (some w)) →
            SameRegs s t ∧ (t.pathOf p).pc = (s.pathOf p).pc)) ∧
      (k.doom ≠ none → (∃ x ∈ (s.groupOf p).live, x.pid ≠ p.pid ∧ s.midChain (s.ctl.team p.team) x = true) →
        exec (.parkResume p) s = .next s) ∧
      (∀ r, k.doom = some r → (∀ x ∈ (s.groupOf p).live, x.pid ≠ p.pid → s.midChain (s.ctl.team p.team) x = false) →
        (s.pathOf p).helper = none → s.csrOf p.team p.who.idx 2 = 0 →
        ∃ (t : State) (v : Service), exec (.parkResume p) s = .next t ∧ SameStores s t ∧ (t.pathOf p).park = none ∧
          (t.ctl.team p.team).phase = .saving ∧ (t.ctl.team p.team).service = some v ∧ v.who = p.who ∧ v.pid = p.pid ∧
          v.cause = r.cause ∧ v.sub = r.sub))

/-- R401, R402: `monset` of a granted monitor with a source that a context may observe starts it afresh; `rdmon` reads its count, its
extremes, its configuration or a bin; a monitor of a sampled source records its value once in a sampling period. -/
def Sys2Proof.Claims.MonitorsRecord : Prop :=
  (∀ (f : Fields) (cur : Cur) (s : State), s.wf →
    let e := envOf s cur f
    let m := scfld f 5 0
    let n := mfld f 5 0
    let cfg := e.usrc f.sa.toNat
    let x := s.ctl.monitor e.t.die m
    (s.ctl.ctx e.t.rctx).mons.getLsbD m = true →
    (Executes (.monset f) f cur s → wfld cfg 7 0 ≤ 4 ∨ wfld cfg 7 0 = 8 →
      ∃ t, exec (.monset f) s = .next t ∧ GoesOn cur s t ∧ SameStores s t ∧
        t.ctl.monitor e.t.die m = { x with rctx := some e.t.rctx, cfg := cfg &&& 0xFFFFFFFF001F80FF, count := 0,
                                           min := 2 ^ 32 - 1, max := 0, bins := List.replicate 32 0 }) ∧
    (Executes (.rdmon f) f cur s → n < 4 ∨ (8 ≤ n ∧ n ≤ 39) →
      ∃ t, exec (.rdmon f) s = .next t ∧ GoesOn cur s t ∧ SameBytes s t ∧
        WroteW e s t (if n = 0 then wd x.count else if n = 1 then wd x.min else if n = 2 then wd x.max else if n = 3 then x.cfg
          else wd (x.bins.getD (n - 8) 0)))) ∧
  (∀ (s : State) (die m v : Nat) (x : Monitor), s.ctl.mons.find? (fun x => x.die == die && x.m == m) = some x →
    (wfld x.cfg 7 0 = 7 ∧ v = (s.ctl.slews.getD die Slew.init).held.sum ∨
      wfld x.cfg 7 0 = 8 ∧ ∃ r, x.rctx = some r ∧ v = s.ctl.inbox die r) →
    s.ctl.cyc % 256 = 0 → x.sampled ≠ s.ctl.cyc / 256 → v < 2 ^ 32 → x.count < 2 ^ 32 - 1 →
    ∃ t, exec (.monitorSample die m) s = .next t ∧ SameStores s t ∧
      let y := t.ctl.monitor die m
      y.count = x.count + 1 ∧ y.min = min x.min v ∧ y.max = max x.max v ∧ y.sampled = s.ctl.cyc / 256 ∧ y.cfg = x.cfg ∧
        ∀ b, b ≠ x.bin v → y.bins.getD b 0 = x.bins.getD b 0)

/-- R155, R156: a core that has been idle for its threshold is clock-gated or power-gated, outside HOLD, and leaves that state when it
wakes. A park as old as the warning threshold warns once, and one as old as the report threshold is reported to the host once. -/
def Sys2Proof.Claims.IdleCoresAndHangs : Prop :=
  ∀ (s : State) (die core : Nat) (p : PathId) (k : Park),
    let c := s.ctl
    (∃ t, exec (.clockGate die core) s = .next t ∧ SameStores s t ∧
      (c.host.pstate = 0 → c.idleFor die core c.host.clockGate = true → ∃ g ∈ t.ctl.gates, g.die = die ∧ g.core = core)) ∧
    (∃ t, exec (.powerGate die core) s = .next t ∧ SameStores s t ∧
      (c.host.pstate = 0 → c.idleFor die core c.host.powerGate = true → ∀ g ∈ t.ctl.gates, g.die = die → g.core = core → g.power = true) ∧
      (c.idleFor die core c.host.powerGate = false → t.ctl.gates = c.gates)) ∧
    (∃ t, exec (.coreWake die core) s = .next t ∧ SameStores s t ∧
      ∀ g, g ∈ t.ctl.gates ↔ g ∈ c.gates ∧ ¬(g.die = die ∧ g.core = core)) ∧
    (c.stands p = true → (s.pathOf p).park = some k →
      (c.host.hangWarn * 1800000 ≤ c.cyc - k.since → k.warned = false →
        ∃ t, exec (.hangWarning p) s = .next t ∧ SameStores s t ∧ (t.pathOf p).park = some { k with warned := true }) ∧
      (c.host.hangReport * 1800000 ≤ c.cyc - k.since → k.reported = false →
        ∃ (t : State) (num : Nat), exec (.hangReport p) s = .next t ∧ SameStores s t ∧
          (t.pathOf p).park = some { k with reported := true } ∧
          t.ctl.host.reports = c.host.reports ++ [.hang (c.team p.team).rctx (c.team p.team).die ((c.team p.team).coreOf p.who)
            (c.team p.team).slot p.who (s.pathOf p).headPc k.kind.hang k.obj num]) ∧
      (k.warned = true → exec (.hangWarning p) s = .next s) ∧ (k.reported = true → exec (.hangReport p) s = .next s))

/-- R245, R248, R255, R392, R393: the mailbox loads a key, from the import in its buffer, into a slot that is not loaded, erases one
that no context is bound to, makes a context of the descriptor in its buffer, when that is in range, under a number that is
free, and ends one with everything it has: its tier pages read zero, as far as their counters can still rise; else it
answers a status that is not zero and changes nothing of that. -/
def Sys2Proof.Claims.KeysAndContexts : Prop :=
  ∀ (s : State) (slot rctx : Nat) (blob : List Byte) (desc : List Word),
    let c := s.ctl
    let x := ctxOf 0 desc
    let ok := descOk desc c.host.nresNow = true ∧ c.loaded x.kslot = true ∧ c.recordRoom + 64 * x.barQuota ≤ c.host.recArea ∧
      ∃ r, r < 256 ∧ ∀ y ∈ c.ctxs, y.rctx ≠ r
    (c.runs 1 = true → c.arg 0 = wd slot → s.mailBytes 1608 = blob →
      ∃ t, exec (.loadKey slot blob) s = .next t ∧ SameStores s t ∧
        (∀ k, c.loaded slot = false → slot < 256 → Config.importKey c.host.boots slot blob = some k →
          Answered t 0 0 ∧ t.ctl.host.kslots = (slot, Config.sealKey c.host.boots slot k) :: c.host.kslots) ∧
        (c.loaded slot = true ∨ 256 ≤ slot ∨ Config.importKey c.host.boots slot blob = none →
          (∃ n, n ≠ 0 ∧ Answered t n 0) ∧ t.ctl.host.kslots = c.host.kslots)) ∧
    (c.runs 2 = true → c.arg 0 = wd slot →
      ∃ t, exec (.eraseKey slot) s = .next t ∧ SameStores s t ∧
        ((∀ y ∈ c.ctxs, y.kslot ≠ slot) → Answered t 0 0 ∧ t.ctl.loaded slot = false) ∧
        ((∃ y ∈ c.ctxs, y.kslot = slot) → (∃ n, n ≠ 0 ∧ Answered t n 0) ∧ t.ctl.host.kslots = c.host.kslots)) ∧
    (c.runs 0x10 = true → s.mailed desc 16 = true →
      ∃ t, exec (.createContext desc) s = .next t ∧ SameStores s t ∧
        (ok → ∃ r, r < 256 ∧ (∀ y ∈ c.ctxs, y.rctx ≠ r) ∧ t.ctl.ctxs = c.ctxs ++ [ctxOf r desc] ∧ Answered t 0 (wd r)) ∧
        (¬ok → (∃ n, n ≠ 0 ∧ Answered t n 0) ∧ t.ctl.ctxs = c.ctxs)) ∧
    (c.runs 0x11 = true → c.arg 0 = wd rctx →
      ∃ t, exec (.teardownContext rctx) s = .next t ∧
        (∀ y, c.ctxs.find? (fun y => y.rctx == rctx) = some y → Answered t 0 0 ∧ (∀ z ∈ t.ctl.ctxs, z.rctx ≠ rctx) ∧
          (∀ z ∈ t.ctl.teams, z.rctx ≠ rctx) ∧ (∀ pg ∈ t.ctl.pages, pg.pin ≠ some rctx) ∧
          ((c.pagesOf y).length < 2 ^ 63 → (∀ g ∈ c.groups, g.major.toNat < 2 ^ 63) → (∀ n ∈ c.tree, n.major.toNat < 2 ^ 63) →
            ∀ pg ∈ c.pagesOf y, ∀ key, pg * 65536 ≤ key → key < (pg + 1) * 65536 → t.dm.get key = 0)) ∧
        ((∀ y ∈ c.ctxs, y.rctx ≠ rctx) → SameStores s t ∧ ∃ n, n ≠ 0 ∧ Answered t n 0))

/-- R160, R246, R248, R256, R257, R392: the mailbox writes PRI, N and OWNER of every tier page of a device range, and no other's; no
byte changes but in a page that becomes unsealed by this, which shows its cells, or is sealed again, whose virgin tiles read
zero. It declares a range of a context, by the descriptor in its buffer, under its lowest free number when nothing is wrong
with it, and removes one that no fill and no waiter uses. -/
def Sys2Proof.Claims.AttributesAndRanges : Prop :=
  ∀ (s : State),
    let c := s.ctl
    (∀ (base len pri n : Nat) (owner : Option Nat), c.runs 0x12 = true → pri ≤ 7 → n < 2 ^ 32 → (∀ o, owner = some o → o < 256) →
      base + len ≤ 2 ^ 42 → offOk base = true → fld base 37 0 + len ≤ 0x2FE0000000 →
      let hit (pg : Nat) : Prop := len ≠ 0 ∧ base / 65536 ≤ pg ∧ pg ≤ (base + len - 1) / 65536
      ∃ t, exec (.writeTierAttributes base len pri n owner) s = .next t ∧ SameRegs s t ∧ Answered t 0 0 ∧
        t.dp = s.dp ∧ t.tm = s.tm ∧ t.hm = s.hm ∧ t.rm = s.rm ∧
        (∀ key, (hit (key / 65536) → c.host.unsealed.contains (key / 65536) = owner.isNone) → t.dm.get key = s.dm.get key) ∧
        ((∀ x ∈ c.cached, x.dirty = false) → ∀ key, hit (key / 65536) → (c.tile (key / 1024)).minor ≠ 0 → owner = none →
          c.host.unsealed.contains (key / 65536) = false → t.dm.get key = (c.tile (key / 1024)).cipher.getD (key % 1024) 0) ∧
        ((∀ x ∈ c.cached, x.dirty = false) → ∀ key, hit (key / 65536) → (c.tile (key / 1024)).minor = 0 → owner ≠ none →
          c.host.unsealed.contains (key / 65536) = true → t.dm.get key = 0) ∧
        ∀ pg, (hit pg → (t.ctl.page pg).pri = pri ∧ (t.ctl.page pg).n = n ∧ (t.ctl.page pg).owner = owner ∧
            (t.ctl.page pg).fast = (c.page pg).fast ∧ (t.ctl.page pg).pin = (c.page pg).pin ∧
            t.ctl.host.unsealed.contains pg = owner.isNone) ∧
          (¬hit pg → t.ctl.page pg = c.page pg)) ∧
    (∀ (rctx : Nat) (desc : List Word) (x : Ctx), c.runs 0x13 = true → c.ctxs.find? (fun x => x.rctx == rctx) = some x →
      (∀ h s1, s.mailed desc 8 = true → Runs (readSealed rctx (desc.getD 2 0).toNat 128) s h s1 → h ≠ .wait → s1.ctl.ctxs = c.ctxs → s1.ctl.runs 0x13 = true →
        let st := if h ≠ .ok ∧ (s1.rangeStatus x desc = 0 ∨ s1.rangeStatus x desc = 5) then 4 else s1.rangeStatus x desc
        ∃ t, exec (.declareRange rctx none desc) s = .next t ∧ SameStores s1 t ∧ Answered t st 0 ∧
          (st ≠ 0 → t.ctl.ctxs = c.ctxs) ∧
          (st = 0 → ∃ k, (∀ r ∈ x.ranges, r.num ≠ k) ∧ (∀ j, j < k → ∃ r ∈ x.ranges, r.num = j) ∧
            (t.ctl.ctx rctx).ranges = x.ranges ++ [rangeOf k desc])) ∧
      (∀ r, x.ranges.find? (fun q => q.num == r.num) = some r →
        ∃ t, exec (.declareRange rctx (some r.num) desc) s = .next t ∧ SameStores s t ∧
          (s.rangeBusy rctx r = true → Answered t 6 0 ∧ t.ctl.ctxs = c.ctxs) ∧
          (s.rangeBusy rctx r = false → Answered t 0 0 ∧ ∀ q, q ∈ (t.ctl.ctx rctx).ranges ↔ q ∈ x.ranges ∧ q.num ≠ r.num)))

/-- R390 to R392, R394, R398, R400: while the window answers, a command
code starts its command where none runs, a doorbell takes an index that can describe the ring, the fabric block changes only
in HOLD without a context, and the die-link map only in HOLD without a team. -/
def Sys2Proof.Claims.TheWindowTakesWrites : Prop :=
  ∀ (s : State),
    let c := s.ctl
    let h := c.host
    6 ≤ h.stage →
    (∀ code, code ∈ ([0x01, 0x02, 0x10, 0x11, 0x12, 0x13, 0x20, 0x21, 0x30, 0x40] : List Nat) → h.mailbox.busy = none →
      h.devrdy = true ∨ code = 0x30 → h.pstate ≠ 2 ∨ code = 0x30 ∨ code = 0x40 →
      ∃ t, exec (.hostRegisterWrite 0x100 (wd code)) s = .next t ∧ SameStores s t ∧ t.ctl.runs code = true) ∧
    (∀ (rctx : Nat) (n : BitVec 32) (x : Ctx), c.ctxs.find? (fun x => x.rctx == rctx) = some x →
      (∃ t, exec (.submissionDoorbell rctx n) s = .next t ∧ SameStores s t ∧
        (t.ctl.ctx rctx).subDoor = if (n - x.subDoor).toNat ≤ 2 ^ x.ringLog then n else x.subDoor) ∧
      ∃ t, exec (.completionDoorbell rctx n) s = .next t ∧ SameStores s t ∧
        (t.ctl.ctx rctx).cplDoor = if (n - x.cplDoor).toNat ≤ 2 ^ x.ringLog then n else x.cplDoor) ∧
    (∀ (off : Nat) (v : Word),
      ∃ t, exec (.fabricBlockWrite off v) s = .next t ∧ SameStores s t ∧
        (h.pstate = 1 → h.devrdy = true → c.ctxs = [] → off = 0 →
          t.ctl.host = { h with fvalid := v.getLsbD 32, devid := BitVec.ofNat 20 (wfld v 19 0) }) ∧
        (∀ i, h.pstate = 1 → h.devrdy = true → c.ctxs = [] → i < 64 → off = 0x100 + 8 * i →
          t.ctl.host = { h with routes := h.routes.set i (v &&& 0xFFFFFFFFFF00000F) }) ∧
        (h.pstate ≠ 1 ∨ h.devrdy = false ∨ c.ctxs ≠ [] → t.ctl.host = h)) ∧
    ∀ (die dest port : Nat),
      ∃ t, exec (.dieLinkMapWrite die dest port) s = .next t ∧ SameStores s t ∧
        (h.pstate = 1 → c.teams.any (·.holds) = false → die < 8 → dest < 8 → port < 4 → t.ctl.linkPort die dest = port) ∧
        (h.pstate ≠ 1 ∨ c.teams.any (·.holds) = true → t.ctl.host = h)

/-- R368, R394: the next entry of a context's submission ring, while the ring holds one and the completion ring has room, gets the
status of its record in the completion ring, with its index and its context; a record of status 0 is enqueued, and the
context's vector is raised. -/
def Sys2Proof.Claims.SubmissionsComplete : Prop :=
  ∀ (s s1 : State) (rctx st : Nat) (x : Ctx) (r : Option Rec), s1.wf →
    s.ctl.ctxs.find? (fun x => x.rctx == rctx) = some x → s.ctl.canTake x = true → s1.ctl.ctxs = s.ctl.ctxs →
    let l : Loc := { sp := .hm, key := x.subBase + 64 * (x.taken.toNat % 2 ^ x.ringLog) }
    let d : Loc := { sp := .hm, key := x.cplBase + 8 * (x.taken.toNat % 2 ^ x.ringLog) }
    Runs (submitRecord rctx ((List.range 8).map (fun i => wd (s.load (l.plus (8 * i)) 8)))) s (.ok (st, r)) s1 →
    ∃ t, exec (.hostSubmission rctx) s = .next t ∧ SameRegs s1 t ∧ SameBytesBut s1 t d 8 ∧
      t.load d 8 = x.taken.toNat * 2 ^ 32 + rctx % 256 * 256 + st % 256 ∧ (t.ctl.ctx rctx).taken = x.taken + 1 ∧
      t.ctl.host.msix = s1.ctl.host.msix ++ [1 + rctx] ∧
      ∀ q, r = some q → q.rctx = rctx → ∃ o ∈ (t.ctl.ctx rctx).recs, o.id = q.id ∧ o.frame = q.frame

/-! ### Obligations -/

/-- R39, R40, R49, R396: a step makes the schedule's next move. Where a path may issue, what its fetch finds at its PC is decoded and
executed, an encoding that is rejected as the instruction that traps for it; where it may not, only time passes; a step of
the device is executed as it stands, but in STANDBY one of a unit that is asleep only lets time pass; with no move arranged,
the device makes one of its own. The model's choice: that a step serves the agenda first and else a move that is drawn
freely (log 3), and that the moment of a fetch is one of the versions of the memories since the team's start (log 139). -/
def Obligations.StepRunsWhatItFetches : Prop :=
  ∀ (s : State),
    (∀ (p : PathId) (back : Nat) (dt : Nat) (rest : List Move) (s3 : State) (pc : Word) (n : Nat) (bits : BitVec 128) (l : Loc)
        (block : List Byte),
      s.ctl.agenda = .issue p back dt :: rest →
      let s0 : State := { s with ctl := ({ s.ctl with agenda := rest } : Ctl).elapse dt }
      s0.mayIssue p = true → FetchFinds s0 s3 p pc back n bits l block →
      let t : State := { s3 with ctl := { s3.ctl with cur := some { p := p, pc := pc, len := n, bits := bits } } }
      (∀ i, decodeWords (bits.setWidth 64) ((bits >>> 64).setWidth 64) = .ok i → step s = Remembering s (exec i t)) ∧
      (∀ r, decodeWords (bits.setWidth 64) ((bits >>> 64).setWidth 64) = .error r →
        step s = Remembering s (exec (.reservedEncoding bits r) t))) ∧
    (∀ (p : PathId) (back : Nat) (dt : Nat) (rest : List Move), s.ctl.agenda = .issue p back dt :: rest →
      let s0 : State := { s with ctl := ({ s.ctl with agenda := rest } : Ctl).elapse dt }
      s0.mayIssue p = false → step s = .next s0) ∧
    (∀ (i : Instr) (dt : Nat) (rest : List Move), s.ctl.agenda = .event i dt :: rest → fetched i = false →
      (s.ctl.host.pstate ≠ 2 ∨ asleep i = false →
        step s = Remembering s (exec i { s with ctl := ({ s.ctl with agenda := rest } : Ctl).elapse dt })) ∧
      (s.ctl.host.pstate = 2 → asleep i = true →
        step s = .next { s with ctl := ({ s.ctl with agenda := rest } : Ctl).elapse dt })) ∧
    (s.ctl.agenda = [] →
      step s = step { s with ctl := { s.ctl with agenda := [s.ctl.freeMove], free := s.ctl.free + 4 } })

/-- R41, R42, R48: words written out field by field from the encoding of their instructions decode to them. -/
def Obligations.WordsDecode : Prop :=
  let base : Fields := { mod := 0, sc := 0, sb := 0, sa := 0, dst := 0, ws := false, kn := false, km := 0, u := false, ch := false,
                         long := .none }
  decodeWords 0x0000000000000409 0x18 = .ok (.bra { base with u := true, long := .imm32 0x18 }) ∧
  decodeWords 0x0800018200800100 0 = .ok (.lds { base with mod := 2, sb := 1, sa := 260, dst := 2 }) ∧
  decodeWords 0x0806018200000500 0 = .ok (.sts { base with mod := 2, sc := 3, sb := 1, sa := 260 }) ∧
  decodeWords 0x0806000041400668 0 = .ok (.rdmon { base with mod := 2, sc := 3, dst := 261, u := true, sb := 0 }) ∧
  decodeWords 0x00010882000001D8 0 = .ok (.msend { base with sb := 264, sa := 260, u := true }) ∧
  decodeWords 0x000A000000000258 0 = .ok (.trap { base with sc := 5, u := true }) ∧
  decodeWords 0x0400000000000658 0 = .ok (.tret { base with mod := 1, u := true }) ∧
  decodeWords 0x0000000000001658 0 = .ok (.sfence { base with u := true })

/-- R40, R41, R42, R48, R49: the encoder and the decoder agree both ways. Every well-formed instruction that words name is decoded from
its bytes, with all its fields and whatever follows it, and what is decoded from bytes encodes to those bytes. -/
def Obligations.DecodeAndEncodeAgree : Prop :=
  (∀ (i : Instr) (rest : List Byte), i.wf → i.fields.isSome = true → decode (encode i ++ rest) = .ok (i, rest)) ∧
  ∀ (i : Instr) (bs rest : List Byte), decode bs = .ok (i, rest) → i.fields.isSome = true ∧ encode i ++ rest = bs

/-- R49, R51: LEN = 11 is rejected first, by its own name; then an opcode is rejected by the name of its major opcode. Every other
word is an instruction, with the fields of R41. -/
def Obligations.EncodingsAreRejectedByName : Prop :=
  ∀ (w u : Word),
    let mj := (w.toNat / 16) % 64
    let mn := (w.toNat / 1024) % 64
    (w.toNat % 4 = 3 → decodeWords w u = .error .badLen) ∧
    (w.toNat % 4 ≠ 3 → 0x3C ≤ mj → decodeWords w u = .error .invalidMajor) ∧
    (w.toNat % 4 ≠ 3 → 0x28 ≤ mj → mj < 0x3C → decodeWords w u = .error .reservedMajor) ∧
    (w.toNat % 4 ≠ 3 → mj < 0x28 → (∃ (i : Instr) (f : Fields), i.fields = some f ∧ i.opcode = (mj, mn) ∧ i.opNamed = true) →
      ∃ (i : Instr) (f : Fields), decodeWords w u = .ok i ∧ i.opcode = (mj, mn) ∧ i.opNamed = true ∧ i.fields = some f ∧
        f.mod.toNat = w.toNat / 2 ^ 58 ∧ f.sc.toNat = w.toNat / 2 ^ 49 % 512 ∧ f.sb.toNat = w.toNat / 2 ^ 40 % 512 ∧
        f.sa.toNat = w.toNat / 2 ^ 31 % 512 ∧ f.dst.toNat = w.toNat / 2 ^ 22 % 512 ∧ f.ws = w.getLsbD 21 ∧ f.kn = w.getLsbD 20 ∧
        f.km.toNat = w.toNat / 2 ^ 16 % 16 ∧ f.u = w.getLsbD 3 ∧ f.ch = w.getLsbD 2 ∧
        f.long = if w.toNat % 4 = 0 then .none else if w.toNat % 4 = 1 then .imm32 (u.setWidth 32) else .ext u) ∧
    (w.toNat % 4 ≠ 3 → mj < 0x28 → ¬(∃ (i : Instr) (f : Fields), i.fields = some f ∧ i.opcode = (mj, mn) ∧ i.opNamed = true) →
      decodeWords w u = .error .unnamedMinor)

/-- R62, R63, and the model's own form of its stores: every step answers a next state, whatever the state, and keeps the invariant that
each store of bytes and of registers is in its one canonical form and that the reserved bits of every group register
read zero. -/
def Obligations.StepsKeepTheStoresWellFormed : Prop :=
  ∀ (s : State), ∃ t, step s = .next t ∧ (s.wf → t.wf)

/-- R391, R395, R306, R399: at reset the device stands at the first stage of bring-up, with nothing running, no context, no key, an idle
mailbox, the thresholds and the ramp tables at their defaults, and its stores well formed. (What the spec gives no reset
value for is zero: assumption 1.) -/
def Obligations.ResetIsTheStartOfBringup : Prop :=
  State.reset.wf ∧
  (let c := State.reset.ctl
   c.cyc = 0 ∧ c.teams = [] ∧ c.ctxs = [] ∧ c.entries = [] ∧ c.jobs = [] ∧ c.cur = none ∧ c.host.kslots = [] ∧ c.host.stage = 1 ∧
    c.host.devrdy = false ∧ c.host.faild = 0 ∧ c.host.failx = 0 ∧ c.host.quantum = 250 ∧ c.host.clockGate = 4 ∧
    c.host.powerGate = 200 ∧ c.host.hangWarn = 1000 ∧ c.host.hangReport = 8000 ∧ c.host.scrub = 24 ∧ c.host.nres = 8 ∧
    c.host.mailbox.busy = none ∧ c.host.fvalid = false ∧
    (∀ x ∈ c.slews, x.step = 4 ∧ x.rise = 2 ∧ x.fall = 4 ∧ x.cap = 256 ∧ x.held.sum = 0)) ∧
  (∀ sp key, (State.reset.mem sp).get key = 0)

/-- R18, R67: `add`, `sub`, `mul`, `mad`, `min`, `max`, `abs` and `neg` complete. Each executing lane's destination takes
the exact result wrapped to w bits, or with SAT clamped to the range of T, SAT of gst being set when it changed; a
uniform form writes one w register. Nothing else changes but the path, which goes on (R45). -/
def Obligations.IntegerArithmeticWrapsOrClamps : Prop :=
  ∀ (i : Instr) (f : Fields) (cur : Cur) (s : State) (g : Int → Int → Int → Int),
    intRule i = some g → Executes i f cur s → s.wf →
    RegisterOnly i f cur s Env.iw (fun e => intSigned (mfld e.f 3 0))
      (fun e l => wrapSat e.iw (intSigned (mfld e.f 3 0)) (mfld e.f 4 4 == 1) (g (e.ia l) (e.ib l) (e.ic l)))

/-- R67: `and`, `or`, `xor`, `not`, `sel`, `mov`, `ldi`, `iota`, `mulhi`, `shl`, `shr`, `sra`, `rot`, `bfe`, `bfi`, `popc`, `clz`, `ctz`
and `brev` complete with the low w bits of the table's function, and raise no flag. -/
def Obligations.IntegerBitFunctions : Prop :=
  ∀ (i : Instr) (f : Fields) (cur : Cur) (s : State) (g : Nat → Nat),
    (∀ l, bitRule (envOf s cur f) l i = some (g l)) → Executes i f cur s → s.wf →
    RegisterOnly i f cur s Env.iw (fun e => intSigned (mfld e.f 3 0)) (fun _ l => (g l, 0))

/-- R69, R71, R73: `fadd`, `fsub`, `fmul`, `fma`, `fmin`, `fmax`, `frnd`, `fdiv`, `fsqrt`, `frcp`, `frsq`, `fex2`, `flg2`, `fsin` and
`fcos` complete with the exact function of their sources rounded once, and the flags
of that rounding go to gst. -/
def Obligations.FloatResultsRoundOnce : Prop :=
  ∀ (i : Instr) (f : Fields) (cur : Cur) (s : State) (g : RM → FV → FV → FV → XR),
    floatRule i = some g → Executes i f cur s → s.wf →
    RegisterOnly i f cur s (fun e => floatWidth e.ft) (fun _ => false) (fun e l => floatLaneRule e g l)

/-- R72, R89, R90, R91, R92, R93, R94: conversions, packings and vdot complete with their value and flags. All of the claims named. -/
def Obligations.ConversionsAndDotProducts : Prop :=
  Sys2Proof.Claims.ConversionsComplete ∧
    Sys2Proof.Claims.VdotAddsOneChunk

/-- R74, R75, R76: lane movement, scans and sorting follow lane order. All of the claims named. The flags of an exclusive scan's
last step are set like every step's (DEDUCED, log 102). -/
def Obligations.LanesExchangeValues : Prop :=
  Sys2Proof.Claims.LaneMovesTakeTheNamedLane ∧
    Sys2Proof.Claims.ScansCombineInLaneOrder ∧
    Sys2Proof.Claims.SortkIsAStableSort

/-- R72, R75, R78: `cmp`, `fcmp` and `ballot` complete. The lane form writes the set of executing lanes in which the
condition holds to its mask register (k0 is not written, and with no executing lane nothing is: R8), the uniform form 1 or
0 to its w register; gst takes in the flags; no other register and no byte changes. -/
def Obligations.ComparesWriteAMask : Prop :=
  ∀ (i : Instr) (f : Fields) (cur : Cur) (s : State) (c : Nat → Bool × Nat),
    (∀ l, compareRule (envOf s cur f) l i = some (c l)) → Executes i f cur s → s.wf →
    let e := envOf s cur f
    ∃ t, exec i s = .next t ∧
      (f.u = false →
        (f.ws = false → f.dst ≠ 352 → e.ex ≠ 0 →
          (envOf t cur f).k (f.dst.toNat - 352) = maskOf ((lanesOf e.ex e.gw).filter (fun l => (c l).1))) ∧
        (∀ n, (f.ws = true ∨ e.ex = 0 ∨ f.dst.toNat ≠ 352 + n) → (envOf t cur f).k n = e.k n) ∧
        (∀ key, (f.ws = true ∨ e.ex = 0 ∨ f.dst = 352 ∨ key ≠ kKey e.uid e.g.who.idx (f.dst.toNat - 352)) →
          t.k.get key = s.k.get key) ∧
        t.csrOf e.uid e.home 0 =
          s.csrOf e.uid e.home 0 ||| (wd (orFlags ((lanesOf e.ex e.gw).map (fun l => (c l).2))) &&& csrLayout 0) ∧
        (∀ key, key ≠ csrKey e.uid e.home 0 → t.csr.get key = s.csr.get key) ∧ t.w = s.w) ∧
      (f.u = true → UniStep i e (if (c 0).1 then 1 else 0) (c 0).2 s t) ∧
      t.v = s.v ∧ t.vi = s.vi ∧ t.a = s.a ∧ SameBytes s t ∧ GoesOn cur s t

/-- R57, R64, R77, R95: mask instructions and uniform reads write one register. All of the claims named. -/
def Obligations.MasksAndUniformReads : Prop :=
  Sys2Proof.Claims.MaskInstructionsWriteMasks ∧
    Sys2Proof.Claims.UniformReadsWriteOneRegister

/-- R61 to R64, R83, R113: `csrw` and `setfmt` complete. `gst` takes its flags from bits [6:0] and keeps the rest, `fmt`
takes each field whose value is not reserved, `tvec` and `tfa` the value without its reserved bits; `spb` and `spl` too
while nothing is spilled, DSP following `spb`; `ctx` and `prio` are read-only. No other register and no byte changes. -/
def Obligations.GroupRegisterWrites : Prop :=
  ∀ (f : Fields) (cur : Cur) (s : State), s.wf →
    let e := envOf s cur f
    let x := e.opnd f.sa.toNat 0 false f.rawImm
    let same (t : State) : Prop := SameBytes s t ∧ t.v = s.v ∧ t.vi = s.vi ∧ t.a = s.a ∧ t.w = s.w ∧ t.k = s.k ∧
      (t.pathOf cur.p).pc = nextPc cur.pc cur.len ∧ (t.pathOf cur.p).act = e.p.act ∧
      ∀ key, key ≠ csrKey e.uid e.home f.sc.toNat → t.csr.get key = s.csr.get key
    let fmts (t : State) : Prop := (t.pathOf cur.p).fmt = e.p.fmt
    (Executes (.csrw f) f cur s → f.sc = 0 → e.flagsPending = false →
      ∃ t, exec (.csrw f) s = .next t ∧ same t ∧ fmts t ∧
        t.csrOf e.uid e.home 0 = (s.csrOf e.uid e.home 0 &&& ~~~(0x7F : Word)) ||| (x &&& 0x7F)) ∧
    (Executes (.csrw f) f cur s → f.sc = 1 →
      ∃ t, exec (.csrw f) s = .next t ∧ same t ∧ t.csr = s.csr ∧
        (t.pathOf cur.p).fmt = fmtAll e.p.fmt.toNat x.toNat) ∧
    (Executes (.csrw f) f cur s → f.sc = 2 ∨ f.sc = 3 →
      ∃ t, exec (.csrw f) s = .next t ∧ same t ∧ fmts t ∧
        t.csrOf e.uid e.home f.sc.toNat = x &&& csrLayout f.sc.toNat) ∧
    (Executes (.csrw f) f cur s → f.sc = 4 ∨ f.sc = 5 → e.g.dsp = e.csr 4 → e.g.cb = 0 →
      ∃ t, exec (.csrw f) s = .next t ∧ same t ∧ fmts t ∧
        t.csrOf e.uid e.home f.sc.toNat = x &&& csrLayout f.sc.toNat ∧
        (t.groupOf cur.p).dsp = if f.sc = 4 then x &&& csrLayout 4 else e.g.dsp) ∧
    (Executes (.csrw f) f cur s → f.sc = 6 ∨ f.sc = 7 →
      ∃ t, exec (.csrw f) s = .next t ∧ same t ∧ fmts t ∧ t.csr = s.csr) ∧
    (Executes (.setfmt f) f cur s →
      ∃ t, exec (.setfmt f) s = .next t ∧ same t ∧ t.csr = s.csr ∧
        (t.pathOf cur.p).fmt = fmtSet e.p.fmt (mfld f 3 0) (e.usrc f.sa.toNat).toNat)

/-- R79, R80: with every named register a register, `rgeti` completes with the register that each lane names, and `rseti` writes
each executing lane's value to the lane register that it names; the highest lane's write to a uniform register stands, and no
other register changes. With U = 1 a lane register that is named is lane 0's (the model's choice, log 125). -/
def Obligations.IndirectRegisterAccess : Prop :=
  ∀ (f : Fields) (cur : Cur) (s : State), s.wf →
    let e := envOf s cur f
    e.indFault = none → e.indBlocked = false →
    (Executes (.rgeti f) f cur s →
      RegisterOnly (.rgeti f) f cur s (fun e => if e.indWide then 64 else 32) (fun _ => false)
        (fun e l => ((e.indRead l).toNat, 0))) ∧
    (Executes (.rseti f) f cur s →
      (e.p.helper = none ∨ ∀ l ∈ lanesOf e.ex e.gw, e.regCode l < 256) →
      let w := if e.indWide then 64 else 32
      ∃ t, exec (.rseti f) s = .next t ∧
        (∀ l ∈ lanesOf e.ex e.gw, e.regCode l < 256 →
          e.laneAfter t (e.regCode l) l e.indWide = e.bits f.sc.toNat l w f.rawImm) ∧
        (∀ l ∈ lanesOf e.ex e.gw, 256 ≤ e.regCode l →
          (∀ m ∈ lanesOf e.ex e.gw, e.regCode m = e.regCode l → m ≤ l) →
          t.wreg e.uid e.home (e.regCode l - 256) e.indPl = wd (e.bits f.sc.toNat l w f.rawImm)) ∧
        (∀ key, (∀ l ∈ lanesOf e.ex e.gw, e.regCode l < 256 → key ≠ vKey e.uid e.vp l (e.regCode l) ∧
          (e.indWide = true → key ≠ vKey e.uid e.vp l (e.regCode l + 1))) → t.v.get key = s.v.get key) ∧
        (∀ key, (∀ l ∈ lanesOf e.ex e.gw, 256 ≤ e.regCode l → key ≠ wKey e.uid e.home (wIndex (e.regCode l - 256) e.indPl)) →
          t.w.get key = s.w.get key) ∧
        t.vi = s.vi ∧ t.a = s.a ∧ t.k = s.k ∧ t.csr = s.csr ∧ SameBytes s t ∧ GoesOn cur s t)

/-- R116: `setdmr` with HST of gst 0 sets DMR of gst to its operand's low bit and changes nothing else; the bit is one for both paths of
the group. With HST not 0 it takes PROT 0x03, and DMR is unchanged. -/
def Obligations.SetdmrWritesDmr : Prop :=
  ∀ (f : Fields) (cur : Cur) (s : State), Executes (.setdmr f) f cur s → s.wf →
    let e := envOf s cur f
    (e.hst = 0 →
      ∃ t, exec (.setdmr f) s = .next t ∧ GoesOn cur s t ∧ SameBytes s t ∧
        t.v = s.v ∧ t.vi = s.vi ∧ t.a = s.a ∧ t.w = s.w ∧ t.k = s.k ∧
        t.csrOf e.uid e.home 0 = (s.csrOf e.uid e.home 0 &&& ~~~(0x100 : Word)) ||| (if f.sc.getLsbD 0 then 0x100 else 0) ∧
        ∀ key, key ≠ csrKey e.uid e.home 0 → t.csr.get key = s.csr.get key) ∧
    (e.hst ≠ 0 →
      exec (.setdmr f) s = runM (finish (.setdmr f) e (.trap (mkTrap 10 3 e.p.act))) s ∧
      ∃ t, exec (.setdmr f) s = .next t ∧ (t.csrOf e.uid e.home 0).getLsbD 8 = (s.csrOf e.uid e.home 0).getLsbD 8)

/-- R106: `nop` only moves the PC. `bra` goes to the instruction's own PC plus its offset when its condition, of all 64 bits of its w
register, holds, and on to the next instruction when it does not, or when no lane executes. Only the path that executes
moves, and nothing else changes. -/
def Obligations.BranchesMoveThePc : Prop :=
  ∀ (f : Fields) (cur : Cur) (s : State),
    (Executes (.nop f) f cur s →
      exec (.nop f) s = .next { s with ctl := s.ctl.leave cur.p (fun p => { p with pc := nextPc cur.pc cur.len }) }) ∧
    (Executes (.bra f) f cur s →
      let e := envOf s cur f
      let x := e.opnd f.sa.toNat 0 false 0
      let taken := mfld f 5 4 = 0 ∨ (mfld f 5 4 = 1 ∧ x ≠ 0) ∨ (mfld f 5 4 = 2 ∧ x = 0)
      (taken → exec (.bra f) s = .next { s with ctl := s.ctl.leave cur.p (fun p =>
        { p with pc := cur.pc + wd (wrapInt 64 (sextNat 32 f.imm32.toNat)), chain := none, lat := [], stalled := false,
                 age := none }) }) ∧
      (¬taken → ∃ t, exec (.bra f) s = .next t ∧ OnlyGoesOn (.bra f) e s t)) ∧
    (s.ctl.cur = some cur → s.ctl.stands cur.p = true → stepFaults (.bra f) (envOf s cur f) = [] → f.u = true →
      (envOf s cur f).ex = 0 → ∃ t, exec (.bra f) s = .next t ∧ OnlyGoesOn (.bra f) (envOf s cur f) s t)

/-- R98, R99, R102, R103, R107, R108, R109: split, join and brk move lanes through regions. All of the claims named. -/
def Obligations.RegionsDivideAndJoin : Prop :=
  Sys2Proof.Claims.SplitDividesThePath ∧
    Sys2Proof.Claims.JoinEndsTheArm ∧
    Sys2Proof.Claims.BrkLeavesRegions

/-- R110, R111: calls push the return address, ret pops it, callv calls the lowest target. All of the claims named. -/
def Obligations.CallsAndReturns : Prop :=
  Sys2Proof.Claims.CallsPushTheReturnAddress ∧
    Sys2Proof.Claims.RetPopsTheReturnAddress ∧
    Sys2Proof.Claims.CallvCallsTheLowestTarget

/-- R32, R112, R129: `exit` retires its lanes: they leave the path and every entry of the stack. When the path's last lane
goes, it ends; when the group's last lane goes and nothing is due for a report, the group retires. -/
def Obligations.ExitRetiresLanes : Prop :=
  ∀ (f : Fields) (cur : Cur) (s : State), Executes (.exit f) f cur s →
    let e := envOf s cur f
    e.ex ≠ 0 → e.hst = 0 → e.g.spilled = [] → (e.liveLanes &&& ~~~e.ex ≠ 0 ∨ e.g.due = none) →
    ∃ t, exec (.exit f) s = .next t ∧
      (e.p.act &&& ~~~e.ex ≠ 0 ∨ ¬e.alone → SameStores s t ∧ (t.groupOf cur.p).gone = e.g.gone ||| e.ex ∧
        (t.groupOf cur.p).recon = e.g.recon.map (fun x => { x with
          jmask := x.jmask &&& ~~~e.ex, arr := x.arr &&& ~~~e.ex, pmask := x.pmask &&& ~~~e.ex })) ∧
      (e.p.act &&& ~~~e.ex ≠ 0 →
        (t.pathOf cur.p).act = e.p.act &&& ~~~e.ex ∧ (t.pathOf cur.p).pc = nextPc cur.pc cur.len) ∧
      (e.p.act &&& ~~~e.ex = 0 → ¬e.alone → PathGone cur t) ∧
      (e.p.act &&& ~~~e.ex = 0 → e.alone → e.g.recon = [] →
        SameStores s t ∧ (t.groupOf cur.p).retired = true ∧ (t.groupOf cur.p).paths = [])

/-- R102, R115: with room on the spill stack, `spush` posts the source's lanes as writes from DSP on and adds the record's
size to DSP; `spop` posts reads of the record below DSP into its destination and takes the size off. On no lane both do nothing (R8
against R115's pseudocode, which moves DSP outside its lane loop: the model's choice, log 14). -/
def Obligations.SpillStackMovesRecords : Prop :=
  ∀ (f : Fields) (cur : Cur) (s s1 : State) (os : List (Nat × Loc)),
    let e := envOf s cur f
    let d := e.g.dsp.toNat
    (∀ i, i = .spush f ∨ i = .spop f → Executes i f cur s → e.ex = 0 → ∃ t, exec i s = .next t ∧ OnlyGoesOn i e s t) ∧
    (let z := e.spillSize f.sa.toNat
     let xs := e.spillLanes f.sa.toNat d z.2
     Executes (.spush f) f cur s → e.ex ≠ 0 → d + z.1 + e.g.cb ≤ (s.csrOf e.uid e.g.who.idx 5).toNat →
     e.Reaches xs { rd := false, wr := true, x := false } os s1 → s1.ctl.refusedWrites e.t s1 xs = [] →
     ∃ (t : State) (new : List Entry), exec (.spush f) s = .next t ∧ SameStores s1 t ∧ GoesOn cur s t ∧
       (t.groupOf cur.p).dsp = e.g.dsp + wd z.1 ∧ (t.groupOf cur.p).recon = e.g.demoted e.p.pid ∧
       t.ctl.entries = s1.ctl.entries ++ new ∧ (∀ x ∈ new, e.owns x ∧ x.act = .write) ∧
       new.map (·.els) = e.entriesOf ((highest (joinLocs os xs)).map (fun x =>
         { lane := x.1, loc := x.2.1, n := z.2, vs := 0, va := x.2.2,
           data := wd ((e.opnd f.sa.toNat x.1 (z.2 == 8) 0).toNat % 2 ^ (8 * z.2)), data2 := 0, sink := .none }))) ∧
    (let z := e.spillSize f.dst.toNat
     let xs := e.spillLanes f.dst.toNat (d - z.1) z.2
     Executes (.spop f) f cur s → e.ex ≠ 0 → (s.csrOf e.uid e.g.who.idx 4).toNat + z.1 ≤ d →
     e.Reaches xs { rd := true, wr := false, x := false } os s1 →
     ∃ (t : State) (new : List Entry), exec (.spop f) s = .next t ∧ SameStores s1 t ∧ GoesOn cur s t ∧
       (t.groupOf cur.p).dsp = e.g.dsp - wd z.1 ∧ (t.groupOf cur.p).recon = e.g.demoted e.p.pid ∧
       t.ctl.entries = s1.ctl.entries ++ new ∧ (∀ x ∈ new, e.owns x ∧ x.act = .read) ∧
       new.map (·.els) = e.entriesOf ((joinLocs os xs).map (fun x =>
         { lane := x.1, loc := x.2.1, n := z.2, vs := 0, va := x.2.2, data := 0, data2 := 0,
           sink := e.sinkFor x.1 (8 * z.2) false true })))

/-- R119, R122, R124, R125, R126, R127, R128, R131, R132: scratchpad accesses are posted by lane; tmprobe reads line states. All
of the claims named. The line numbers of `tmprobe` wrap at 2^26 (the model's choice, log 129). -/
def Obligations.ScratchpadAccesses : Prop :=
  Sys2Proof.Claims.ScratchpadAccessesArePosted ∧
    Sys2Proof.Claims.TmprobeReadsLineStates

/-- R123, R133, R134: `palloc.r` reads the team's reservation. `palloc` within the quota, where some free run fits, adds a
live region of the rounded size at a free aligned place, zeroed with its selvage, and returns its address; when none
fits it returns 0. `pfree` ends a region and releases the barrier words in it. -/
def Obligations.PoolRegionsComeAndGo : Prop :=
  ∀ (f : Fields) (cur : Cur) (s : State), s.wf →
    let e := envOf s cur f
    let a := (e.usrc f.sa.toNat).toNat
    let n := roundUp a 256
    let al := if 4096 ≤ a then 4096 else 256
    (Executes (.palloc f) f cur s → f.mod.getLsbD 0 = true →
      ∃ t, exec (.palloc f) s = .next t ∧ GoesOn cur s t ∧ SameBytes s t ∧
        WroteW e s t (if e.t.hdr.dpool = 0 then 0 else poolAddr e.t.die e.t.resv)) ∧
    (Executes (.palloc f) f cur s → f.mod.getLsbD 0 = false → a ≠ 0 → a ≤ 0x08000000 →
      s.ctl.poolUsed e.t.rctx e.t.die + n + 512 ≤ (s.ctl.ctx e.t.rctx).dpQuota →
      s.ctl.poolFits e.t.die n al s.ctl.reserveBase ≠ [] →
      ∃ (t : State) (base : Nat), exec (.palloc f) s = .next t ∧ GoesOn cur s t ∧
        WroteW e s t (poolAddr e.t.die base) ∧ base ∈ s.ctl.poolFits e.t.die n al s.ctl.reserveBase ∧
        { die := e.t.die, base := base, size := n, rctx := e.t.rctx, live := true, freedAt := 0 } ∈ t.ctl.allocs ∧
        ∀ sp key, (t.mem sp).get key =
          if sp = .dp ∧ e.t.die * 2 ^ 27 + base - 256 ≤ key ∧ key < e.t.die * 2 ^ 27 + base + n + 256 then 0
          else (s.mem sp).get key) ∧
    (Executes (.palloc f) f cur s → f.mod.getLsbD 0 = false →
      (a = 0 ∨ 0x08000000 < a ∨ (s.ctl.ctx e.t.rctx).dpQuota < s.ctl.poolUsed e.t.rctx e.t.die + n + 512 ∨
        s.ctl.poolFits e.t.die n al s.ctl.reserveBase = []) →
      ∃ t, exec (.palloc f) s = .next t ∧ GoesOn cur s t ∧ SameBytes s t ∧ WroteW e s t 0) ∧
    (∀ r : Alloc, Executes (.pfree f) f cur s →
      s.ctl.allocs.find? (fun x => x.live && x.rctx == e.t.rctx && poolAddr x.die x.base == wd (a % 2 ^ 32) && x.die == e.t.die) =
        some r →
      (∀ o ∈ s.ctl.entries, o.isBar = true → ∀ x ∈ o.els, x.loc.touches x.n (dpLoc r.die r.base) r.size = false) →
      ∃ t, exec (.pfree f) s = .next t ∧ GoesOn cur s t ∧ SameStores s t ∧ r ∉ t.ctl.allocs ∧
        ∀ b ∈ t.ctl.bars, b.loc.touches 16 (dpLoc r.die r.base) r.size = false)

/-- R137, R138, R145, R146, R152: barinit binds a word, barinv releases it. All of the claims named. -/
def Obligations.BarrierWordsAreBoundAndReleased : Prop :=
  Sys2Proof.Claims.BarinitBindsAWord ∧
    Sys2Proof.Claims.BarinvReleasesTheWord

/-- R145, R147, R148, R149, R150, R151: arrivals are posted; waits complete or park; tests read. All of the claims named. -/
def Obligations.BarriersCountAndWait : Prop :=
  Sys2Proof.Claims.ArrivalsArePosted ∧
    Sys2Proof.Claims.WaitsCompleteOrPark ∧
    Sys2Proof.Claims.TestsOfBarriers

/-- R174 to R176: with aligned addresses that translate and pass the fill check, `ldg` posts a read for each executing
lane that its counter will count, and counts at once when no lane executes; `stg` posts each lane's write, the highest
lane's where two write one place. -/
def Obligations.GathersAndScattersArePosted : Prop :=
  ∀ (f : Fields) (cur : Cur) (s s1 s2 : State) (os : List (Nat × Loc)),
    let e := envOf s cur f
    let xs := e.dvLanes
    let n := intWidth (mfld f 3 0) / 8
    let key := aKey e.uid e.home (f.sc.toNat - 336)
    (Executes (.ldg f) f cur s → xs ≠ [] → Aligned xs n → e.Reaches xs { rd := true, wr := false, x := false } os s1 →
      Runs (e.fillCheck xs) s1 none s2 → e.gathersFull = false →
      ∃ t, exec (.ldg f) s = .next t ∧
        Posts (.ldg f) e s2 t (fun x => x.act = .read ∧ x.cnt = some key ∧ x.acq = false ∧ x.rel = false)
          ((joinLocs os xs).map (fun x => { lane := x.1, loc := x.2.1, n := n, vs := 0, va := x.2.2, data := 0, data2 := 0,
                                            sink := e.sinkFor x.1 (8 * n) (intSigned (mfld f 3 0)) false }))) ∧
    (Executes (.ldg f) f cur s → xs = [] →
      ∃ t, exec (.ldg f) s = .next t ∧ GoesOn cur s t ∧ SameBytes s t ∧ t.v = s.v ∧ t.w = s.w ∧
        t.a = s.a.set key (s.a.get key + 1)) ∧
    (Executes (.stg f) f cur s → Aligned xs n → e.Reaches xs { rd := false, wr := true, x := false } os s1 →
      s1.ctl.refusedWrites e.t s1 xs = [] →
      ∃ t, exec (.stg f) s = .next t ∧
        Posts (.stg f) e s1 t (fun x => x.act = .write ∧ x.cnt = none ∧ x.acq = false ∧ x.rel = false)
          ((highest (joinLocs os xs)).map (fun x =>
            { lane := x.1, loc := x.2.1, n := n, vs := 0, va := x.2.2,
              data := wd (e.bits f.sc.toNat x.1 (8 * n) (f.intImm (mfld f 3 0))), data2 := 0, sink := .none })))

/-- R198, R200, R205: `atg`, `redg`, `atq.push` and `atq.pop` whose addresses are aligned, translate, and lie in no procedural range that it may not write, and
whose blocks are filled, complete: they post their lanes' requests with the acquire and release bits and the scope of MOD. One whose
lane form no lane executes has no effect. -/
def Obligations.AtomicsArePosted : Prop :=
  ∀ (i : Instr) (f : Fields) (cur : Cur) (s s1 s2 : State) (os : List (Nat × Loc))
    (op : AtOp) (ty n : Nat) (sgn ret flags : Bool) (dat : Nat → Word × Word), Executes i f cur s →
    let e := envOf s cur f
    let xs := e.dvLanes
    atomRule e i = some (op, ty, n, sgn, ret, flags, dat) →
    (xs = [] → ∃ t, exec i s = .next t ∧ OnlyGoesOn i e s t) ∧
    (xs ≠ [] → Aligned xs n → e.Reaches xs { rd := true, wr := true, x := false } os s1 →
    (op.hostOk = true ∨ ∀ o ∈ os, o.2.sp ≠ .hm) → s1.ctl.refusedWrites e.t s1 xs = [] →
    (if ret then Runs (e.fillCheck xs) s1 none s2 else s2 = s1) →
    ∃ t, exec i s = .next t ∧
      Posts i e s2 t (fun x => x.act = .atom op ty ∧ x.acq = (mfld f 5 4 % 2 == 1) ∧ x.rel = decide (2 ≤ mfld f 5 4) ∧
          x.scope = 3 + mfld f 3 2 ∧ x.flags = flags ∧ x.party = if ret then 1 else 2)
        ((joinLocs os xs).map (fun x =>
          { lane := x.1, loc := x.2.1, n := n, vs := 0, va := x.2.2, data := (dat x.1).1, data2 := (dat x.1).2,
            sink := if ret then e.sinkFor x.1 (if n = 16 then 64 else 8 * n) sgn true else .none })))

/-- R139, R147, R148, R211, R212, R228, R229, R361: entries leave their queue in order; arrivals are counted and end phases; fences
are posted; what `trig`, `tbset`, `mfence.op` and a releasing send have posted takes effect when it leaves. All of the claims named. -/
def Obligations.EntriesAreServedInOrder : Prop :=
  Sys2Proof.Claims.DrainServesAnEntry ∧
    Sys2Proof.Claims.ArrivalsEndAPhase ∧
    Sys2Proof.Claims.FencesArePosted ∧
    Sys2Proof.Claims.TriggersCount ∧
    Sys2Proof.Claims.PostedEffectsFollow

/-- R168, R169, R175, R213: the head of a stack's port queue is served at the memory-side cache: a read of one element is
answered with the bytes as they stand, a write changes its bytes alone and is queued in the stack. The oldest queued write
then leaves the queue. -/
def Obligations.PortsServeAtThePointOfCoherence : Prop :=
  (∀ (s s1 : State) (cluster dest : Nat) (x : Entry) (y : Elem), s.wf → s.ctl.portHead cluster dest = some x → x.els = [y] →
    dest < 16 → x.stage = .port → s.ctl.lineWaits x = false → s.ctl.partialWrite x = false →
    s.ctl.stalled (x.cluster / 16) (stkOf y.loc.key / 2) = false → Unsealed s x.kslot y.loc.key x.writes s1 →
    ∃ t, exec (.portServe cluster dest) s = .next t ∧ SameRegs s t ∧
      (x.act = .read → SameBytes s t ∧ x ∉ t.ctl.entries ∧
        ∃ r ∈ t.ctl.replies, x.replyFor x.replyKind y (s.load y.loc y.n) none r) ∧
      (x.act = .write → SameBytesBut s t y.loc y.n ∧ t.load y.loc y.n = y.data.toNat % 256 ^ y.n ∧ Staged t x .wq)) ∧
  (∀ (s : State) (stk : Nat) (x : Entry), s.ctl.entries.find? (fun e => e.stage == .wq && e.dest == stk) = some x →
    exec (.writeQueueDrain stk) s =
      .next { s with ctl := { s.ctl with entries := s.ctl.entries.filter (fun e => e.id != x.id) } })

/-- R195, R199, R200, R203, R361, R369: atomics and join counters are served in one step. All of the claims named. -/
def Obligations.AtomicsAndCountersAreServed : Prop :=
  Sys2Proof.Claims.AtomicsReadModifyWrite ∧
    Sys2Proof.Claims.JoinCountersCount

/-- R115, R175, R188, R198: a reply (of a load, a gather or an atomic) that brings a value lands it in the lane's register; the last of a gather counts its
counter (in the step in which it lands: the model's choice, log 110); an atomic's flags go to gst. A reply that brings a fault
records it in the party, with its cause, and lands nothing. One that waits at a boundary between dies that retrains stays (R288). -/
def Obligations.RepliesLand : Prop :=
  ∀ (i : Instr) (s : State) (r : Reply), s.wf →
    (i = .gatherReply r.id ∧ r.kind = .gather ∨ i = .atomicReply r.id ∧ r.kind = .atomic ∨
      i = .loadReplyLand r.id ∧ r.kind = .load) →
    s.ctl.replies.find? (fun q => q.id == r.id && q.kind == r.kind && !s.ctl.replyStalled q) = some r →
    ∃ t, exec i s = .next t ∧ SameBytes s t ∧ (∀ q ∈ t.ctl.replies, q.id ≠ r.id) ∧
      (r.kind ≠ .gather → t.a = s.a) ∧ (r.kind ≠ .atomic → t.csr = s.csr) ∧
      (r.fault = none → Landed s t r.team r.sink r.data) ∧
      (r.fault = none → r.kind = .gather → ∀ key, r.cnt = some key → s.ctl.hasTeam r.team = true →
        (∀ x ∈ s.ctl.entries, x.ins ≠ r.ins) → (∀ q ∈ s.ctl.replies, q.ins = r.ins → q.id = r.id) →
        t.a.get key = s.a.get key + 1) ∧
      (r.fault = none → r.kind = .atomic → s.ctl.hasTeam r.team = true →
        t.csrOf r.team r.home 0 = s.csrOf r.team r.home 0 ||| (wd r.flags &&& csrLayout 0)) ∧
      (∀ c b, r.fault = some (c, b) → SameRegs s t ∧
        (s.ctl.hasTeam r.team = true → (s.ctl.team r.team).hasParty r.home = true →
          ((s.ctl.team r.team).party (whoOf r.home)).retired = false → Recorded s t r.team r.home r.lane c b))

/-- R177, R178, R180, R182, R183, R184, R185, R186, R187, R188: copy instructions hand their job to an engine. All of the claims named. -/
def Obligations.CopiesAreSubmitted : Prop :=
  Sys2Proof.Claims.CopiesAreSubmitted ∧
    Sys2Proof.Claims.PatternsAreSubmitted

/-- R173, R177, R178, R179, R182, R188, R216: engines accept jobs and move bytes one by one. All of the claims named. -/
def Obligations.EnginesMoveBytes : Prop :=
  Sys2Proof.Claims.EnginesAcceptJobs ∧
    Sys2Proof.Claims.CopyBytesMove

/-- R161, R162, R163, R170, R171, R265: hint, step, evict and pin set the attributes of tier pages. All of the claims named. The
context by whose counter N of a page runs is that of the last write or `hint`, and `evict` drops FULL blocks in whichever tier
they lie (DEDUCED, logs 19, 26). -/
def Obligations.PagesArePlacedAndPinned : Prop :=
  Sys2Proof.Claims.HintsPlacePages ∧
    Sys2Proof.Claims.EvictAndPinAskForMoves

/-- R163, R164, R166, R246, R248, R250, R251, R252: tier moves, tile fills, write-backs, re-seals and scrubbing change no value.
All of the claims named. Which page an evicted one changes places with (log 18), that a root count rises at each write-back (log
119) and what becomes of a discarded write-back (log 142) are the model's reading. -/
def Obligations.TiersAndSeals : Prop :=
  Sys2Proof.Claims.TierMovesRun ∧
    Sys2Proof.Claims.TilesAreFilledAndWrittenBack ∧
    Sys2Proof.Claims.ResealAndScrub

/-- R232, R235, R236, R238: translations are walked, cached, asked of the host and invalidated. All of the claims named. How
long the host's refusal of a page stands is the model's reading (DEDUCED, log 136). -/
def Obligations.TranslationsAreWalkedAndCached : Prop :=
  Sys2Proof.Claims.CachedLeavesTranslate ∧
    Sys2Proof.Claims.WalksCacheTheLeaf ∧
    Sys2Proof.Claims.HostTranslations

/-- R240, R241, R242, R243: pmap, tlbinv, tprobe and migr read and change page tables. All of the claims named. That `pmap` and
`migr` do their table work in one step (log 24), and that `tprobe` answers 0 where its walk fails a seal (log 122), are the
model's choices. -/
def Obligations.PageTablesChange : Prop :=
  Sys2Proof.Claims.PmapInstallsALeaf ∧
    Sys2Proof.Claims.TlbinvAndTprobe ∧
    Sys2Proof.Claims.MigrationsMovePages

/-- R259, R264, R265, R267, R269: fills end, their waiters go on, and preset empties blocks. All of the claims named. -/
def Obligations.FillsEndAndResume : Prop :=
  Sys2Proof.Claims.FillsAreEnded ∧
    Sys2Proof.Claims.EndedFillsResumeTheirWaiters ∧
    Sys2Proof.Claims.PresetEmptiesBlocks

/-- R30, R31, R262, R263, R344, R346, R362, R363, R364, R378: cores claim indices; teams start at their entries with their
frame. All of the claims named. That the descriptor is read again as a shading team starts (log 57), and that a generator's
header whose tile fails its seal counts as one that fails its checks (log 141), are the model's reading. -/
def Obligations.TeamsStartAndClaim : Prop :=
  Sys2Proof.Claims.TeamsStartAtTheirEntries ∧
    Sys2Proof.Claims.CoresClaimIndices ∧
    Sys2Proof.Claims.ContinuationsStartTeams

/-- R343, R347, R348, R349: texel blocks are queried, filtered and filled. All of the claims named. That `texw` is accepted as
it issues is the model's choice (log 51). -/
def Obligations.TexelsAreFetchedAndFilled : Prop :=
  Sys2Proof.Claims.TexelQueriesReadStates ∧
    Sys2Proof.Claims.TexsFiltersFourTexels ∧
    Sys2Proof.Claims.TexwFillsItsBlock

/-- R350, R351, R352: `vrate` returns the group's rate and sets it; `matld` tags its slot with the context and its load is
accepted; `matev` of the context's own material submits the values of its lanes' intervals and is accepted; a load whose entries
are all finite puts its table into the slot that is still its own. That `matld` and `matev` are accepted as they issue (log 51),
and the bobbin's rate code of its own (log 56), are the model's choices. -/
def Obligations.MaterialsAreLoadedAndEvaluated : Prop :=
  (∀ (f : Fields) (cur : Cur) (s : State), s.wf →
    let e := envOf s cur f
    let nl := (e.usrc f.sb.toNat).toNat % 2 ^ 32
    (Executes (.vrate f) f cur s → ∃ t, exec (.vrate f) s = .next t ∧ GoesOn cur s t ∧ SameBytes s t ∧
      WroteW e s t (wd e.g.vsr) ∧ (t.groupOf cur.p).vsr = scfld f 1 0) ∧
    (Executes (.matld f) f cur s → 0 < nl → nl ≤ 4 →
      ∃ t, exec (.matld f) s = .next t ∧ GoesOn cur s t ∧ SameStores s t ∧
        (∃ x, t.ctl.material e.t.cluster (scfld f 3 0) = some x ∧ x.rctx = e.t.rctx ∧ x.layers = none) ∧
        ∃ j ∈ t.ctl.jobs, j.kind = .matld (scfld f 3 0) nl ∧ j.team = e.uid ∧ j.accepted = true ∧ j.size = 2048 * nl) ∧
    (∀ (mat : Material) (compl : Compl),
      let sp := mfld f 1 0
      let a := wrapSp sp (e.usrc f.sa.toNat).toNat
      let ls := e.evalLanes
      let size := (ls.map (fun x => 8 * (x.2.2.1 + 1 - x.2.1))).sum
      Executes (.matev f) f cur s → e.ex ≠ 0 → s.ctl.material e.t.cluster (f.imm32b % 16) = some mat → mat.rctx = e.t.rctx →
      e.fixedOut (ls.map (fun x => (sp, wrapSp sp (a + (64 * x.1 + x.2.1) * 8), 8 * (x.2.2.1 + 1 - x.2.1)))) = none →
      e.completion = .ok compl → size ≠ 0 →
      ∃ t, exec (.matev f) s = .next t ∧ GoesOn cur s t ∧ SameStores s t ∧
        ∃ j ∈ t.ctl.jobs, j.kind = .matev (f.imm32b % 16) (2 ^ e.g.vsr) ls mat.layers ∧ j.team = e.uid ∧ j.dsp = sp ∧
          j.dst = wd a ∧ j.size = size ∧ j.compl = compl ∧ j.accepted = true)) ∧
  (∀ (s s1 : State) (j : Job) (bs : List Byte) (m nl : Nat), s.ctl.theJob j.id j → j.accepted = true → j.err = none →
    j.kind = .matld m nl → (s.ctl.evalQueue j.die j.cluster).head? = some j → Runs (readSource j (2048 * nl)) s (some bs) s1 →
    badEntry (tableOf nl bs) = none →
    ∃ t, exec (.materialLoadComplete j.id) s = .next t ∧ SameStores s1 t ∧ (∀ q ∈ t.ctl.jobs, q.id ≠ j.id) ∧
      ∀ x ∈ s1.ctl.mats, x.cluster = j.die * 16 + j.cluster → x.m = m → x.load = j.id →
        { x with layers := some (tableOf nl bs) } ∈ t.ctl.mats)

/-- R273, R274, R276, R277, R278, R281, R283: recruitments start, run, join and give lanes back. All of the claims named. When
lent lanes come back, and which lanes go on at `hjoin`, are the model's reading (DEDUCED, logs 34, 35). -/
def Obligations.RecruitmentsRun : Prop :=
  Sys2Proof.Claims.RecruitmentsStart ∧
    Sys2Proof.Claims.HelpersWork ∧
    Sys2Proof.Claims.JoiningEndsARecruitment ∧
    Sys2Proof.Claims.LentLanesGoBack

/-- R286, R287, R288, R289, R290, R291, R292, R293, R295: messages are sent, appended to rings or returned. All of the claims
named. What becomes of messages in flight to a dropped ring, and what the source and destination of a RING message are, are the
model's reading (DEDUCED, logs 36, 138). -/
def Obligations.MessagesTravel : Prop :=
  Sys2Proof.Claims.MessagesAreSent ∧
    Sys2Proof.Claims.RingsAreRegisteredAndRead ∧
    Sys2Proof.Claims.MessagesArriveOrReturn

/-- R297, R298, R301, R304, R305, R310, R311, R312, R314, R315, R316, R317: matrix passes, tiles and epilogues are accepted. All
of the claims named. What a tile refuses while its close waits is the model's reading (DEDUCED, log 39). -/
def Obligations.MatrixWorkIsAccepted : Prop :=
  Sys2Proof.Claims.MatrixWorkIsAccepted ∧
    Sys2Proof.Claims.TilesAreManaged ∧
    Sys2Proof.Claims.EpiloguesAreAccepted

/-- R89, R301, R302, R303, R304, R305, R306, R307, R308, R317: matrix engines compute under the slew-limited grant. All of the
claims named. That an epilogue reads and writes in one step (log 41), what becomes of a cycle's unused unit-cycles (log 43), and
which earlier bytes a line buffer gives (log 151), are the model's choices. -/
def Obligations.EnginesComputeUnderTheGrant : Prop :=
  Sys2Proof.Claims.EnginesGrantReadyEntries ∧
    Sys2Proof.Claims.PassesCompute ∧
    Sys2Proof.Claims.EpiloguesWriteTheirRows ∧
    Sys2Proof.Claims.SlewStepsBoundTheGrant

/-- R323, R324, R325, R326, R327, R328, R330, R331, R335, R337: primitives are streamed to tiles, and edges and intervals computed. All of the claims named. -/
def Obligations.RasterWorkIsMade : Prop :=
  Sys2Proof.Claims.PrimitivesAreStreamed ∧
    Sys2Proof.Claims.TilesReachTheirConsumer ∧
    Sys2Proof.Claims.EdgesAndIntervals

/-- R218, R332, R333, R338: raster output is handed over and applied in order. All of the claims named. That a `zview` answer
lands in the step that applies it is the model's choice (log 45). -/
def Obligations.RasterWorkIsApplied : Prop :=
  Sys2Proof.Claims.RasterWorkIsHandedOver ∧
    Sys2Proof.Claims.RasterWorkIsApplied

/-- R29, R357, R359, R364, R368, R369, R370: launches enqueue records; counters and tile buffers change. All of the claims
named. A record with a misaligned HDR or FRAME (log 58), and launches that have still to leave (log 60), are counted by the
model's reading. -/
def Obligations.LaunchesAndTileBuffers : Prop :=
  Sys2Proof.Claims.LaunchesEnqueueRecords ∧
    Sys2Proof.Claims.CountersAndTileBuffers

/-- R32, R36, R37, R225, R365, R371, R372, R384, R385: decisions, quanta, saves, restores and retirement of teams. All of the claims named. -/
def Obligations.TeamsAreScheduled : Prop :=
  Sys2Proof.Claims.DecisionsAndQuanta ∧
    Sys2Proof.Claims.TeamsAreSavedRestoredAndRetired

/-- R49, R51, R376, R377, R379, R382: traps save the frame and enter the handler; tret restores it. All of the claims named. The
demotion of the other path on every trap (log 117), and the wait where the frame's page is still being translated (log 144), are
the model's reading. -/
def Obligations.TrapsAreTakenAndReturnedFrom : Prop :=
  Sys2Proof.Claims.TrapsAreTaken ∧
    Sys2Proof.Claims.TretRestoresTheFrame

/-- R34, R148, R157, R228, R378, R382: the frame is read and written; parks end. All of the claims named. -/
def Obligations.FramesAndParks : Prop :=
  Sys2Proof.Claims.FrameAccessesAndSfence ∧
    Sys2Proof.Claims.ParksEnd

/-- R50, R61, R80, R113, R239, R381: where steps 5 to 7 find one trap, an instruction takes it and does nothing else; at user level
`pmap`, `tlbinv`, `tprobe`, `migr`, `tret`, `rdtf`, `wrtf`, a `csrw` of `tvec`, `tfa`, `spb` or `spl`, and `rgeti` and `rseti` with
UB take PRIV. With all places of a stack in use and no room in the spill area, `split` and `call` take STACK 0x01. -/
def Obligations.ChecksComeFirst : Prop :=
  ∀ (i : Instr) (f : Fields) (cur : Cur) (s : State),
    let e := envOf s cur f
    (s.ctl.cur = some cur → i.fields = some f →
      (∀ r, stepFaults i e = [r] → exec i s = runM (finish i e (.trap r)) s) ∧
      (chainFaults i e = [] → formFaults i e = [] → e.pl = 0 →
        (i ∈ ([.pmap f, .tlbinv f, .tprobe f, .migr f, .tret f, .rdtf f, .wrtf f] : List Instr) ∨
          (i = .csrw f ∧ 2 ≤ f.sc.toNat ∧ f.sc.toNat ≤ 5) ∨ ((i = .rgeti f ∨ i = .rseti f) ∧ f.mod.getLsbD 5 = true)) →
        exec i s = runM (finish i e (.trap (mkTrap 4 0 e.p.act))) s)) ∧
    (Executes i f cur s → (i = .split f ∧ 16 ≤ e.g.recon.length ∨ i = .call f ∧ 8 ≤ e.g.ras.length) →
      (s.csrOf e.uid e.g.who.idx 5).toNat < e.g.dsp.toNat + 64 * (e.g.spilled.length + 1) →
      exec i s = runM (finish i e (.trap (mkTrap 0x28 1 e.p.act))) s)

/-- R155, R156, R401, R402: monitors record; idle cores are gated; hangs are reported. All of the claims named. Since when a
core is idle, and what an inbox holds of a context, are the model's reading (DEDUCED, logs 69, 90). -/
def Obligations.MonitorsAndIdleCores : Prop :=
  Sys2Proof.Claims.MonitorsRecord ∧
    Sys2Proof.Claims.IdleCoresAndHangs

/-- R160, R245, R246, R255, R256, R257, R392, R393: the mailbox manages keys, contexts, attributes and ranges. All of the claims
named. The status of a refusal that R392 does not number (log 70), what a command's buffer gives beyond the spec's layout (log
71), what the end of a context clears (log 76) and the checks of a range (log 77) are the model's choices. -/
def Obligations.KeysContextsAndRanges : Prop :=
  Sys2Proof.Claims.KeysAndContexts ∧
    Sys2Proof.Claims.AttributesAndRanges

/-- R157, R254, R379, R392: the mailbox ends the reported wait of a party in a HANG trap that names what it waited for, and reports a
break that finds none; lets a host-serviced team be restored, at the PC or the next PC that was reported, or ends its
context; writes the attestation report and its signature to its buffer; and completes a command with its result, its status
and its interrupt. -/
def Obligations.HostServices : Prop :=
  ∀ (s : State), s.wf →
    let c := s.ctl
    (∀ (uid : Nat) (who : Who) (p : Path) (k : Park), c.runs 0x20 = true → c.hasTeam uid = true →
      ((c.team uid).party who).broken = some (p, k) → c.stands { team := uid, who := who, pid := p.pid } = true →
      (s.pathOf { team := uid, who := who, pid := p.pid }).park = some k →
      s.parkMet { team := uid, who := who, pid := p.pid } k = false →
      ∃ t, exec (.breakWait uid who) s = .next t ∧ SameStores s t ∧ Answered t 0 0 ∧
        ∃ r, (t.pathOf { team := uid, who := who, pid := p.pid }).park = some { k with doom := some r } ∧ r.cause = 0x18 ∧
          r.sub = k.kind.hang ∧ r.lanes = k.ex ∧ r.addrs = (lanesOf k.ex 64).map (fun l => (l, k.obj)) ∧
          ∀ w ∈ t.ctl.waits, w.who ≠ .path { team := uid, who := who, pid := p.pid }) ∧
    (∀ (uid : Nat) (who : Who), c.runs 0x20 = true →
      (c.hasTeam uid = true → (∀ p k, ((c.team uid).party who).broken = some (p, k) →
          s.parkMet { team := uid, who := who, pid := p.pid } k = true) →
        ∃ t, exec (.breakWait uid who) s = .next t ∧ SameStores s t ∧ Answered t 0 0 ∧ t.ctl.teams = c.teams ∧
          t.ctl.host.reports = c.host.reports ++ [.breakNotApplied uid who]) ∧
      (c.hasTeam uid = false → ∃ t n, exec (.breakWait uid who) s = .next t ∧ SameStores s t ∧ n ≠ 0 ∧ Answered t n 0)) ∧
    (∀ (uid : Nat) (v : Service), c.runs 0x21 = true → c.hasTeam uid = true → (c.team uid).phase = .serviced →
      (c.team uid).service = some v → c.stands { team := uid, who := v.who, pid := v.pid } = true →
      let resumes (how : ResumeHow) (pc : Word) : Prop := ∃ t, exec (.resumeHostServiced uid how) s = .next t ∧ SameStores s t ∧
        Answered t 0 0 ∧ (t.ctl.team uid).phase = .saved ∧ (t.ctl.team uid).service = none ∧ (t.ctl.team uid).savedAt = c.cyc ∧
        (t.pathOf { team := uid, who := v.who, pid := v.pid }).pc = pc
      resumes .atPc v.pc ∧ resumes .atNext v.npc ∧
      ((∃ x ∈ c.ctxs, x.rctx = (c.team uid).rctx) → ∃ t, exec (.resumeHostServiced uid .endContext) s = .next t ∧ Answered t 0 0 ∧
        (∀ x ∈ t.ctl.ctxs, x.rctx ≠ (c.team uid).rctx) ∧ (∀ x ∈ t.ctl.teams, x.rctx ≠ (c.team uid).rctx) ∧
        ∀ pg ∈ t.ctl.pages, pg.pin ≠ some (c.team uid).rctx)) ∧
    (∀ (uid : Nat) (how : ResumeHow), c.runs 0x21 = true →
      (c.hasTeam uid = false ∨ (c.team uid).phase ≠ .serviced ∨ (c.team uid).service = none) →
      ∃ t n, exec (.resumeHostServiced uid how) s = .next t ∧ SameStores s t ∧ n ≠ 0 ∧ Answered t n 0) ∧
    (∀ (nonce : List Byte) (buf : Nat), c.runs 0x30 = true → c.host.mailbox.buf = wd buf →
      let body := reportBody c.host nonce
      ∃ t, exec (.attestationReport nonce buf) s = .next t ∧ SameRegs s t ∧ Answered t 0 0 ∧
        SameBytesBut s t { sp := .hm, key := buf } (body.length + 29792) ∧
        t.loadBytes { sp := .hm, key := buf } (body.length + 29792) = body ++ fillTo 29792 (Config.attestSign body)) ∧
    (c.host.mailbox.busy ≠ none → c.host.mailbox.ran = true →
      ∃ t, exec .mailboxCommandComplete s = .next t ∧ SameStores s t ∧ t.ctl.host.mailbox.busy = none ∧
        t.ctl.host.mailbox.status = c.host.mailbox.pendStatus ∧ t.ctl.host.mailbox.result = c.host.mailbox.pendResult ∧
        t.ctl.host.msix = c.host.msix ++ [0]) ∧
    (c.host.mailbox.busy = none ∨ c.host.mailbox.ran = false → exec .mailboxCommandComplete s = .next s)

/-- R253, R263, R391, R396, R399: SET_POWER_STATE enters RUN, HOLD and STANDBY from where R396 allows, STANDBY once no team holds shares
and no access is on its way, after every dirty tile has been written back, and OFF, in which no context and no key is left;
another change is refused. Power-good makes a device that is off begin its bring-up with nothing running; at the end of each
stage the next begins, unless something failed: then bring-up stops there for good and FAILD and FAILX show what. Stage 1
measures in M[0] every image that it runs, stage 2 trains the fabric ports, stage 5 zeroes the memories and places the
reserve units, and stage 6 ends in HOLD with DEVRDY, the configuration measured in M[1]. The stage at which NRES is taken, and
the order of the measured items, are the model's choice (log 1, 85, 86). -/
def Obligations.PowerStatesChange : Prop :=
  ∀ (s : State),
    let c := s.ctl
    (∀ n, c.runs 0x40 = true → c.arg 0 = wd n → n < 4 →
      ((n = 0 ∧ c.host.pstate = 1) ∨ (n = 1 ∧ (c.host.pstate = 0 ∨ c.host.pstate = 2)) →
        ∃ t, exec (.setPowerState n) s = .next t ∧ SameStores s t ∧ Answered t 0 0 ∧ t.ctl.host.pstate = n) ∧
      (n = 2 → c.host.pstate = 1 → c.unsaved = false →
        ∃ t, exec (.setPowerState n) s = .next t ∧ SameStores s t ∧ Answered t 0 0 ∧ t.ctl.host.pstate = 2 ∧
          t.ctl.host.hostLines = [] ∧ ∀ x ∈ t.ctl.cached, x.dirty = false) ∧
      (n = 2 → c.host.pstate = 1 → c.unsaved = true → exec (.setPowerState n) s = .next s) ∧
      (n = 3 → c.host.pstate < 4 → ∃ t, exec (.setPowerState n) s = .next t ∧ Answered t 0 0 ∧ t.ctl.host.pstate = 3 ∧
        t.ctl.host.devrdy = false ∧ t.ctl.ctxs = [] ∧ t.ctl.host.kslots = []) ∧
      (n ≠ 3 → ¬((n = 0 ∧ c.host.pstate = 1) ∨ (n = 1 ∧ (c.host.pstate = 0 ∨ c.host.pstate = 2)) ∨ (n = 2 ∧ c.host.pstate = 1)) →
        ∃ t, exec (.setPowerState n) s = .next t ∧ SameStores s t ∧ Answered t 1 0 ∧ t.ctl.host.pstate = c.host.pstate)) ∧
    (∀ fails, c.host.pstate = 3 → c.host.devrdy = false →
      let x := failsAt c.host.boots c.host.stage fails
      (7 ≤ c.host.stage → ∃ t, exec (.powerGood fails) s = .next t ∧ t.hm = s.hm ∧ t.rm = s.rm ∧ t.ctl.teams = [] ∧ t.ctl.ctxs = [] ∧
        t.ctl.host.kslots = [] ∧ t.ctl.host.stage = 1 ∧ t.ctl.host.pstate = 3 ∧ t.ctl.host.devrdy = false ∧
        t.ctl.host.faild = 0 ∧ t.ctl.host.failx = 0 ∧ t.ctl.host.boots = c.host.boots + 1 ∧ t.ctl.host.recArea = c.host.recNext) ∧
      (c.host.bringing = true → c.host.stage < 6 → x.1 = 0 → x.2 = 0 →
        ∃ t, exec (.powerGood fails) s = .next t ∧ t.hm = s.hm ∧ t.rm = s.rm ∧ SameRegs s t ∧
          t.ctl.host.stage = c.host.stage + 1 ∧ t.ctl.host.pstate = 3 ∧ t.ctl.host.devrdy = false ∧
          (c.host.stage = 1 → t.ctl.host.meas.getD 0 [] = if c.host.meas = [] then [] else
            (goodFirmware c.host.boots).foldl (fun m d => extendMeas m (Config.firmwareImage c.host.boots d)) (c.host.meas.getD 0 [])) ∧
          (c.host.stage = 2 → t.ctl.host.linkup = ~~~fails.fabric) ∧
          (c.host.stage = 5 → t.ctl.host.nresNow = c.host.nres ∧
            (∀ d, d < 8 → t.ctl.host.units.getD d [] = (List.range c.host.nres).map unitCore) ∧
            (∀ key, key < 2 ^ 42 → t.dm.get key = 0) ∧ ∀ key, key < 2 ^ 30 → t.dp.get key = 0) ∧
          (c.host.stage ≠ 5 → SameBytes s t)) ∧
      (c.host.bringing = true → c.host.stage < 6 → ¬(x.1 = 0 ∧ x.2 = 0) →
        ∃ t, exec (.powerGood fails) s = .next t ∧ SameStores s t ∧ t.ctl.host.stage = c.host.stage ∧ t.ctl.host.pstate = 3 ∧
          t.ctl.host.devrdy = false ∧ t.ctl.host.faild = x.1 ∧ t.ctl.host.failx = x.2 ∧ t.ctl.host.bringing = false) ∧
      (c.host.bringing = true → c.host.stage = 6 → ∃ t, exec (.powerGood fails) s = .next t ∧ SameStores s t ∧
        t.ctl.host.stage = 7 ∧ t.ctl.host.devrdy = true ∧ t.ctl.host.pstate = 1 ∧
        (c.host.meas.length = 16 → t.ctl.host.meas.getD 1 [] = extendMeas (c.host.meas.getD 1 []) (configItem c.host c.slews))) ∧
      (c.host.bringing = false → c.host.stage < 7 → exec (.powerGood fails) s = .next s)) ∧
    (∀ fails, c.host.pstate ≠ 3 ∨ c.host.devrdy = true → exec (.powerGood fails) s = .next s)

/-- R368, R390, R391, R392, R394, R398, R400: the host window takes writes; submissions complete. All of the claims named. Which
teams count as resident is the model's reading (DEDUCED, log 146). -/
def Obligations.WindowWritesAndSubmissions : Prop :=
  Sys2Proof.Claims.TheWindowTakesWrites ∧
    Sys2Proof.Claims.SubmissionsComplete

/-- R223, R246, R327, R389, R396, R398: a host read of device memory that an HDM decoder covers with a loaded slot and that
passes its seal is answered with the bytes as they stand, a host write changes its bytes alone, and in STANDBY, under a slot
that holds no key, or where a tile fails, both are answered with an error; a snoop of a host line gives it up. A link that
retrains stalls what would cross it until it ends; a fabric port that fails is down; a die boundary whose retrain fails ends the
context whose raster record or end marker waits for it. The form of the answers (log 89) and how the decoders are set (log 123)
are the model's choices. -/
def Obligations.HostAccessesAndLinks : Prop :=
  ∀ (s s1 : State) (addr slot : Nat) (bytes : List Byte), s1.wf →
    let h := s.ctl.host
    let n := bytes.length
    let error (b t : State) : Prop := SameStores b t ∧ t.ctl.host.reports = b.ctl.host.reports ++ [.cxlError addr]
    (h.devrdy = true → hostRange addr n = true → s.ctl.decoderSlot addr n = some slot →
      (h.pstate = 2 ∨ s.ctl.loaded slot = false → (∃ t, exec (.cxlMemRead addr n slot) s = .next t ∧ error s t) ∧
        ∃ t, exec (.cxlMemWrite addr bytes slot) s = .next t ∧ error s t) ∧
      (∀ b, h.pstate ≠ 2 → s.ctl.loaded slot = true → Runs (hostSeal slot false (tilePieces addr n)) s (.fail b) s1 →
        ∃ t, exec (.cxlMemRead addr n slot) s = .next t ∧ error s1 t) ∧
      (∀ b, h.pstate ≠ 2 → s.ctl.loaded slot = true → Runs (hostSeal slot true (tilePieces addr n)) s (.fail b) s1 →
        ∃ t, exec (.cxlMemWrite addr bytes slot) s = .next t ∧ error s1 t) ∧
      (h.pstate ≠ 2 → s.ctl.loaded slot = true → Runs (hostSeal slot false (tilePieces addr n)) s .ok s1 →
        ∃ t, exec (.cxlMemRead addr n slot) s = .next t ∧ SameStores s1 t ∧
          t.ctl.host.reports = s1.ctl.host.reports ++ [.cxlData addr (s1.loadBytes (dmLoc addr) n)]) ∧
      (h.pstate ≠ 2 → s.ctl.loaded slot = true → Runs (hostSeal slot true (tilePieces addr n)) s .ok s1 →
        ∃ t, exec (.cxlMemWrite addr bytes slot) s = .next t ∧ SameRegs s1 t ∧ SameBytesBut s1 t (dmLoc addr) n ∧
          t.loadBytes (dmLoc addr) n = bytes)) ∧
    (h.devrdy = true → ∃ t, exec (.cxlCacheSnoop addr) s = .next t ∧ SameStores s t ∧ addr ∉ t.ctl.host.hostLines ∧
      t.ctl.host.reports = h.reports ++ [.snoop addr (h.hostLines.contains addr)]) ∧
    (∀ k, k < 10 → ∃ t, exec (.linkRetrain (.boundary k)) s = .next t ∧ SameStores s t ∧
      (LinkId.boundary k ∉ s.ctl.retrain → LinkId.boundary k ∈ t.ctl.retrain) ∧
      (LinkId.boundary k ∈ s.ctl.retrain → LinkId.boundary k ∉ t.ctl.retrain)) ∧
    (∀ d, d < 8 → ∃ t, exec (.linkFail (.fabric d) none) s = .next t ∧ SameStores s t ∧
      t.ctl.host.linkup = h.linkup &&& ~~~BitVec.ofNat 8 (2 ^ d) ∧ LinkId.fabric d ∉ t.ctl.retrain) ∧
    (∀ k r, LinkId.boundary k ∈ s.ctl.retrain → s.ctl.rasterWaits r k = true →
      ∃ t, exec (.linkFail (.boundary k) (some r)) s = .next t ∧ (∀ x ∈ t.ctl.ctxs, x.rctx ≠ r) ∧
        t.ctl.host.reports.getLast? = some (.rasterLink (.boundary k) r)) ∧
    (∀ k r, LinkId.boundary k ∉ s.ctl.retrain ∨ s.ctl.rasterWaits r k = false →
      exec (.linkFail (.boundary k) (some r)) s = .next s)

/-- R395: the thresholds hold their defaults at reset. While the window answers, each takes a value of its range that is written
to it, and a value outside leaves it unchanged; NRES takes effect at the next bring-up, in this model at the end of its stage 5
(the model's choice: log 85). A warning threshold at or above the report's leaves its field as it stands (DEDUCED, log 80). -/
def Obligations.ThresholdsKeepTheirRanges : Prop :=
  (let h := State.reset.ctl.host
   h.quantum = 250 ∧ h.clockGate = 4 ∧ h.powerGate = 200 ∧ h.hangWarn = 1000 ∧ h.hangReport = 8000 ∧ h.scrub = 24 ∧ h.nres = 8) ∧
  ∀ (s : State),
    let h := s.ctl.host
    (6 ≤ h.stage → ∀ (off v : Nat), off < 0x38 → off % 8 = 0 → v < 2 ^ 64 →
      ∃ t, exec (.hostRegisterWrite (0x1000 + off) (wd v)) s = .next t ∧ SameStores s t ∧
        t.ctl.host = (if off = 0 ∧ 50 ≤ v ∧ v ≤ 10000 then { h with quantum := v }
          else if off = 0x08 ∧ 1 ≤ v ∧ v ≤ 1000 then { h with clockGate := v }
          else if off = 0x10 ∧ 10 ≤ v ∧ v ≤ 100000 then { h with powerGate := v }
          else if off = 0x18 ∧ 1 ≤ v ∧ v ≤ 1000000 ∧ v < h.hangReport then { h with hangWarn := v }
          else if off = 0x20 ∧ h.hangWarn < v ∧ v ≤ 1000000 then { h with hangReport := v }
          else if off = 0x28 ∧ 1 ≤ v ∧ v ≤ 168 then { h with scrub := v }
          else if off = 0x30 ∧ 8 ≤ v ∧ v ≤ 64 then { h with nres := v } else h)) ∧
    ∀ fails, h.bringing = true → h.stage = 5 → fails.dies = 0 → failWord fails = 0 →
      ∃ t, exec (.powerGood fails) s = .next t ∧ t.ctl.host.nresNow = h.nres ∧ t.ctl.host.nres = h.nres
end

