-- ==== Sys2Proof/Laws/Sparse.lean ====
section
/-! SUPPORT. Storage: a read after a write, and that every operation keeps the canonical form. -/

namespace Sys2Proof

/-- The canonical form: keys strictly rising, no value zero. -/
theorem cellsWf_iff {w : Nat} (l : List (Nat × BitVec w)) :
    cellsWf l = true ↔ l.Pairwise (fun a b => a.1 < b.1) ∧ ∀ c ∈ l, c.2 ≠ 0 := by
  induction l with
  | nil => simp [cellsWf]
  | cons c r ih =>
    obtain ⟨i, x⟩ := c
    simp only [cellsWf, Bool.and_eq_true, bne_iff_ne, ih, List.pairwise_cons, List.mem_cons, forall_eq_or_imp]
    cases r with
    | nil => simp
    | cons d r =>
      simp only [decide_eq_true_eq, List.pairwise_cons, List.mem_cons, forall_eq_or_imp]
      constructor
      · rintro ⟨⟨hx, hd⟩, ⟨hp, hq⟩, hv⟩
        exact ⟨⟨⟨hd, fun a ha => lt_trans hd (hp a ha)⟩, hp, hq⟩, hx, hv⟩
      · rintro ⟨⟨⟨hd, -⟩, hp, hq⟩, hx, hv⟩
        exact ⟨⟨hx, hd⟩, ⟨hp, hq⟩, hv⟩

theorem cellsGet_set_ne {w : Nat} (k j : Nat) (v : BitVec w) (h : k ≠ j) (l : List (Nat × BitVec w)) :
    cellsGet k (cellsSet j v l) = cellsGet k l := by
  have hj : j ≠ k := h.symm
  induction l with
  | nil => simp only [cellsSet]; split <;> simp [cellsGet, hj]
  | cons c r ih =>
    obtain ⟨i, x⟩ := c
    simp only [cellsSet]
    split
    · subst i; split <;> simp [cellsGet, hj]
    · split
      · split <;> simp [cellsGet, hj]
      · simp [cellsGet, ih]

/-- A key that no cell has reads zero. -/
theorem cellsGet_absent {w : Nat} (k : Nat) (l : List (Nat × BitVec w)) (h : ∀ c ∈ l, c.1 ≠ k) : cellsGet k l = 0 := by
  induction l with
  | nil => rfl
  | cons c r ih =>
    rw [cellsGet, if_neg (h c (by simp))]
    exact ih (fun d hd => h d (by simp [hd]))

theorem cellsGet_set_self {w : Nat} (k : Nat) (v : BitVec w) (l : List (Nat × BitVec w)) (hw : cellsWf l = true) :
    cellsGet k (cellsSet k v l) = v := by
  rw [cellsWf_iff] at hw
  induction l with
  | nil => simp only [cellsSet]; split <;> simp_all [cellsGet]
  | cons c r ih =>
    obtain ⟨i, x⟩ := c
    obtain ⟨hp, hv⟩ := hw
    rw [List.pairwise_cons] at hp
    have hr : ∀ d ∈ r, i < d.1 := hp.1
    simp only [cellsSet]
    split
    · subst i
      split
      · rename_i h0
        rw [h0]
        exact cellsGet_absent k r (fun d hd => by have := hr d hd; omega)
      · simp [cellsGet]
    · split
      · split
        · rename_i hne hk h0
          rw [h0]
          refine cellsGet_absent k _ (fun d hd => ?_)
          rcases List.mem_cons.1 hd with rfl | hd
          · exact hne
          · have := hr d hd; omega
        · simp [cellsGet]
      · rename_i hne _
        rw [cellsGet, if_neg hne]
        exact ih ⟨hp.2, fun d hd => hv d (by simp [hd])⟩

/-- The cells after a write are the written one and the old ones of other keys. -/
theorem mem_cellsSet {w : Nat} (j : Nat) (v : BitVec w) (l : List (Nat × BitVec w)) (c : Nat × BitVec w)
    (h : c ∈ cellsSet j v l) : (c = (j, v) ∧ v ≠ 0) ∨ c ∈ l := by
  induction l with
  | nil =>
    simp only [cellsSet] at h
    split at h
    · simp at h
    · rename_i hv; exact .inl ⟨by simpa using h, hv⟩
  | cons d r ih =>
    obtain ⟨i, x⟩ := d
    simp only [cellsSet] at h
    split at h
    · split at h
      · exact .inr (by simp [h])
      · rename_i hv
        rcases List.mem_cons.1 h with rfl | h
        · exact .inl ⟨rfl, hv⟩
        · exact .inr (by simp [h])
    · split at h
      · split at h
        · exact .inr h
        · rename_i hv
          rcases List.mem_cons.1 h with rfl | h
          · exact .inl ⟨rfl, hv⟩
          · exact .inr h
      · rcases List.mem_cons.1 h with rfl | h
        · exact .inr (by simp)
        · rcases ih h with h | h
          · exact .inl h
          · exact .inr (by simp [h])

theorem cellsWf_set {w : Nat} (j : Nat) (v : BitVec w) (l : List (Nat × BitVec w)) (hw : cellsWf l = true) :
    cellsWf (cellsSet j v l) = true := by
  rw [cellsWf_iff] at hw ⊢
  refine ⟨?_, fun c hc => ?_⟩
  · induction l with
    | nil => simp only [cellsSet]; split <;> simp
    | cons d r ih =>
      obtain ⟨i, x⟩ := d
      obtain ⟨hp, hv⟩ := hw
      rw [List.pairwise_cons] at hp
      simp only [cellsSet]
      split
      · subst i
        split
        · exact hp.2
        · exact List.pairwise_cons.2 ⟨hp.1, hp.2⟩
      · split
        · split
          · exact List.pairwise_cons.2 hp
          · rename_i hk _
            refine List.pairwise_cons.2 ⟨fun d hd => ?_, List.pairwise_cons.2 hp⟩
            rcases List.mem_cons.1 hd with rfl | hd
            · exact hk
            · have := hp.1 d hd; simp only at this ⊢; omega
        · rename_i hne hk
          refine List.pairwise_cons.2 ⟨fun d hd => ?_, ih ⟨hp.2, fun d hd => hv d (by simp [hd])⟩⟩
          rcases mem_cellsSet j v r d hd with ⟨rfl, -⟩ | hd
          · simp only; omega
          · exact hp.1 d hd
  · rcases mem_cellsSet j v l c hc with ⟨rfl, h⟩ | h
    · exact h
    · exact hw.2 c h

theorem cellsWf_filter {w : Nat} (p : Nat × BitVec w → Bool) (l : List (Nat × BitVec w)) (hw : cellsWf l = true) :
    cellsWf (l.filter p) = true := by
  rw [cellsWf_iff] at hw ⊢
  exact ⟨hw.1.sublist List.filter_sublist, fun c hc => hw.2 c (List.mem_of_mem_filter hc)⟩

theorem cellsGet_filter {w : Nat} (k : Nat) (p : Nat → Bool) (l : List (Nat × BitVec w)) :
    cellsGet k (l.filter (fun c => p c.1)) = if p k then cellsGet k l else 0 := by
  induction l with
  | nil => simp [cellsGet]
  | cons c r ih =>
    obtain ⟨i, x⟩ := c
    by_cases hik : i = k
    · subst i
      by_cases hp : p k <;> simp_all [cellsGet]
    · by_cases hp : p i <;> simp_all [cellsGet]

/-- A read of the written address gives the written value. -/
@[simp] theorem Sparse.get_set_self {w : Nat} (m : Sparse w) (k : Nat) (v : BitVec w) (h : m.wf = true) :
    (m.set k v).get k = v := cellsGet_set_self k v m.cells h

/-- A write leaves every other address alone. -/
theorem Sparse.get_set_ne {w : Nat} (m : Sparse w) (k j : Nat) (v : BitVec w) (h : k ≠ j) :
    (m.set j v).get k = m.get k := cellsGet_set_ne k j v h m.cells

/-- Clearing a range makes it read zero and leaves the rest. -/
theorem Sparse.get_clear {w : Nat} (m : Sparse w) (lo hi k : Nat) :
    (m.clear lo hi).get k = if lo ≤ k ∧ k < hi then 0 else m.get k := by
  have h := cellsGet_filter k (fun a => !(decide (lo ≤ a) && decide (a < hi))) m.cells
  simp only [Sparse.get, Sparse.clear]
  rw [h]
  by_cases h1 : lo ≤ k <;> by_cases h2 : k < hi <;> simp [h1, h2]

@[simp] theorem Sparse.get_empty {w : Nat} (k : Nat) : (Sparse.empty : Sparse w).get k = 0 := rfl

@[simp] theorem Sparse.wf_empty {w : Nat} : (Sparse.empty : Sparse w).wf = true := rfl

/-- A write keeps the canonical form. -/
theorem Sparse.wf_set {w : Nat} (m : Sparse w) (k : Nat) (v : BitVec w) (h : m.wf = true) : (m.set k v).wf = true :=
  cellsWf_set k v m.cells h

/-- Clearing a range keeps the canonical form. -/
theorem Sparse.wf_clear {w : Nat} (m : Sparse w) (lo hi : Nat) (h : m.wf = true) : (m.clear lo hi).wf = true :=
  cellsWf_filter _ m.cells h

end Sys2Proof
end

