-- ==== Sys2Proof/Laws/State.lean ====
section
/-! SUPPORT. What each primitive update does to each field of the state: one lemma per field per update. -/

namespace Sys2Proof.Machine

@[simp] theorem applyUpd_byte_dm_dm (s : State) (key : Nat) (x : Byte) :
    (applyUpd s (.byte .dm key x)).dm = s.dm.set key x := rfl
@[simp] theorem applyUpd_byte_dm_dp (s : State) (key : Nat) (x : Byte) :
    (applyUpd s (.byte .dm key x)).dp = s.dp := rfl
@[simp] theorem applyUpd_byte_dm_tm (s : State) (key : Nat) (x : Byte) :
    (applyUpd s (.byte .dm key x)).tm = s.tm := rfl
@[simp] theorem applyUpd_byte_dm_hm (s : State) (key : Nat) (x : Byte) :
    (applyUpd s (.byte .dm key x)).hm = s.hm := rfl
@[simp] theorem applyUpd_byte_dm_rm (s : State) (key : Nat) (x : Byte) :
    (applyUpd s (.byte .dm key x)).rm = s.rm := rfl
@[simp] theorem applyUpd_byte_dm_v (s : State) (key : Nat) (x : Byte) :
    (applyUpd s (.byte .dm key x)).v = s.v := rfl
@[simp] theorem applyUpd_byte_dm_vi (s : State) (key : Nat) (x : Byte) :
    (applyUpd s (.byte .dm key x)).vi = s.vi := rfl
@[simp] theorem applyUpd_byte_dm_a (s : State) (key : Nat) (x : Byte) :
    (applyUpd s (.byte .dm key x)).a = s.a := rfl
@[simp] theorem applyUpd_byte_dm_w (s : State) (key : Nat) (x : Byte) :
    (applyUpd s (.byte .dm key x)).w = s.w := rfl
@[simp] theorem applyUpd_byte_dm_k (s : State) (key : Nat) (x : Byte) :
    (applyUpd s (.byte .dm key x)).k = s.k := rfl
@[simp] theorem applyUpd_byte_dm_csr (s : State) (key : Nat) (x : Byte) :
    (applyUpd s (.byte .dm key x)).csr = s.csr := rfl
@[simp] theorem applyUpd_byte_dm_ctl (s : State) (key : Nat) (x : Byte) :
    (applyUpd s (.byte .dm key x)).ctl = s.ctl := rfl
@[simp] theorem applyUpd_wipe_dm_dm (s : State) (lo hi : Nat) :
    (applyUpd s (.wipe .dm lo hi)).dm = s.dm.clear lo hi := rfl
@[simp] theorem applyUpd_wipe_dm_dp (s : State) (lo hi : Nat) :
    (applyUpd s (.wipe .dm lo hi)).dp = s.dp := rfl
@[simp] theorem applyUpd_wipe_dm_tm (s : State) (lo hi : Nat) :
    (applyUpd s (.wipe .dm lo hi)).tm = s.tm := rfl
@[simp] theorem applyUpd_wipe_dm_hm (s : State) (lo hi : Nat) :
    (applyUpd s (.wipe .dm lo hi)).hm = s.hm := rfl
@[simp] theorem applyUpd_wipe_dm_rm (s : State) (lo hi : Nat) :
    (applyUpd s (.wipe .dm lo hi)).rm = s.rm := rfl
@[simp] theorem applyUpd_wipe_dm_v (s : State) (lo hi : Nat) :
    (applyUpd s (.wipe .dm lo hi)).v = s.v := rfl
@[simp] theorem applyUpd_wipe_dm_vi (s : State) (lo hi : Nat) :
    (applyUpd s (.wipe .dm lo hi)).vi = s.vi := rfl
@[simp] theorem applyUpd_wipe_dm_a (s : State) (lo hi : Nat) :
    (applyUpd s (.wipe .dm lo hi)).a = s.a := rfl
@[simp] theorem applyUpd_wipe_dm_w (s : State) (lo hi : Nat) :
    (applyUpd s (.wipe .dm lo hi)).w = s.w := rfl
@[simp] theorem applyUpd_wipe_dm_k (s : State) (lo hi : Nat) :
    (applyUpd s (.wipe .dm lo hi)).k = s.k := rfl
@[simp] theorem applyUpd_wipe_dm_csr (s : State) (lo hi : Nat) :
    (applyUpd s (.wipe .dm lo hi)).csr = s.csr := rfl
@[simp] theorem applyUpd_wipe_dm_ctl (s : State) (lo hi : Nat) :
    (applyUpd s (.wipe .dm lo hi)).ctl = s.ctl := rfl
@[simp] theorem applyUpd_byte_dp_dm (s : State) (key : Nat) (x : Byte) :
    (applyUpd s (.byte .dp key x)).dm = s.dm := rfl
@[simp] theorem applyUpd_byte_dp_dp (s : State) (key : Nat) (x : Byte) :
    (applyUpd s (.byte .dp key x)).dp = s.dp.set key x := rfl
@[simp] theorem applyUpd_byte_dp_tm (s : State) (key : Nat) (x : Byte) :
    (applyUpd s (.byte .dp key x)).tm = s.tm := rfl
@[simp] theorem applyUpd_byte_dp_hm (s : State) (key : Nat) (x : Byte) :
    (applyUpd s (.byte .dp key x)).hm = s.hm := rfl
@[simp] theorem applyUpd_byte_dp_rm (s : State) (key : Nat) (x : Byte) :
    (applyUpd s (.byte .dp key x)).rm = s.rm := rfl
@[simp] theorem applyUpd_byte_dp_v (s : State) (key : Nat) (x : Byte) :
    (applyUpd s (.byte .dp key x)).v = s.v := rfl
@[simp] theorem applyUpd_byte_dp_vi (s : State) (key : Nat) (x : Byte) :
    (applyUpd s (.byte .dp key x)).vi = s.vi := rfl
@[simp] theorem applyUpd_byte_dp_a (s : State) (key : Nat) (x : Byte) :
    (applyUpd s (.byte .dp key x)).a = s.a := rfl
@[simp] theorem applyUpd_byte_dp_w (s : State) (key : Nat) (x : Byte) :
    (applyUpd s (.byte .dp key x)).w = s.w := rfl
@[simp] theorem applyUpd_byte_dp_k (s : State) (key : Nat) (x : Byte) :
    (applyUpd s (.byte .dp key x)).k = s.k := rfl
@[simp] theorem applyUpd_byte_dp_csr (s : State) (key : Nat) (x : Byte) :
    (applyUpd s (.byte .dp key x)).csr = s.csr := rfl
@[simp] theorem applyUpd_byte_dp_ctl (s : State) (key : Nat) (x : Byte) :
    (applyUpd s (.byte .dp key x)).ctl = s.ctl := rfl
@[simp] theorem applyUpd_wipe_dp_dm (s : State) (lo hi : Nat) :
    (applyUpd s (.wipe .dp lo hi)).dm = s.dm := rfl
@[simp] theorem applyUpd_wipe_dp_dp (s : State) (lo hi : Nat) :
    (applyUpd s (.wipe .dp lo hi)).dp = s.dp.clear lo hi := rfl
@[simp] theorem applyUpd_wipe_dp_tm (s : State) (lo hi : Nat) :
    (applyUpd s (.wipe .dp lo hi)).tm = s.tm := rfl
@[simp] theorem applyUpd_wipe_dp_hm (s : State) (lo hi : Nat) :
    (applyUpd s (.wipe .dp lo hi)).hm = s.hm := rfl
@[simp] theorem applyUpd_wipe_dp_rm (s : State) (lo hi : Nat) :
    (applyUpd s (.wipe .dp lo hi)).rm = s.rm := rfl
@[simp] theorem applyUpd_wipe_dp_v (s : State) (lo hi : Nat) :
    (applyUpd s (.wipe .dp lo hi)).v = s.v := rfl
@[simp] theorem applyUpd_wipe_dp_vi (s : State) (lo hi : Nat) :
    (applyUpd s (.wipe .dp lo hi)).vi = s.vi := rfl
@[simp] theorem applyUpd_wipe_dp_a (s : State) (lo hi : Nat) :
    (applyUpd s (.wipe .dp lo hi)).a = s.a := rfl
@[simp] theorem applyUpd_wipe_dp_w (s : State) (lo hi : Nat) :
    (applyUpd s (.wipe .dp lo hi)).w = s.w := rfl
@[simp] theorem applyUpd_wipe_dp_k (s : State) (lo hi : Nat) :
    (applyUpd s (.wipe .dp lo hi)).k = s.k := rfl
@[simp] theorem applyUpd_wipe_dp_csr (s : State) (lo hi : Nat) :
    (applyUpd s (.wipe .dp lo hi)).csr = s.csr := rfl
@[simp] theorem applyUpd_wipe_dp_ctl (s : State) (lo hi : Nat) :
    (applyUpd s (.wipe .dp lo hi)).ctl = s.ctl := rfl
@[simp] theorem applyUpd_byte_tm_dm (s : State) (key : Nat) (x : Byte) :
    (applyUpd s (.byte .tm key x)).dm = s.dm := rfl
@[simp] theorem applyUpd_byte_tm_dp (s : State) (key : Nat) (x : Byte) :
    (applyUpd s (.byte .tm key x)).dp = s.dp := rfl
@[simp] theorem applyUpd_byte_tm_tm (s : State) (key : Nat) (x : Byte) :
    (applyUpd s (.byte .tm key x)).tm = s.tm.set key x := rfl
@[simp] theorem applyUpd_byte_tm_hm (s : State) (key : Nat) (x : Byte) :
    (applyUpd s (.byte .tm key x)).hm = s.hm := rfl
@[simp] theorem applyUpd_byte_tm_rm (s : State) (key : Nat) (x : Byte) :
    (applyUpd s (.byte .tm key x)).rm = s.rm := rfl
@[simp] theorem applyUpd_byte_tm_v (s : State) (key : Nat) (x : Byte) :
    (applyUpd s (.byte .tm key x)).v = s.v := rfl
@[simp] theorem applyUpd_byte_tm_vi (s : State) (key : Nat) (x : Byte) :
    (applyUpd s (.byte .tm key x)).vi = s.vi := rfl
@[simp] theorem applyUpd_byte_tm_a (s : State) (key : Nat) (x : Byte) :
    (applyUpd s (.byte .tm key x)).a = s.a := rfl
@[simp] theorem applyUpd_byte_tm_w (s : State) (key : Nat) (x : Byte) :
    (applyUpd s (.byte .tm key x)).w = s.w := rfl
@[simp] theorem applyUpd_byte_tm_k (s : State) (key : Nat) (x : Byte) :
    (applyUpd s (.byte .tm key x)).k = s.k := rfl
@[simp] theorem applyUpd_byte_tm_csr (s : State) (key : Nat) (x : Byte) :
    (applyUpd s (.byte .tm key x)).csr = s.csr := rfl
@[simp] theorem applyUpd_byte_tm_ctl (s : State) (key : Nat) (x : Byte) :
    (applyUpd s (.byte .tm key x)).ctl = s.ctl := rfl
@[simp] theorem applyUpd_wipe_tm_dm (s : State) (lo hi : Nat) :
    (applyUpd s (.wipe .tm lo hi)).dm = s.dm := rfl
@[simp] theorem applyUpd_wipe_tm_dp (s : State) (lo hi : Nat) :
    (applyUpd s (.wipe .tm lo hi)).dp = s.dp := rfl
@[simp] theorem applyUpd_wipe_tm_tm (s : State) (lo hi : Nat) :
    (applyUpd s (.wipe .tm lo hi)).tm = s.tm.clear lo hi := rfl
@[simp] theorem applyUpd_wipe_tm_hm (s : State) (lo hi : Nat) :
    (applyUpd s (.wipe .tm lo hi)).hm = s.hm := rfl
@[simp] theorem applyUpd_wipe_tm_rm (s : State) (lo hi : Nat) :
    (applyUpd s (.wipe .tm lo hi)).rm = s.rm := rfl
@[simp] theorem applyUpd_wipe_tm_v (s : State) (lo hi : Nat) :
    (applyUpd s (.wipe .tm lo hi)).v = s.v := rfl
@[simp] theorem applyUpd_wipe_tm_vi (s : State) (lo hi : Nat) :
    (applyUpd s (.wipe .tm lo hi)).vi = s.vi := rfl
@[simp] theorem applyUpd_wipe_tm_a (s : State) (lo hi : Nat) :
    (applyUpd s (.wipe .tm lo hi)).a = s.a := rfl
@[simp] theorem applyUpd_wipe_tm_w (s : State) (lo hi : Nat) :
    (applyUpd s (.wipe .tm lo hi)).w = s.w := rfl
@[simp] theorem applyUpd_wipe_tm_k (s : State) (lo hi : Nat) :
    (applyUpd s (.wipe .tm lo hi)).k = s.k := rfl
@[simp] theorem applyUpd_wipe_tm_csr (s : State) (lo hi : Nat) :
    (applyUpd s (.wipe .tm lo hi)).csr = s.csr := rfl
@[simp] theorem applyUpd_wipe_tm_ctl (s : State) (lo hi : Nat) :
    (applyUpd s (.wipe .tm lo hi)).ctl = s.ctl := rfl
@[simp] theorem applyUpd_byte_hm_dm (s : State) (key : Nat) (x : Byte) :
    (applyUpd s (.byte .hm key x)).dm = s.dm := rfl
@[simp] theorem applyUpd_byte_hm_dp (s : State) (key : Nat) (x : Byte) :
    (applyUpd s (.byte .hm key x)).dp = s.dp := rfl
@[simp] theorem applyUpd_byte_hm_tm (s : State) (key : Nat) (x : Byte) :
    (applyUpd s (.byte .hm key x)).tm = s.tm := rfl
@[simp] theorem applyUpd_byte_hm_hm (s : State) (key : Nat) (x : Byte) :
    (applyUpd s (.byte .hm key x)).hm = s.hm.set key x := rfl
@[simp] theorem applyUpd_byte_hm_rm (s : State) (key : Nat) (x : Byte) :
    (applyUpd s (.byte .hm key x)).rm = s.rm := rfl
@[simp] theorem applyUpd_byte_hm_v (s : State) (key : Nat) (x : Byte) :
    (applyUpd s (.byte .hm key x)).v = s.v := rfl
@[simp] theorem applyUpd_byte_hm_vi (s : State) (key : Nat) (x : Byte) :
    (applyUpd s (.byte .hm key x)).vi = s.vi := rfl
@[simp] theorem applyUpd_byte_hm_a (s : State) (key : Nat) (x : Byte) :
    (applyUpd s (.byte .hm key x)).a = s.a := rfl
@[simp] theorem applyUpd_byte_hm_w (s : State) (key : Nat) (x : Byte) :
    (applyUpd s (.byte .hm key x)).w = s.w := rfl
@[simp] theorem applyUpd_byte_hm_k (s : State) (key : Nat) (x : Byte) :
    (applyUpd s (.byte .hm key x)).k = s.k := rfl
@[simp] theorem applyUpd_byte_hm_csr (s : State) (key : Nat) (x : Byte) :
    (applyUpd s (.byte .hm key x)).csr = s.csr := rfl
@[simp] theorem applyUpd_byte_hm_ctl (s : State) (key : Nat) (x : Byte) :
    (applyUpd s (.byte .hm key x)).ctl = s.ctl := rfl
@[simp] theorem applyUpd_wipe_hm_dm (s : State) (lo hi : Nat) :
    (applyUpd s (.wipe .hm lo hi)).dm = s.dm := rfl
@[simp] theorem applyUpd_wipe_hm_dp (s : State) (lo hi : Nat) :
    (applyUpd s (.wipe .hm lo hi)).dp = s.dp := rfl
@[simp] theorem applyUpd_wipe_hm_tm (s : State) (lo hi : Nat) :
    (applyUpd s (.wipe .hm lo hi)).tm = s.tm := rfl
@[simp] theorem applyUpd_wipe_hm_hm (s : State) (lo hi : Nat) :
    (applyUpd s (.wipe .hm lo hi)).hm = s.hm.clear lo hi := rfl
@[simp] theorem applyUpd_wipe_hm_rm (s : State) (lo hi : Nat) :
    (applyUpd s (.wipe .hm lo hi)).rm = s.rm := rfl
@[simp] theorem applyUpd_wipe_hm_v (s : State) (lo hi : Nat) :
    (applyUpd s (.wipe .hm lo hi)).v = s.v := rfl
@[simp] theorem applyUpd_wipe_hm_vi (s : State) (lo hi : Nat) :
    (applyUpd s (.wipe .hm lo hi)).vi = s.vi := rfl
@[simp] theorem applyUpd_wipe_hm_a (s : State) (lo hi : Nat) :
    (applyUpd s (.wipe .hm lo hi)).a = s.a := rfl
@[simp] theorem applyUpd_wipe_hm_w (s : State) (lo hi : Nat) :
    (applyUpd s (.wipe .hm lo hi)).w = s.w := rfl
@[simp] theorem applyUpd_wipe_hm_k (s : State) (lo hi : Nat) :
    (applyUpd s (.wipe .hm lo hi)).k = s.k := rfl
@[simp] theorem applyUpd_wipe_hm_csr (s : State) (lo hi : Nat) :
    (applyUpd s (.wipe .hm lo hi)).csr = s.csr := rfl
@[simp] theorem applyUpd_wipe_hm_ctl (s : State) (lo hi : Nat) :
    (applyUpd s (.wipe .hm lo hi)).ctl = s.ctl := rfl
@[simp] theorem applyUpd_byte_rm_dm (s : State) (key : Nat) (x : Byte) :
    (applyUpd s (.byte .rm key x)).dm = s.dm := rfl
@[simp] theorem applyUpd_byte_rm_dp (s : State) (key : Nat) (x : Byte) :
    (applyUpd s (.byte .rm key x)).dp = s.dp := rfl
@[simp] theorem applyUpd_byte_rm_tm (s : State) (key : Nat) (x : Byte) :
    (applyUpd s (.byte .rm key x)).tm = s.tm := rfl
@[simp] theorem applyUpd_byte_rm_hm (s : State) (key : Nat) (x : Byte) :
    (applyUpd s (.byte .rm key x)).hm = s.hm := rfl
@[simp] theorem applyUpd_byte_rm_rm (s : State) (key : Nat) (x : Byte) :
    (applyUpd s (.byte .rm key x)).rm = s.rm.set key x := rfl
@[simp] theorem applyUpd_byte_rm_v (s : State) (key : Nat) (x : Byte) :
    (applyUpd s (.byte .rm key x)).v = s.v := rfl
@[simp] theorem applyUpd_byte_rm_vi (s : State) (key : Nat) (x : Byte) :
    (applyUpd s (.byte .rm key x)).vi = s.vi := rfl
@[simp] theorem applyUpd_byte_rm_a (s : State) (key : Nat) (x : Byte) :
    (applyUpd s (.byte .rm key x)).a = s.a := rfl
@[simp] theorem applyUpd_byte_rm_w (s : State) (key : Nat) (x : Byte) :
    (applyUpd s (.byte .rm key x)).w = s.w := rfl
@[simp] theorem applyUpd_byte_rm_k (s : State) (key : Nat) (x : Byte) :
    (applyUpd s (.byte .rm key x)).k = s.k := rfl
@[simp] theorem applyUpd_byte_rm_csr (s : State) (key : Nat) (x : Byte) :
    (applyUpd s (.byte .rm key x)).csr = s.csr := rfl
@[simp] theorem applyUpd_byte_rm_ctl (s : State) (key : Nat) (x : Byte) :
    (applyUpd s (.byte .rm key x)).ctl = s.ctl := rfl
@[simp] theorem applyUpd_wipe_rm_dm (s : State) (lo hi : Nat) :
    (applyUpd s (.wipe .rm lo hi)).dm = s.dm := rfl
@[simp] theorem applyUpd_wipe_rm_dp (s : State) (lo hi : Nat) :
    (applyUpd s (.wipe .rm lo hi)).dp = s.dp := rfl
@[simp] theorem applyUpd_wipe_rm_tm (s : State) (lo hi : Nat) :
    (applyUpd s (.wipe .rm lo hi)).tm = s.tm := rfl
@[simp] theorem applyUpd_wipe_rm_hm (s : State) (lo hi : Nat) :
    (applyUpd s (.wipe .rm lo hi)).hm = s.hm := rfl
@[simp] theorem applyUpd_wipe_rm_rm (s : State) (lo hi : Nat) :
    (applyUpd s (.wipe .rm lo hi)).rm = s.rm.clear lo hi := rfl
@[simp] theorem applyUpd_wipe_rm_v (s : State) (lo hi : Nat) :
    (applyUpd s (.wipe .rm lo hi)).v = s.v := rfl
@[simp] theorem applyUpd_wipe_rm_vi (s : State) (lo hi : Nat) :
    (applyUpd s (.wipe .rm lo hi)).vi = s.vi := rfl
@[simp] theorem applyUpd_wipe_rm_a (s : State) (lo hi : Nat) :
    (applyUpd s (.wipe .rm lo hi)).a = s.a := rfl
@[simp] theorem applyUpd_wipe_rm_w (s : State) (lo hi : Nat) :
    (applyUpd s (.wipe .rm lo hi)).w = s.w := rfl
@[simp] theorem applyUpd_wipe_rm_k (s : State) (lo hi : Nat) :
    (applyUpd s (.wipe .rm lo hi)).k = s.k := rfl
@[simp] theorem applyUpd_wipe_rm_csr (s : State) (lo hi : Nat) :
    (applyUpd s (.wipe .rm lo hi)).csr = s.csr := rfl
@[simp] theorem applyUpd_wipe_rm_ctl (s : State) (lo hi : Nat) :
    (applyUpd s (.wipe .rm lo hi)).ctl = s.ctl := rfl
@[simp] theorem applyUpd_v_dm (s : State) (key : Nat) (x : BitVec 32) :
    (applyUpd s (.reg32 .v key x)).dm = s.dm := rfl
@[simp] theorem applyUpd_v_dp (s : State) (key : Nat) (x : BitVec 32) :
    (applyUpd s (.reg32 .v key x)).dp = s.dp := rfl
@[simp] theorem applyUpd_v_tm (s : State) (key : Nat) (x : BitVec 32) :
    (applyUpd s (.reg32 .v key x)).tm = s.tm := rfl
@[simp] theorem applyUpd_v_hm (s : State) (key : Nat) (x : BitVec 32) :
    (applyUpd s (.reg32 .v key x)).hm = s.hm := rfl
@[simp] theorem applyUpd_v_rm (s : State) (key : Nat) (x : BitVec 32) :
    (applyUpd s (.reg32 .v key x)).rm = s.rm := rfl
@[simp] theorem applyUpd_v_v (s : State) (key : Nat) (x : BitVec 32) :
    (applyUpd s (.reg32 .v key x)).v = s.v.set key x := rfl
@[simp] theorem applyUpd_v_vi (s : State) (key : Nat) (x : BitVec 32) :
    (applyUpd s (.reg32 .v key x)).vi = s.vi := rfl
@[simp] theorem applyUpd_v_a (s : State) (key : Nat) (x : BitVec 32) :
    (applyUpd s (.reg32 .v key x)).a = s.a := rfl
@[simp] theorem applyUpd_v_w (s : State) (key : Nat) (x : BitVec 32) :
    (applyUpd s (.reg32 .v key x)).w = s.w := rfl
@[simp] theorem applyUpd_v_k (s : State) (key : Nat) (x : BitVec 32) :
    (applyUpd s (.reg32 .v key x)).k = s.k := rfl
@[simp] theorem applyUpd_v_csr (s : State) (key : Nat) (x : BitVec 32) :
    (applyUpd s (.reg32 .v key x)).csr = s.csr := rfl
@[simp] theorem applyUpd_v_ctl (s : State) (key : Nat) (x : BitVec 32) :
    (applyUpd s (.reg32 .v key x)).ctl = s.ctl := rfl
@[simp] theorem applyUpd_vi_dm (s : State) (key : Nat) (x : BitVec 32) :
    (applyUpd s (.reg32 .vi key x)).dm = s.dm := rfl
@[simp] theorem applyUpd_vi_dp (s : State) (key : Nat) (x : BitVec 32) :
    (applyUpd s (.reg32 .vi key x)).dp = s.dp := rfl
@[simp] theorem applyUpd_vi_tm (s : State) (key : Nat) (x : BitVec 32) :
    (applyUpd s (.reg32 .vi key x)).tm = s.tm := rfl
@[simp] theorem applyUpd_vi_hm (s : State) (key : Nat) (x : BitVec 32) :
    (applyUpd s (.reg32 .vi key x)).hm = s.hm := rfl
@[simp] theorem applyUpd_vi_rm (s : State) (key : Nat) (x : BitVec 32) :
    (applyUpd s (.reg32 .vi key x)).rm = s.rm := rfl
@[simp] theorem applyUpd_vi_v (s : State) (key : Nat) (x : BitVec 32) :
    (applyUpd s (.reg32 .vi key x)).v = s.v := rfl
@[simp] theorem applyUpd_vi_vi (s : State) (key : Nat) (x : BitVec 32) :
    (applyUpd s (.reg32 .vi key x)).vi = s.vi.set key x := rfl
@[simp] theorem applyUpd_vi_a (s : State) (key : Nat) (x : BitVec 32) :
    (applyUpd s (.reg32 .vi key x)).a = s.a := rfl
@[simp] theorem applyUpd_vi_w (s : State) (key : Nat) (x : BitVec 32) :
    (applyUpd s (.reg32 .vi key x)).w = s.w := rfl
@[simp] theorem applyUpd_vi_k (s : State) (key : Nat) (x : BitVec 32) :
    (applyUpd s (.reg32 .vi key x)).k = s.k := rfl
@[simp] theorem applyUpd_vi_csr (s : State) (key : Nat) (x : BitVec 32) :
    (applyUpd s (.reg32 .vi key x)).csr = s.csr := rfl
@[simp] theorem applyUpd_vi_ctl (s : State) (key : Nat) (x : BitVec 32) :
    (applyUpd s (.reg32 .vi key x)).ctl = s.ctl := rfl
@[simp] theorem applyUpd_a_dm (s : State) (key : Nat) (x : BitVec 32) :
    (applyUpd s (.reg32 .a key x)).dm = s.dm := rfl
@[simp] theorem applyUpd_a_dp (s : State) (key : Nat) (x : BitVec 32) :
    (applyUpd s (.reg32 .a key x)).dp = s.dp := rfl
@[simp] theorem applyUpd_a_tm (s : State) (key : Nat) (x : BitVec 32) :
    (applyUpd s (.reg32 .a key x)).tm = s.tm := rfl
@[simp] theorem applyUpd_a_hm (s : State) (key : Nat) (x : BitVec 32) :
    (applyUpd s (.reg32 .a key x)).hm = s.hm := rfl
@[simp] theorem applyUpd_a_rm (s : State) (key : Nat) (x : BitVec 32) :
    (applyUpd s (.reg32 .a key x)).rm = s.rm := rfl
@[simp] theorem applyUpd_a_v (s : State) (key : Nat) (x : BitVec 32) :
    (applyUpd s (.reg32 .a key x)).v = s.v := rfl
@[simp] theorem applyUpd_a_vi (s : State) (key : Nat) (x : BitVec 32) :
    (applyUpd s (.reg32 .a key x)).vi = s.vi := rfl
@[simp] theorem applyUpd_a_a (s : State) (key : Nat) (x : BitVec 32) :
    (applyUpd s (.reg32 .a key x)).a = s.a.set key x := rfl
@[simp] theorem applyUpd_a_w (s : State) (key : Nat) (x : BitVec 32) :
    (applyUpd s (.reg32 .a key x)).w = s.w := rfl
@[simp] theorem applyUpd_a_k (s : State) (key : Nat) (x : BitVec 32) :
    (applyUpd s (.reg32 .a key x)).k = s.k := rfl
@[simp] theorem applyUpd_a_csr (s : State) (key : Nat) (x : BitVec 32) :
    (applyUpd s (.reg32 .a key x)).csr = s.csr := rfl
@[simp] theorem applyUpd_a_ctl (s : State) (key : Nat) (x : BitVec 32) :
    (applyUpd s (.reg32 .a key x)).ctl = s.ctl := rfl
@[simp] theorem applyUpd_w_dm (s : State) (key : Nat) (x : Word) :
    (applyUpd s (.reg64 .w key x)).dm = s.dm := rfl
@[simp] theorem applyUpd_w_dp (s : State) (key : Nat) (x : Word) :
    (applyUpd s (.reg64 .w key x)).dp = s.dp := rfl
@[simp] theorem applyUpd_w_tm (s : State) (key : Nat) (x : Word) :
    (applyUpd s (.reg64 .w key x)).tm = s.tm := rfl
@[simp] theorem applyUpd_w_hm (s : State) (key : Nat) (x : Word) :
    (applyUpd s (.reg64 .w key x)).hm = s.hm := rfl
@[simp] theorem applyUpd_w_rm (s : State) (key : Nat) (x : Word) :
    (applyUpd s (.reg64 .w key x)).rm = s.rm := rfl
@[simp] theorem applyUpd_w_v (s : State) (key : Nat) (x : Word) :
    (applyUpd s (.reg64 .w key x)).v = s.v := rfl
@[simp] theorem applyUpd_w_vi (s : State) (key : Nat) (x : Word) :
    (applyUpd s (.reg64 .w key x)).vi = s.vi := rfl
@[simp] theorem applyUpd_w_a (s : State) (key : Nat) (x : Word) :
    (applyUpd s (.reg64 .w key x)).a = s.a := rfl
@[simp] theorem applyUpd_w_w (s : State) (key : Nat) (x : Word) :
    (applyUpd s (.reg64 .w key x)).w = s.w.set key x := rfl
@[simp] theorem applyUpd_w_k (s : State) (key : Nat) (x : Word) :
    (applyUpd s (.reg64 .w key x)).k = s.k := rfl
@[simp] theorem applyUpd_w_csr (s : State) (key : Nat) (x : Word) :
    (applyUpd s (.reg64 .w key x)).csr = s.csr := rfl
@[simp] theorem applyUpd_w_ctl (s : State) (key : Nat) (x : Word) :
    (applyUpd s (.reg64 .w key x)).ctl = s.ctl := rfl
@[simp] theorem applyUpd_k_dm (s : State) (key : Nat) (x : Word) :
    (applyUpd s (.reg64 .k key x)).dm = s.dm := rfl
@[simp] theorem applyUpd_k_dp (s : State) (key : Nat) (x : Word) :
    (applyUpd s (.reg64 .k key x)).dp = s.dp := rfl
@[simp] theorem applyUpd_k_tm (s : State) (key : Nat) (x : Word) :
    (applyUpd s (.reg64 .k key x)).tm = s.tm := rfl
@[simp] theorem applyUpd_k_hm (s : State) (key : Nat) (x : Word) :
    (applyUpd s (.reg64 .k key x)).hm = s.hm := rfl
@[simp] theorem applyUpd_k_rm (s : State) (key : Nat) (x : Word) :
    (applyUpd s (.reg64 .k key x)).rm = s.rm := rfl
@[simp] theorem applyUpd_k_v (s : State) (key : Nat) (x : Word) :
    (applyUpd s (.reg64 .k key x)).v = s.v := rfl
@[simp] theorem applyUpd_k_vi (s : State) (key : Nat) (x : Word) :
    (applyUpd s (.reg64 .k key x)).vi = s.vi := rfl
@[simp] theorem applyUpd_k_a (s : State) (key : Nat) (x : Word) :
    (applyUpd s (.reg64 .k key x)).a = s.a := rfl
@[simp] theorem applyUpd_k_w (s : State) (key : Nat) (x : Word) :
    (applyUpd s (.reg64 .k key x)).w = s.w := rfl
@[simp] theorem applyUpd_k_k (s : State) (key : Nat) (x : Word) :
    (applyUpd s (.reg64 .k key x)).k = s.k.set key x := rfl
@[simp] theorem applyUpd_k_csr (s : State) (key : Nat) (x : Word) :
    (applyUpd s (.reg64 .k key x)).csr = s.csr := rfl
@[simp] theorem applyUpd_k_ctl (s : State) (key : Nat) (x : Word) :
    (applyUpd s (.reg64 .k key x)).ctl = s.ctl := rfl
@[simp] theorem applyUpd_csr_dm (s : State) (key : Nat) (x : Word) :
    (applyUpd s (.csr key x)).dm = s.dm := rfl
@[simp] theorem applyUpd_csr_dp (s : State) (key : Nat) (x : Word) :
    (applyUpd s (.csr key x)).dp = s.dp := rfl
@[simp] theorem applyUpd_csr_tm (s : State) (key : Nat) (x : Word) :
    (applyUpd s (.csr key x)).tm = s.tm := rfl
@[simp] theorem applyUpd_csr_hm (s : State) (key : Nat) (x : Word) :
    (applyUpd s (.csr key x)).hm = s.hm := rfl
@[simp] theorem applyUpd_csr_rm (s : State) (key : Nat) (x : Word) :
    (applyUpd s (.csr key x)).rm = s.rm := rfl
@[simp] theorem applyUpd_csr_v (s : State) (key : Nat) (x : Word) :
    (applyUpd s (.csr key x)).v = s.v := rfl
@[simp] theorem applyUpd_csr_vi (s : State) (key : Nat) (x : Word) :
    (applyUpd s (.csr key x)).vi = s.vi := rfl
@[simp] theorem applyUpd_csr_a (s : State) (key : Nat) (x : Word) :
    (applyUpd s (.csr key x)).a = s.a := rfl
@[simp] theorem applyUpd_csr_w (s : State) (key : Nat) (x : Word) :
    (applyUpd s (.csr key x)).w = s.w := rfl
@[simp] theorem applyUpd_csr_k (s : State) (key : Nat) (x : Word) :
    (applyUpd s (.csr key x)).k = s.k := rfl
@[simp] theorem applyUpd_csr_csr (s : State) (key : Nat) (x : Word) :
    (applyUpd s (.csr key x)).csr = s.csr.set key (x &&& csrLayout (key % 8)) := rfl
@[simp] theorem applyUpd_csr_ctl (s : State) (key : Nat) (x : Word) :
    (applyUpd s (.csr key x)).ctl = s.ctl := rfl
@[simp] theorem applyUpd_wipeRegs_dm (s : State) (uid : Nat) :
    (applyUpd s (.wipeRegs uid)).dm = s.dm := rfl
@[simp] theorem applyUpd_wipeRegs_dp (s : State) (uid : Nat) :
    (applyUpd s (.wipeRegs uid)).dp = s.dp := rfl
@[simp] theorem applyUpd_wipeRegs_tm (s : State) (uid : Nat) :
    (applyUpd s (.wipeRegs uid)).tm = s.tm := rfl
@[simp] theorem applyUpd_wipeRegs_hm (s : State) (uid : Nat) :
    (applyUpd s (.wipeRegs uid)).hm = s.hm := rfl
@[simp] theorem applyUpd_wipeRegs_rm (s : State) (uid : Nat) :
    (applyUpd s (.wipeRegs uid)).rm = s.rm := rfl
@[simp] theorem applyUpd_wipeRegs_v (s : State) (uid : Nat) :
    (applyUpd s (.wipeRegs uid)).v = wipeTeam uid (2 ^ 21) s.v := rfl
@[simp] theorem applyUpd_wipeRegs_vi (s : State) (uid : Nat) :
    (applyUpd s (.wipeRegs uid)).vi = wipeTeam uid (2 ^ 16) s.vi := rfl
@[simp] theorem applyUpd_wipeRegs_a (s : State) (uid : Nat) :
    (applyUpd s (.wipeRegs uid)).a = wipeTeam uid (2 ^ 11) s.a := rfl
@[simp] theorem applyUpd_wipeRegs_w (s : State) (uid : Nat) :
    (applyUpd s (.wipeRegs uid)).w = wipeTeam uid (2 ^ 14) s.w := rfl
@[simp] theorem applyUpd_wipeRegs_k (s : State) (uid : Nat) :
    (applyUpd s (.wipeRegs uid)).k = wipeTeam uid (2 ^ 11) s.k := rfl
@[simp] theorem applyUpd_wipeRegs_csr (s : State) (uid : Nat) :
    (applyUpd s (.wipeRegs uid)).csr = wipeTeam uid (2 ^ 10) s.csr := rfl
@[simp] theorem applyUpd_wipeRegs_ctl (s : State) (uid : Nat) :
    (applyUpd s (.wipeRegs uid)).ctl = s.ctl := rfl
@[simp] theorem applyUpd_ctl_dm (s : State) (c : Ctl) :
    (applyUpd s (.ctl c)).dm = s.dm := rfl
@[simp] theorem applyUpd_ctl_dp (s : State) (c : Ctl) :
    (applyUpd s (.ctl c)).dp = s.dp := rfl
@[simp] theorem applyUpd_ctl_tm (s : State) (c : Ctl) :
    (applyUpd s (.ctl c)).tm = s.tm := rfl
@[simp] theorem applyUpd_ctl_hm (s : State) (c : Ctl) :
    (applyUpd s (.ctl c)).hm = s.hm := rfl
@[simp] theorem applyUpd_ctl_rm (s : State) (c : Ctl) :
    (applyUpd s (.ctl c)).rm = s.rm := rfl
@[simp] theorem applyUpd_ctl_v (s : State) (c : Ctl) :
    (applyUpd s (.ctl c)).v = s.v := rfl
@[simp] theorem applyUpd_ctl_vi (s : State) (c : Ctl) :
    (applyUpd s (.ctl c)).vi = s.vi := rfl
@[simp] theorem applyUpd_ctl_a (s : State) (c : Ctl) :
    (applyUpd s (.ctl c)).a = s.a := rfl
@[simp] theorem applyUpd_ctl_w (s : State) (c : Ctl) :
    (applyUpd s (.ctl c)).w = s.w := rfl
@[simp] theorem applyUpd_ctl_k (s : State) (c : Ctl) :
    (applyUpd s (.ctl c)).k = s.k := rfl
@[simp] theorem applyUpd_ctl_csr (s : State) (c : Ctl) :
    (applyUpd s (.ctl c)).csr = s.csr := rfl
@[simp] theorem applyUpd_ctl_ctl (s : State) (c : Ctl) :
    (applyUpd s (.ctl c)).ctl = c := rfl

@[simp] theorem applyAll_nil (s : State) : applyAll s [] = s := rfl

@[simp] theorem applyAll_cons (s : State) (u : Upd) (r : List Upd) : applyAll s (u :: r) = applyAll (applyUpd s u) r := rfl

@[simp] theorem applyAll_append (s : State) (l r : List Upd) : applyAll s (l ++ r) = applyAll (applyAll s l) r := by
  induction l generalizing s with
  | nil => rfl
  | cons u l ih => exact ih (applyUpd s u)

/-- What holds of the state and is kept by every update holds after any list of updates. -/
theorem applyAll_keeps {P : State → Prop} (hP : ∀ s u, P s → P (applyUpd s u)) (s : State) (us : List Upd) (h : P s) :
    P (applyAll s us) := by
  induction us generalizing s with
  | nil => exact h
  | cons u r ih => exact ih (applyUpd s u) (hP s u h)

end Sys2Proof.Machine
end

