-- ==== Sys2Proof/Laws/Run.lean ====
section
/-! SUPPORT. How a meaning runs: what each operation of `M` does to a run, and how an instruction that no check stops
ends. -/

namespace Sys2Proof.Machine

theorem bind_run {α β : Type} (m : M α) (f : α → M β) (r : Run) : (m >>= f) r = f (m r).1 (m r).2 := rfl

theorem pure_run {α : Type} (a : α) (r : Run) : (pure a : M α) r = (a, r) := rfl

theorem map_run {α β : Type} (f : α → β) (m : M α) (r : Run) : (f <$> m) r = (f (m r).1, (m r).2) := rfl

theorem drawBelow_zero_run (r : Run) : drawBelow 0 r = (0, r) := rfl

theorem get_run (r : Run) : (get : M Run) r = (r, r) := rfl

theorem getS_run (r : Run) : getS r = (r.st, r) := rfl

theorem getC_run (r : Run) : getC r = (r.st.ctl, r) := rfl

theorem emit_run (u : Upd) (r : Run) : emit u r = ((), { st := applyUpd r.st u, log := u :: r.log }) := rfl

theorem setC_run (c : Ctl) (r : Run) : setC c r = ((), { st := { r.st with ctl := c }, log := .ctl c :: r.log }) := rfl

theorem modC_run (f : Ctl → Ctl) (r : Run) :
    modC f r = ((), { st := { r.st with ctl := f r.st.ctl }, log := .ctl (f r.st.ctl) :: r.log }) := rfl

theorem emits_run (us : List Upd) (r : Run) :
    emits us r = ((), { st := applyAll r.st us, log := us.reverse ++ r.log }) := by
  induction us generalizing r with
  | nil => rfl
  | cons u us ih =>
    show emits us { st := applyUpd r.st u, log := u :: r.log } = _
    rw [ih]
    simp

theorem ite_run {α : Type} (c : Prop) [Decidable c] (a b : M α) (r : Run) :
    (if c then a else b) r = if c then a r else b r := by split <;> rfl

theorem onlyIf_run (c : Bool) (m : M Unit) (r : Run) : onlyIf c m r = if c then m r else ((), r) := by
  cases c <;> rfl

theorem runM_eq (m : M Unit) (s : State) : runM m s = .next (applyAll s (m { st := s, log := [] }).2.log.reverse) := rfl

/-- A step that only changes the control state. -/
theorem event_modC (f : Ctl → Ctl) (s : State) : event (modC f) s = .next { s with ctl := f s.ctl } := rfl

end Sys2Proof.Machine
end

