-- ==== Sys2Proof/Laws/Alu.lean ====
section
/-! SUPPORT. What an instruction that no check stops does, and what the register-only frame of R18 does. -/

namespace Sys2Proof.Machine

theorem proceed_of_executes {i : Instr} {f : Fields} {cur : Cur} {s : State} (h : Executes i f cur s)
    (body : Env → M Res) : proceed i (envOf s cur f) body = body (envOf s cur f) := by
  have ha : proceed.afterReports i (envOf s cur f) body = body (envOf s cur f) := by
    have hu : ((envOf s cur f).f.u && (envOf s cur f).ex == 0 && !countsEmpty i) = false := by
      rcases h.lanes with hl | hl | hl
      · simp [hl]
      · have : (envOf s cur f).f.u = false := hl
        simp [this]
      · have hl' : ((envOf s cur f).ex == 0) = false := by simpa using hl
        rw [hl']; simp
    simp only [proceed.afterReports, hu, h.helper, h.ready]
    have hm : (envOf s cur f).mismatch i = pure 0 := by simp [Env.mismatch, h.agrees]
    rw [hm]
    rfl
  have hd : (if (envOf s cur f).p.helper.isNone then reportsAt i (envOf s cur f).ex (envOf s cur f).g else none) = none := by
    rcases h.noReport with hr | hr
    · cases hp : (envOf s cur f).p.helper <;> simp_all
    · simp [hr]
  rw [proceed, hd]
  exact ha

/-- An instruction that no check stops runs its body and ends as the body says. -/
theorem issue_of_executes {i : Instr} {f : Fields} {cur : Cur} {s : State} (h : Executes i f cur s)
    (body : Env → M Res) :
    issue i f body s =
      runM (do
        let r ← body (envOf s cur f)
        finish i (envOf s cur f) r) s := by
  simp only [issue, h.cur_eq]
  have : issueM i f cur body { st := s, log := [] } =
      (do
        let r ← body (envOf s cur f)
        finish i (envOf s cur f) r : M Unit) { st := s, log := [] } := by
    unfold issueM
    rw [bind_run, getS_run]
    simp only [h.noTrap]
    rw [proceed_of_executes h]
  simp only [runM, updatesOf, this]

/-- A register-only instruction that no check stops: its updates, then the path goes on. -/
theorem issueOut_of_executes {i : Instr} {f : Fields} {cur : Cur} {s : State} (h : Executes i f cur s)
    (out : Env → Out) :
    issueOut i f out s =
      let e := envOf s cur f
      let t := applyAll s (out e).upds
      .next { t with ctl := t.ctl.leave cur.p (e.after i.last (some (out e).lat)) } := by
  rw [issueOut, issue_of_executes h]
  simp only [runM_eq, bind_run, emits_run, pure_run, finish, modC_run, envOf]
  simp
  rfl

/-- Writes of lane registers. -/
def vWrites (s : State) : List (Nat × BitVec 32) → State
  | [] => s
  | x :: r => vWrites { s with v := s.v.set x.1 x.2 } r

/-- The lane register updates of a list of writes. -/
def vUpds (l : List (Nat × BitVec 32)) : List Upd := l.map (fun x => Upd.reg32 .v x.1 x.2)

theorem applyAll_vUpds (s : State) (l : List (Nat × BitVec 32)) : applyAll s (vUpds l) = vWrites s l := by
  induction l generalizing s with
  | nil => rfl
  | cons x r ih => exact ih _

theorem vWrites_frame (s : State) (l : List (Nat × BitVec 32)) :
    ∃ v, vWrites s l = { s with v := v } ∧ (s.v.wf = true → v.wf = true) := by
  induction l generalizing s with
  | nil => exact ⟨s.v, rfl, id⟩
  | cons x r ih =>
    obtain ⟨v, hv, hw⟩ := ih { s with v := s.v.set x.1 x.2 }
    exact ⟨v, hv, fun h => hw (Sparse.wf_set _ _ _ h)⟩

theorem vWrites_other (s : State) (l : List (Nat × BitVec 32)) (key : Nat) (h : ∀ x ∈ l, x.1 ≠ key) :
    (vWrites s l).v.get key = s.v.get key := by
  induction l generalizing s with
  | nil => rfl
  | cons x r ih =>
    rw [vWrites, ih _ (fun y hy => h y (by simp [hy]))]
    exact Sparse.get_set_ne _ _ _ _ (h x (by simp)).symm

theorem vWrites_self (s : State) (l : List (Nat × BitVec 32)) (hn : (l.map (·.1)).Nodup) (hw : s.v.wf = true)
    (x : Nat × BitVec 32) (hx : x ∈ l) : (vWrites s l).v.get x.1 = x.2 := by
  induction l generalizing s with
  | nil => cases hx
  | cons y r ih =>
    rw [List.map_cons, List.nodup_cons] at hn
    rcases List.mem_cons.1 hx with rfl | hx
    · rw [vWrites, vWrites_other _ _ _ (fun z hz e => hn.1 (by rw [← e]; exact List.mem_map_of_mem hz))]
      exact Sparse.get_set_self _ _ _ hw
    · exact ih _ hn.2 (Sparse.wf_set _ _ _ hw) hx

theorem vKey_inj {uid p l m n : Nat} (h : vKey uid p l n = vKey uid p m n) : l = m := by
  unfold vKey at h; omega

theorem vKey_ne_succ {uid p l m n : Nat} : vKey uid p l n ≠ vKey uid p m (n + 1) := by unfold vKey; omega

/-- The lane writes of a result. -/
def laneWrites (e : Env) (n : Nat) (pair : Bool) (val : Nat → Word) (ls : List Nat) : List (Nat × BitVec 32) :=
  (ls.map (fun l =>
    if pair then [(vKey e.uid e.vp l n, BitVec.ofNat 32 ((val l).toNat % 2 ^ 32)),
                  (vKey e.uid e.vp l (n + 1), BitVec.ofNat 32 ((val l).toNat / 2 ^ 32))]
    else [(vKey e.uid e.vp l n, BitVec.ofNat 32 ((val l).toNat % 2 ^ 32))])).flatten

theorem putLane_eq (e : Env) (n : Nat) (pair : Bool) (val : Nat → Word) (ls : List Nat) :
    (ls.map (fun l => e.putLane n l pair (val l))).flatten = vUpds (laneWrites e n pair val ls) := by
  induction ls with
  | nil => rfl
  | cons l r ih =>
    have h1 : vUpds (laneWrites e n pair val (l :: r)) =
        e.putLane n l pair (val l) ++ vUpds (laneWrites e n pair val r) := by
      cases pair <;> simp [laneWrites, vUpds, Env.putLane, updPair, updV]
    rw [h1, ← ih]
    rfl

theorem mem_laneWrites (e : Env) (n : Nat) (pair : Bool) (val : Nat → Word) (ls : List Nat) (x : Nat × BitVec 32) :
    x ∈ laneWrites e n pair val ls ↔ ∃ l ∈ ls, x = (vKey e.uid e.vp l n, BitVec.ofNat 32 ((val l).toNat % 2 ^ 32)) ∨
      (pair = true ∧ x = (vKey e.uid e.vp l (n + 1), BitVec.ofNat 32 ((val l).toNat / 2 ^ 32))) := by
  cases pair <;> simp [laneWrites]

theorem laneWrites_nodup (e : Env) (n : Nat) (pair : Bool) (val : Nat → Word) (ls : List Nat) (h : ls.Nodup) :
    ((laneWrites e n pair val ls).map (·.1)).Nodup := by
  induction ls with
  | nil => simp [laneWrites]
  | cons l r ih =>
    rw [List.nodup_cons] at h
    have hr := ih h.2
    have hm : ∀ k, k ∈ (laneWrites e n pair val r).map (·.1) → k ≠ vKey e.uid e.vp l n ∧ k ≠ vKey e.uid e.vp l (n + 1) := by
      intro k hk
      obtain ⟨x, hx, rfl⟩ := List.mem_map.1 hk
      obtain ⟨m, hm, hx | ⟨-, hx⟩⟩ := (mem_laneWrites e n pair val r x).1 hx
      · rw [hx]
        exact ⟨fun q => h.1 (by rw [← vKey_inj q]; exact hm), vKey_ne_succ⟩
      · rw [hx]
        refine ⟨fun q => vKey_ne_succ q.symm, fun q => h.1 ?_⟩
        rw [← vKey_inj q]
        exact hm
    cases pair
    · show (vKey e.uid e.vp l n :: (laneWrites e n false val r).map (·.1)).Nodup
      exact List.nodup_cons.2 ⟨fun hk => (hm _ hk).1 rfl, hr⟩
    · show (vKey e.uid e.vp l n :: vKey e.uid e.vp l (n + 1) :: (laneWrites e n true val r).map (·.1)).Nodup
      refine List.nodup_cons.2 ⟨fun hk => ?_, List.nodup_cons.2 ⟨fun hk => (hm _ hk).2 rfl, hr⟩⟩
      rcases List.mem_cons.1 hk with hk | hk
      · exact vKey_ne_succ hk
      · exact (hm _ hk).1 rfl

theorem lanesOf_nodup (m : Word) (gw : Nat) : (lanesOf m gw).Nodup := List.nodup_range.filter _

theorem and_of_and_not {x m : Word} (h : x &&& ~~~m = 0) : x &&& m = x := by
  ext i hi
  have := congrArg (fun y => BitVec.getLsbD y i) h
  simp only [BitVec.getLsbD_and, BitVec.getLsbD_not] at this
  simp only [← BitVec.getLsbD_eq_getElem]
  cases hx : x.getLsbD i <;> cases hm : m.getLsbD i <;> simp_all

theorem and_or_right (x y m : Word) : (x ||| y) &&& m = (x &&& m) ||| (y &&& m) := by
  ext i hi
  simp only [BitVec.getElem_and, BitVec.getElem_or]
  cases x[i] <;> cases y[i] <;> simp

theorem updGst_apply (s0 s : State) (uid p m : Nat) (hs : s.csr = s0.csr) (hw : s0.csr.wf = true) (hc : s0.csrWf) :
    ∃ c, applyAll s (updGst s0 uid p m) = { s with csr := c } ∧
      c.get (csrKey uid p 0) = s0.csrOf uid p 0 ||| (wd m &&& csrLayout 0) ∧
      ∀ key, key ≠ csrKey uid p 0 → c.get key = s0.csr.get key := by
  unfold updGst
  by_cases hm : m = 0
  · subst hm
    refine ⟨s.csr, rfl, ?_, fun key _ => by rw [hs]⟩
    rw [hs]
    simp [State.csrOf, wd]
  · rw [if_neg hm]
    refine ⟨s.csr.set (csrKey uid p 0) ((s0.csrOf uid p 0 ||| wd m) &&& csrLayout (csrKey uid p 0 % 8)), rfl, ?_, ?_⟩
    · rw [hs, Sparse.get_set_self _ _ _ hw]
      have hk : csrKey uid p 0 % 8 = 0 := by unfold csrKey; omega
      have h0 := hc (csrKey uid p 0)
      rw [hk] at h0 ⊢
      have : s0.csrOf uid p 0 &&& csrLayout 0 = s0.csrOf uid p 0 := and_of_and_not h0
      rw [and_or_right, this]
    · intro key hk
      rw [hs]
      exact Sparse.get_set_ne _ _ _ _ hk

theorem lane_word (x : Word) (pair : Bool) :
    (if pair then (BitVec.ofNat 32 (x.toNat % 2 ^ 32)).toNat + 2 ^ 32 * (BitVec.ofNat 32 (x.toNat / 2 ^ 32)).toNat
      else (BitVec.ofNat 32 (x.toNat % 2 ^ 32)).toNat) = x.toNat % (if pair then 2 ^ 64 else 2 ^ 32) := by
  have := x.isLt
  cases pair
  · simp only [BitVec.toNat_ofNat]; simp
  · simp only [BitVec.toNat_ofNat]; simp; omega

/-- The register-only frame of R18, lane form. -/
theorem alu_lane {i : Instr} {f : Fields} {cur : Cur} {s : State} (h : Executes i f cur s) (hs : s.wf)
    (hu : f.u = false) (w : Env → Nat) (sgn : Env → Bool) (fn : Env → Nat → Nat × Nat) :
    let e := envOf s cur f
    ∃ t, issueOut i f (fun e => e.alu (w e) (sgn e) (w e == 64) (fn e)) s = .next t ∧
      LaneStep i e (w e) (sgn e) (fun l => (fn e l).1) (fun l => (fn e l).2) s t := by
  intro e
  rw [issueOut_of_executes h]
  have hfu : e.f.u = false := hu
  let ls := lanesOf e.ex e.gw
  let val (l : Nat) : Word := extTo64 (w e) (sgn e) (fn e l).1
  let ws : List (Nat × BitVec 32) := if e.f.ws then [] else laneWrites e e.f.dst.toNat (w e == 64) val ls
  have hupds : (e.alu (w e) (sgn e) (w e == 64) (fn e)).upds =
      vUpds ws ++ updGst e.s e.uid e.home (orFlags (ls.map (fun l => (fn e l).2))) := by
    simp only [Env.alu, hfu, ws]
    simp only [Bool.false_eq_true, if_false, List.map_map]
    congr 1
    split
    · rfl
    · rw [← putLane_eq]; rfl
  have hlat : (e.alu (w e) (sgn e) (w e == 64) (fn e)).lat =
      (List.range e.gw).map (fun l => if l ∈ lanesOf e.ex e.gw then extTo64 (w e) (sgn e) (fn e l).1 else 0) := by
    simp only [Env.alu, hfu]
    simp only [Bool.false_eq_true, if_false]
    refine List.map_congr_left (fun l hl => ?_)
    by_cases hm : l ∈ lanesOf e.ex e.gw
    · rw [if_pos hm]
      have : ((lanesOf e.ex e.gw).map (fun l => (l, fn e l))).find? (fun r => r.1 == l) = some (l, fn e l) := by
        rw [List.find?_map]
        have hf : (lanesOf e.ex e.gw).find? ((fun r : Nat × Nat × Nat => r.1 == l) ∘ fun l => (l, fn e l)) = some l := by
          have hq : ((fun r : Nat × Nat × Nat => r.1 == l) ∘ fun l => (l, fn e l)) = (fun m => m == l) := rfl
          rw [hq]
          cases hff : (lanesOf e.ex e.gw).find? (fun m => m == l) with
          | none =>
            have := List.find?_eq_none.1 hff l hm
            simp at this
          | some m => have := List.find?_some hff; simp at this; rw [this]
        rw [hf]; rfl
      rw [this]
    · rw [if_neg hm]
      have : ((lanesOf e.ex e.gw).map (fun l => (l, fn e l))).find? (fun r => r.1 == l) = none := by
        rw [List.find?_eq_none]
        intro r hr
        obtain ⟨m, hm', rfl⟩ := List.mem_map.1 hr
        simp only [beq_iff_eq]
        rintro rfl
        exact hm hm'
      rw [this]
  obtain ⟨v, hv, hvw⟩ := vWrites_frame s ws
  have hes : e.s = s := rfl
  obtain ⟨c, hc, hc0, hck⟩ := updGst_apply s { s with v := v } e.uid e.home
    (orFlags (ls.map (fun l => (fn e l).2))) rfl hs.2.1.2.2.2.2.2 hs.2.2
  have ht : applyAll s (e.alu (w e) (sgn e) (w e == 64) (fn e)).upds = { s with v := v, csr := c } := by
    rw [hupds, applyAll_append, applyAll_vUpds, hv, hes, hc]
  refine ⟨_, rfl, ?_⟩
  have hvv : v = (vWrites s ws).v := by rw [hv]
  constructor
  · intro hws l hl
    have hwl : ws = laneWrites e e.f.dst.toNat (w e == 64) val ls := by simp only [ws]; rw [hws]; rfl
    have hnd : (ws.map (·.1)).Nodup := hwl ▸ laneWrites_nodup _ _ _ _ _ (lanesOf_nodup _ _)
    have hget : ∀ x ∈ ws, v.get x.1 = x.2 := fun x hx => by
      rw [hvv]; exact vWrites_self s ws hnd hs.2.1.1 x hx
    simp only [Env.laneAfter]
    show (if (w e == 64) = true then _ else _) = _
    rw [ht]
    have h0 := hget _ (hwl ▸ (mem_laneWrites _ _ _ _ _ _).2 ⟨l, hl, .inl rfl⟩)
    simp only at h0
    rw [h0]
    have hval := lane_word (val l) (w e == 64)
    by_cases h64 : w e = 64
    · have hb : (w e == 64) = true := by simp [h64]
      have h1 := hget _ (hwl ▸ (mem_laneWrites _ _ _ _ _ _).2 ⟨l, hl, .inr ⟨hb, rfl⟩⟩)
      simp only at h1
      rw [h1]
      rw [hb] at hval
      rw [hb, if_pos h64]
      simp only [if_true] at hval ⊢
      exact hval
    · have hb : (w e == 64) = false := by simp [h64]
      rw [hb] at hval
      rw [hb, if_neg h64]
      simp only [Bool.false_eq_true, if_false] at hval ⊢
      exact hval
  · intro key hk
    rw [ht]
    show v.get key = s.v.get key
    rw [hvv]
    refine vWrites_other s ws key (fun x hx hxk => ?_)
    by_cases hws : e.f.ws = true
    · simp only [ws, hws, if_true] at hx; cases hx
    · have hk' := hk.resolve_left hws
      have hws' : e.f.ws = false := by simpa using hws
      simp only [ws, hws'] at hx
      obtain ⟨l, hl, hx | ⟨hb, hx⟩⟩ := (mem_laneWrites _ _ _ _ _ _).1 hx
      · rw [hx] at hxk
        exact (hk' l hl).1 hxk.symm
      · rw [hx] at hxk
        exact (hk' l hl).2 (by simpa using hb) hxk.symm
  · rw [ht]; exact hc0
  · intro key hk
    rw [ht]; exact hck key hk
  · rw [ht]; exact ⟨rfl, rfl, rfl, rfl⟩
  · rw [ht]; exact ⟨rfl, rfl, rfl, rfl, rfl⟩
  · rw [ht, hlat]; rfl

/-- The register-only frame of R18, uniform form. -/
theorem alu_uniform {i : Instr} {f : Fields} {cur : Cur} {s : State} (h : Executes i f cur s) (hs : s.wf)
    (hu : f.u = true) (w : Env → Nat) (sgn : Env → Bool) (fn : Env → Nat → Nat × Nat) :
    let e := envOf s cur f
    ∃ t, issueOut i f (fun e => e.alu (w e) (sgn e) (w e == 64) (fn e)) s = .next t ∧
      UniStep i e (extTo64 (w e) (sgn e) (fn e 0).1) (fn e 0).2 s t := by
  intro e
  rw [issueOut_of_executes h]
  have hfu : e.f.u = true := hu
  let x : Word := extTo64 (w e) (sgn e) (fn e 0).1
  let k := wKey e.uid e.home (wIndex (e.f.dst.toNat - 256) e.pl)
  let w' : Sparse 64 := if e.f.ws then s.w else s.w.set k x
  have hes : e.s = s := rfl
  obtain ⟨c, hc, hc0, hck⟩ := updGst_apply s { s with w := w' } e.uid e.home (fn e 0).2 rfl hs.2.1.2.2.2.2.2 hs.2.2
  have ht : applyAll s (e.alu (w e) (sgn e) (w e == 64) (fn e)).upds = { s with w := w', csr := c } := by
    have : (e.alu (w e) (sgn e) (w e == 64) (fn e)).upds = e.putWd x ++ updGst e.s e.uid e.home (fn e 0).2 := by
      simp only [Env.alu, hfu]; rfl
    rw [this, applyAll_append]
    have hp : applyAll s (e.putWd x) = { s with w := w' } := by
      simp only [Env.putWd, Env.putW, updW, w']
      cases hws : e.f.ws <;> rfl
    rw [hp, hes, hc]
  have hlat : (e.alu (w e) (sgn e) (w e == 64) (fn e)).lat = List.replicate e.gw x := by
    simp only [Env.alu, hfu]; rfl
  refine ⟨_, rfl, ?_⟩
  constructor
  · intro hws
    rw [ht]
    show w'.get _ = _
    simp only [w', hws]
    exact Sparse.get_set_self _ _ _ hs.2.1.2.2.2.1
  · intro key hk
    rw [ht]
    show w'.get key = s.w.get key
    by_cases hws : e.f.ws = true
    · simp only [w', hws, if_true]
    · simp only [w', hws]
      exact Sparse.get_set_ne _ _ _ _ (hk.resolve_left hws)
  · rw [ht]; exact hc0
  · intro key hk
    rw [ht]; exact hck key hk
  · rw [ht]; exact ⟨rfl, rfl, rfl, rfl⟩
  · rw [ht]; exact ⟨rfl, rfl, rfl, rfl, rfl⟩
  · rw [ht, hlat]; rfl

/-- The register-only frame of R18, either form. -/
theorem registerOnly_of_alu {i : Instr} {f : Fields} {cur : Cur} {s : State} (h : Executes i f cur s) (hs : s.wf)
    (w : Env → Nat) (sgn : Env → Bool) (fn : Env → Nat → Nat × Nat)
    (hi : exec i s = issueOut i f (fun e => e.alu (w e) (sgn e) (w e == 64) (fn e)) s) :
    RegisterOnly i f cur s w sgn fn := by
  cases hu : f.u with
  | false =>
    obtain ⟨t, ht, hl⟩ := alu_lane h hs hu w sgn fn
    refine ⟨t, hi.trans ht, fun _ => hl, ?_⟩
    intro h'
    rw [hu] at h'
    cases h'
  | true =>
    obtain ⟨t, ht, hl⟩ := alu_uniform h hs hu w sgn fn
    refine ⟨t, hi.trans ht, ?_, fun _ => hl⟩
    intro h'
    rw [hu] at h'
    cases h'

/-- Extension looks at the low w bits only. -/
theorem extTo64_mod (w : Nat) (sgn : Bool) (x : Nat) : extTo64 w sgn (x % 2 ^ w) = extTo64 w sgn x := by
  cases sgn <;> simp [extTo64, sextNat]

/-- A register-only instruction's values count by their low w bits. -/
theorem RegisterOnly.congr {i : Instr} {f : Fields} {cur : Cur} {s : State} {w : Env → Nat} {sgn : Env → Bool}
    {fn gn : Env → Nat → Nat × Nat} (h : RegisterOnly i f cur s w sgn fn)
    (hv : ∀ l, (fn (envOf s cur f) l).1 % 2 ^ w (envOf s cur f) = (gn (envOf s cur f) l).1 % 2 ^ w (envOf s cur f))
    (hf : ∀ l, (fn (envOf s cur f) l).2 = (gn (envOf s cur f) l).2) : RegisterOnly i f cur s w sgn gn := by
  have hx : ∀ l, extTo64 (w (envOf s cur f)) (sgn (envOf s cur f)) (fn (envOf s cur f) l).1 =
      extTo64 (w (envOf s cur f)) (sgn (envOf s cur f)) (gn (envOf s cur f) l).1 := fun l => by
    rw [← extTo64_mod, hv, extTo64_mod]
  obtain ⟨t, ht, hl, hu⟩ := h
  refine ⟨t, ht, fun h' => ?_, fun h' => ?_⟩
  · obtain ⟨h1, h2, h3, h4, h5, h6, h7⟩ := hl h'
    simp only [hx, hf] at h1 h3 h7
    exact ⟨h1, h2, h3, h4, h5, h6, h7⟩
  · have := hu h'
    rw [hx, hf] at this
    exact this

end Sys2Proof.Machine
end

