-- ==== Sys2Proof/Laws/Invariants.lean ====
section
/-! SUPPORT. Every primitive update keeps the canonical forms and the reserved bits of the group registers. -/

namespace Sys2Proof.Machine

theorem wipeTeam_wf {w : Nat} (uid span : Nat) (m : Sparse w) (h : m.wf = true) : (wipeTeam uid span m).wf = true :=
  m.wf_clear _ _ h

theorem applyUpd_memWf (s : State) (u : Upd) (h : s.memWf) : (applyUpd s u).memWf := by
  obtain ⟨h1, h2, h3, h4, h5⟩ := h
  cases u with
  | byte sp key x => cases sp <;> simp_all [State.memWf, Memory.wf, Sparse.wf_set]
  | wipe sp lo hi => cases sp <;> simp_all [State.memWf, Memory.wf, Sparse.wf_clear]
  | reg32 b key x => cases b <;> exact ⟨h1, h2, h3, h4, h5⟩
  | reg64 b key x => cases b <;> exact ⟨h1, h2, h3, h4, h5⟩
  | _ => exact ⟨h1, h2, h3, h4, h5⟩

theorem applyUpd_regWf (s : State) (u : Upd) (h : s.regWf) : (applyUpd s u).regWf := by
  obtain ⟨h1, h2, h3, h4, h5, h6⟩ := h
  cases u with
  | byte sp key x => cases sp <;> exact ⟨h1, h2, h3, h4, h5, h6⟩
  | wipe sp lo hi => cases sp <;> exact ⟨h1, h2, h3, h4, h5, h6⟩
  | reg32 b key x => cases b <;> simp_all [State.regWf, Sparse.wf_set]
  | reg64 b key x => cases b <;> simp_all [State.regWf, Sparse.wf_set]
  | csr key x => simp_all [State.regWf, Sparse.wf_set]
  | wipeRegs uid => simp_all [State.regWf, wipeTeam_wf]
  | ctl c => exact ⟨h1, h2, h3, h4, h5, h6⟩

theorem applyUpd_csrWf (s : State) (u : Upd) (hr : s.regWf) (h : s.csrWf) : (applyUpd s u).csrWf := by
  intro key
  cases u with
  | byte sp k x => cases sp <;> exact h key
  | wipe sp lo hi => cases sp <;> exact h key
  | reg32 b k x => cases b <;> exact h key
  | reg64 b k x => cases b <;> exact h key
  | csr k x =>
    by_cases hk : key = k
    · subst hk
      rw [applyUpd_csr_csr, Sparse.get_set_self _ _ _ hr.2.2.2.2.2, BitVec.and_assoc]
      simp
    · rw [applyUpd_csr_csr, Sparse.get_set_ne _ _ _ _ hk]
      exact h key
  | wipeRegs uid =>
    rw [applyUpd_wipeRegs_csr, wipeTeam, Sparse.get_clear]
    split
    · simp
    · exact h key
  | ctl c => exact h key

end Sys2Proof.Machine
end

