-- ==== Sys2Proof/Laws/PerInstr.lean ====
section
/-! SUPPORT. Of every instruction: the opcode that the encoder gives it is decoded to it again, with the same fields (R41, R48).
The family `Named` of LAWS.json: one lemma for each constructor. -/

namespace Sys2Proof.Laws.Named

/-- An instruction whose opcode names it, and that has fields, is what its opcode and those fields are decoded to. -/
def Statement (i : Instr) : Prop :=
  i.opNamed = true → ∀ f, i.fields = some f → Instr.ofOpcode (BitVec.ofNat 6 i.opcode.1) (BitVec.ofNat 6 i.opcode.2) f = some i

theorem nop (f : Fields) : Statement (.nop f) :=
  fun _ _ h => by cases Option.some.inj h; rfl

theorem bra (f : Fields) : Statement (.bra f) :=
  fun _ _ h => by cases Option.some.inj h; rfl

theorem split (f : Fields) : Statement (.split f) :=
  fun _ _ h => by cases Option.some.inj h; rfl

theorem join (f : Fields) : Statement (.join f) :=
  fun _ _ h => by cases Option.some.inj h; rfl

theorem brk (f : Fields) : Statement (.brk f) :=
  fun _ _ h => by cases Option.some.inj h; rfl

theorem call (f : Fields) : Statement (.call f) :=
  fun _ _ h => by cases Option.some.inj h; rfl

theorem ret (f : Fields) : Statement (.ret f) :=
  fun _ _ h => by cases Option.some.inj h; rfl

theorem exit (f : Fields) : Statement (.exit f) :=
  fun _ _ h => by cases Option.some.inj h; rfl

theorem setdmr (f : Fields) : Statement (.setdmr f) :=
  fun _ _ h => by cases Option.some.inj h; rfl

theorem callv (f : Fields) : Statement (.callv f) :=
  fun _ _ h => by cases Option.some.inj h; rfl

theorem callvU (f : Fields) : Statement (.callvU f) :=
  fun _ _ h => by cases Option.some.inj h; rfl

theorem spush (f : Fields) : Statement (.spush f) :=
  fun _ _ h => by cases Option.some.inj h; rfl

theorem spop (f : Fields) : Statement (.spop f) :=
  fun _ _ h => by cases Option.some.inj h; rfl

theorem add (f : Fields) : Statement (.add f) :=
  fun _ _ h => by cases Option.some.inj h; rfl

theorem sub (f : Fields) : Statement (.sub f) :=
  fun _ _ h => by cases Option.some.inj h; rfl

theorem mul (f : Fields) : Statement (.mul f) :=
  fun _ _ h => by cases Option.some.inj h; rfl

theorem mulhi (f : Fields) : Statement (.mulhi f) :=
  fun _ _ h => by cases Option.some.inj h; rfl

theorem mad (f : Fields) : Statement (.mad f) :=
  fun _ _ h => by cases Option.some.inj h; rfl

theorem min (f : Fields) : Statement (.min f) :=
  fun _ _ h => by cases Option.some.inj h; rfl

theorem max (f : Fields) : Statement (.max f) :=
  fun _ _ h => by cases Option.some.inj h; rfl

theorem abs (f : Fields) : Statement (.abs f) :=
  fun _ _ h => by cases Option.some.inj h; rfl

theorem neg (f : Fields) : Statement (.neg f) :=
  fun _ _ h => by cases Option.some.inj h; rfl

theorem and (f : Fields) : Statement (.and f) :=
  fun _ _ h => by cases Option.some.inj h; rfl

theorem or (f : Fields) : Statement (.or f) :=
  fun _ _ h => by cases Option.some.inj h; rfl

theorem xor (f : Fields) : Statement (.xor f) :=
  fun _ _ h => by cases Option.some.inj h; rfl

theorem not (f : Fields) : Statement (.not f) :=
  fun _ _ h => by cases Option.some.inj h; rfl

theorem sel (f : Fields) : Statement (.sel f) :=
  fun _ _ h => by cases Option.some.inj h; rfl

theorem mov (f : Fields) : Statement (.mov f) :=
  fun _ _ h => by cases Option.some.inj h; rfl

theorem ldi (f : Fields) : Statement (.ldi f) :=
  fun _ _ h => by cases Option.some.inj h; rfl

theorem iota (f : Fields) : Statement (.iota f) :=
  fun _ _ h => by cases Option.some.inj h; rfl

theorem shl (f : Fields) : Statement (.shl f) :=
  fun _ _ h => by cases Option.some.inj h; rfl

theorem shr (f : Fields) : Statement (.shr f) :=
  fun _ _ h => by cases Option.some.inj h; rfl

theorem sra (f : Fields) : Statement (.sra f) :=
  fun _ _ h => by cases Option.some.inj h; rfl

theorem rot (f : Fields) : Statement (.rot f) :=
  fun _ _ h => by cases Option.some.inj h; rfl

theorem bfe (f : Fields) : Statement (.bfe f) :=
  fun _ _ h => by cases Option.some.inj h; rfl

theorem bfi (f : Fields) : Statement (.bfi f) :=
  fun _ _ h => by cases Option.some.inj h; rfl

theorem popc (f : Fields) : Statement (.popc f) :=
  fun _ _ h => by cases Option.some.inj h; rfl

theorem clz (f : Fields) : Statement (.clz f) :=
  fun _ _ h => by cases Option.some.inj h; rfl

theorem ctz (f : Fields) : Statement (.ctz f) :=
  fun _ _ h => by cases Option.some.inj h; rfl

theorem brev (f : Fields) : Statement (.brev f) :=
  fun _ _ h => by cases Option.some.inj h; rfl

theorem fadd (f : Fields) : Statement (.fadd f) :=
  fun _ _ h => by cases Option.some.inj h; rfl

theorem fsub (f : Fields) : Statement (.fsub f) :=
  fun _ _ h => by cases Option.some.inj h; rfl

theorem fmul (f : Fields) : Statement (.fmul f) :=
  fun _ _ h => by cases Option.some.inj h; rfl

theorem fma (f : Fields) : Statement (.fma f) :=
  fun _ _ h => by cases Option.some.inj h; rfl

theorem fmin (f : Fields) : Statement (.fmin f) :=
  fun _ _ h => by cases Option.some.inj h; rfl

theorem fmax (f : Fields) : Statement (.fmax f) :=
  fun _ _ h => by cases Option.some.inj h; rfl

theorem frnd (f : Fields) : Statement (.frnd f) :=
  fun _ _ h => by cases Option.some.inj h; rfl

theorem fclass (f : Fields) : Statement (.fclass f) :=
  fun _ _ h => by cases Option.some.inj h; rfl

theorem fcmp (f : Fields) : Statement (.fcmp f) :=
  fun _ _ h => by cases Option.some.inj h; rfl

theorem fdiv (f : Fields) : Statement (.fdiv f) :=
  fun _ _ h => by cases Option.some.inj h; rfl

theorem fsqrt (f : Fields) : Statement (.fsqrt f) :=
  fun _ _ h => by cases Option.some.inj h; rfl

theorem frcp (f : Fields) : Statement (.frcp f) :=
  fun _ _ h => by cases Option.some.inj h; rfl

theorem frsq (f : Fields) : Statement (.frsq f) :=
  fun _ _ h => by cases Option.some.inj h; rfl

theorem fex2 (f : Fields) : Statement (.fex2 f) :=
  fun _ _ h => by cases Option.some.inj h; rfl

theorem flg2 (f : Fields) : Statement (.flg2 f) :=
  fun _ _ h => by cases Option.some.inj h; rfl

theorem fsin (f : Fields) : Statement (.fsin f) :=
  fun _ _ h => by cases Option.some.inj h; rfl

theorem fcos (f : Fields) : Statement (.fcos f) :=
  fun _ _ h => by cases Option.some.inj h; rfl

theorem cvt (f : Fields) : Statement (.cvt f) :=
  fun _ _ h => by cases Option.some.inj h; rfl

theorem cvtNarrow (f : Fields) : Statement (.cvtNarrow f) :=
  fun _ _ h => by cases Option.some.inj h; rfl

theorem mxpk (f : Fields) : Statement (.mxpk f) :=
  fun _ _ h => by cases Option.some.inj h; rfl

theorem mxunpk (f : Fields) : Statement (.mxunpk f) :=
  fun _ _ h => by cases Option.some.inj h; rfl

theorem vdot (f : Fields) : Statement (.vdot f) :=
  fun _ _ h => by cases Option.some.inj h; rfl

theorem getfmt (f : Fields) : Statement (.getfmt f) :=
  fun _ _ h => by cases Option.some.inj h; rfl

theorem setfmt (f : Fields) : Statement (.setfmt f) :=
  fun _ _ h => by cases Option.some.inj h; rfl

theorem shuf (f : Fields) : Statement (.shuf f) :=
  fun _ _ h => by cases Option.some.inj h; rfl

theorem lrot (f : Fields) : Statement (.lrot f) :=
  fun _ _ h => by cases Option.some.inj h; rfl

theorem bcast (f : Fields) : Statement (.bcast f) :=
  fun _ _ h => by cases Option.some.inj h; rfl

theorem scan (f : Fields) : Statement (.scan f) :=
  fun _ _ h => by cases Option.some.inj h; rfl

theorem redw (f : Fields) : Statement (.redw f) :=
  fun _ _ h => by cases Option.some.inj h; rfl

theorem sortk (f : Fields) : Statement (.sortk f) :=
  fun _ _ h => by cases Option.some.inj h; rfl

theorem ballot (f : Fields) : Statement (.ballot f) :=
  fun _ _ h => by cases Option.some.inj h; rfl

theorem kand (f : Fields) : Statement (.kand f) :=
  fun _ _ h => by cases Option.some.inj h; rfl

theorem kor (f : Fields) : Statement (.kor f) :=
  fun _ _ h => by cases Option.some.inj h; rfl

theorem kxor (f : Fields) : Statement (.kxor f) :=
  fun _ _ h => by cases Option.some.inj h; rfl

theorem kandn (f : Fields) : Statement (.kandn f) :=
  fun _ _ h => by cases Option.some.inj h; rfl

theorem knot (f : Fields) : Statement (.knot f) :=
  fun _ _ h => by cases Option.some.inj h; rfl

theorem kpop (f : Fields) : Statement (.kpop f) :=
  fun _ _ h => by cases Option.some.inj h; rfl

theorem kfirst (f : Fields) : Statement (.kfirst f) :=
  fun _ _ h => by cases Option.some.inj h; rfl

theorem kmov (f : Fields) : Statement (.kmov f) :=
  fun _ _ h => by cases Option.some.inj h; rfl

theorem cmp (f : Fields) : Statement (.cmp f) :=
  fun _ _ h => by cases Option.some.inj h; rfl

theorem csrr (f : Fields) : Statement (.csrr f) :=
  fun _ _ h => by cases Option.some.inj h; rfl

theorem clk (f : Fields) : Statement (.clk f) :=
  fun _ _ h => by cases Option.some.inj h; rfl

theorem csrw (f : Fields) : Statement (.csrw f) :=
  fun _ _ h => by cases Option.some.inj h; rfl

theorem rgeti (f : Fields) : Statement (.rgeti f) :=
  fun _ _ h => by cases Option.some.inj h; rfl

theorem rseti (f : Fields) : Statement (.rseti f) :=
  fun _ _ h => by cases Option.some.inj h; rfl

theorem lds (f : Fields) : Statement (.lds f) :=
  fun _ _ h => by cases Option.some.inj h; rfl

theorem sts (f : Fields) : Statement (.sts f) :=
  fun _ _ h => by cases Option.some.inj h; rfl

theorem tmprobe (f : Fields) : Statement (.tmprobe f) :=
  fun _ _ h => by cases Option.some.inj h; rfl

theorem ldp (f : Fields) : Statement (.ldp f) :=
  fun _ _ h => by cases Option.some.inj h; rfl

theorem stp (f : Fields) : Statement (.stp f) :=
  fun _ _ h => by cases Option.some.inj h; rfl

theorem palloc (f : Fields) : Statement (.palloc f) :=
  fun _ _ h => by cases Option.some.inj h; rfl

theorem pfree (f : Fields) : Statement (.pfree f) :=
  fun _ _ h => by cases Option.some.inj h; rfl

theorem atms (op : BitVec 6) (f : Fields) : Statement (.atms op f) := by
  intro h g hg
  cases Option.some.inj hg
  have h1 : op.toNat ≤ 8 := of_decide_eq_true h
  have h2 : BitVec.ofNat 6 op.toNat = op := by simp
  show Instr.ofOpcode 0x12 (BitVec.ofNat 6 op.toNat) f = _
  rw [h2]
  show (if op.toNat ≤ 8 then some (Instr.atms op f) else none) = _
  rw [if_pos h1]

theorem barinit (f : Fields) : Statement (.barinit f) :=
  fun _ _ h => by cases Option.some.inj h; rfl

theorem arrive (f : Fields) : Statement (.arrive f) :=
  fun _ _ h => by cases Option.some.inj h; rfl

theorem arrivex (f : Fields) : Statement (.arrivex f) :=
  fun _ _ h => by cases Option.some.inj h; rfl

theorem wait (f : Fields) : Statement (.wait f) :=
  fun _ _ h => by cases Option.some.inj h; rfl

theorem waitc (f : Fields) : Statement (.waitc f) :=
  fun _ _ h => by cases Option.some.inj h; rfl

theorem tryw (f : Fields) : Statement (.tryw f) := by
  intro h g hg
  cases Option.some.inj hg
  have h1 : f.mod.getLsbD 2 = false := by simpa [Instr.opNamed] using h
  show (if f.mod.getLsbD 2 then some (Instr.trywC f) else some (Instr.tryw f)) = _
  rw [h1]
  rfl

theorem trywC (f : Fields) : Statement (.trywC f) := by
  intro h g hg
  cases Option.some.inj hg
  have h1 : f.mod.getLsbD 2 = true := by simpa [Instr.opNamed] using h
  show (if f.mod.getLsbD 2 then some (Instr.trywC f) else some (Instr.tryw f)) = _
  rw [h1]
  rfl

theorem phase (f : Fields) : Statement (.phase f) :=
  fun _ _ h => by cases Option.some.inj h; rfl

theorem barinv (f : Fields) : Statement (.barinv f) :=
  fun _ _ h => by cases Option.some.inj h; rfl

theorem ldg (f : Fields) : Statement (.ldg f) :=
  fun _ _ h => by cases Option.some.inj h; rfl

theorem stg (f : Fields) : Statement (.stg f) :=
  fun _ _ h => by cases Option.some.inj h; rfl

theorem gatherReply (id : Nat) : Statement (.gatherReply id) :=
  fun _ _ h => by cases h

theorem cpy (f : Fields) : Statement (.cpy f) :=
  fun _ _ h => by cases Option.some.inj h; rfl

theorem spat (f : Fields) : Statement (.spat f) :=
  fun _ _ h => by cases Option.some.inj h; rfl

theorem cpz (f : Fields) : Statement (.cpz f) :=
  fun _ _ h => by cases Option.some.inj h; rfl

theorem cpfill (f : Fields) : Statement (.cpfill f) :=
  fun _ _ h => by cases Option.some.inj h; rfl

theorem cpx (f : Fields) : Statement (.cpx f) :=
  fun _ _ h => by cases Option.some.inj h; rfl

theorem copyAccept (job : Nat) : Statement (.copyAccept job) :=
  fun _ _ h => by cases h

theorem copyByteLand (job : Nat) (act : LandAct) : Statement (.copyByteLand job act) :=
  fun _ _ h => by cases h

theorem jobError (job : Nat) : Statement (.jobError job) :=
  fun _ _ h => by cases h

theorem atg (op : BitVec 6) (f : Fields) : Statement (.atg op f) := by
  intro h g hg
  cases Option.some.inj hg
  have h1 : op.toNat ≤ 0x0A := by simpa [Instr.opNamed, BitVec.le_def] using h
  have h2 : BitVec.ofNat 6 op.toNat = op := by simp
  show Instr.ofOpcode 0x17 (BitVec.ofNat 6 op.toNat) f = _
  rw [h2]
  show ofMajor17 op f = _
  unfold ofMajor17
  split
  · omega
  · omega
  · simp_all

theorem redg (op : BitVec 6) (f : Fields) : Statement (.redg op f) := by
  intro h g hg
  cases Option.some.inj hg
  have h1 : 0x10 ≤ op.toNat ∧ op.toNat ≤ 0x15 ∨ 0x18 ≤ op.toNat ∧ op.toNat ≤ 0x1A := by simpa [Instr.opNamed, BitVec.le_def] using h
  have h2 : BitVec.ofNat 6 op.toNat = op := by simp
  show Instr.ofOpcode 0x17 (BitVec.ofNat 6 op.toNat) f = _
  rw [h2]
  show ofMajor17 op f = _
  unfold ofMajor17
  split
  · omega
  · omega
  · simp_all ; omega

theorem atqPush (f : Fields) : Statement (.atqPush f) :=
  fun _ _ h => by cases Option.some.inj h; rfl

theorem atqPop (f : Fields) : Statement (.atqPop f) :=
  fun _ _ h => by cases Option.some.inj h; rfl

theorem atomicServe (id : Nat) : Statement (.atomicServe id) :=
  fun _ _ h => by cases h

theorem atomicReply (id : Nat) : Statement (.atomicReply id) :=
  fun _ _ h => by cases h

theorem fence (f : Fields) : Statement (.fence f) :=
  fun _ _ h => by cases Option.some.inj h; rfl

theorem fencer (f : Fields) : Statement (.fencer f) :=
  fun _ _ h => by cases Option.some.inj h; rfl

theorem trig (f : Fields) : Statement (.trig f) :=
  fun _ _ h => by cases Option.some.inj h; rfl

theorem drain (id : Nat) : Statement (.drain id) :=
  fun _ _ h => by cases h

theorem portServe (cluster dest : Nat) : Statement (.portServe cluster dest) :=
  fun _ _ h => by cases h

theorem hint (f : Fields) : Statement (.hint f) :=
  fun _ _ h => by cases Option.some.inj h; rfl

theorem step (f : Fields) : Statement (.step f) :=
  fun _ _ h => by cases Option.some.inj h; rfl

theorem evict (f : Fields) : Statement (.evict f) :=
  fun _ _ h => by cases Option.some.inj h; rfl

theorem pin (f : Fields) : Statement (.pin f) :=
  fun _ _ h => by cases Option.some.inj h; rfl

theorem tierMoveStart (stk : Nat) : Statement (.tierMoveStart stk) :=
  fun _ _ h => by cases h

theorem tierMoveComplete (stk : Nat) : Statement (.tierMoveComplete stk) :=
  fun _ _ h => by cases h

theorem tileFill (tile slot : Nat) : Statement (.tileFill tile slot) :=
  fun _ _ h => by cases h

theorem tileWriteback (tile : Nat) : Statement (.tileWriteback tile) :=
  fun _ _ h => by cases h

theorem resealComplete (group : Nat) : Statement (.resealComplete group) :=
  fun _ _ h => by cases h

theorem writeQueueDrain (stk : Nat) : Statement (.writeQueueDrain stk) :=
  fun _ _ h => by cases h

theorem patrolScrub (group : Nat) : Statement (.patrolScrub group) :=
  fun _ _ h => by cases h

theorem pmap (f : Fields) : Statement (.pmap f) :=
  fun _ _ h => by cases Option.some.inj h; rfl

theorem tlbinv (f : Fields) : Statement (.tlbinv f) :=
  fun _ _ h => by cases Option.some.inj h; rfl

theorem tprobe (f : Fields) : Statement (.tprobe f) :=
  fun _ _ h => by cases Option.some.inj h; rfl

theorem migr (f : Fields) : Statement (.migr f) :=
  fun _ _ h => by cases Option.some.inj h; rfl

theorem migrationComplete (id : Nat) : Statement (.migrationComplete id) :=
  fun _ _ h => by cases h

theorem pageWalk (engine : EngineId) (rctx : Nat) (va : Word) (write : Bool) : Statement (.pageWalk engine rctx va write) :=
  fun _ _ h => by cases h

theorem priResponse (rctx : Nat) (page : Nat) (ok : Bool) : Statement (.priResponse rctx page ok) :=
  fun _ _ h => by cases h

theorem atsInvalidation (rctx : Nat) (va len : Nat) : Statement (.atsInvalidation rctx va len) :=
  fun _ _ h => by cases h

theorem pfillDone (f : Fields) : Statement (.pfillDone f) :=
  fun _ _ h => by cases Option.some.inj h; rfl

theorem pfillFail (f : Fields) : Statement (.pfillFail f) :=
  fun _ _ h => by cases Option.some.inj h; rfl

theorem pstate (f : Fields) : Statement (.pstate f) :=
  fun _ _ h => by cases Option.some.inj h; rfl

theorem preset (f : Fields) : Statement (.preset f) :=
  fun _ _ h => by cases Option.some.inj h; rfl

theorem generatorStart (cont : Nat) (core : Nat) (unit : Option Nat) : Statement (.generatorStart cont core unit) :=
  fun _ _ h => by cases h

theorem recruit (f : Fields) : Statement (.recruit f) :=
  fun _ _ h => by cases Option.some.inj h; rfl

theorem hget (f : Fields) : Statement (.hget f) :=
  fun _ _ h => by cases Option.some.inj h; rfl

theorem hnext (f : Fields) : Statement (.hnext f) :=
  fun _ _ h => by cases Option.some.inj h; rfl

theorem hred (f : Fields) : Statement (.hred f) :=
  fun _ _ h => by cases Option.some.inj h; rfl

theorem hjoin (f : Fields) : Statement (.hjoin f) :=
  fun _ _ h => by cases Option.some.inj h; rfl

theorem hquit (f : Fields) : Statement (.hquit f) :=
  fun _ _ h => by cases Option.some.inj h; rfl

theorem helperRelease (team group : Nat) (lanes : Word) : Statement (.helperRelease team group lanes) :=
  fun _ _ h => by cases h

theorem msend (f : Fields) : Statement (.msend f) :=
  fun _ _ h => by cases Option.some.inj h; rfl

theorem mwait (f : Fields) : Statement (.mwait f) :=
  fun _ _ h => by cases Option.some.inj h; rfl

theorem mack (f : Fields) : Statement (.mack f) :=
  fun _ _ h => by cases Option.some.inj h; rfl

theorem mackReg (f : Fields) : Statement (.mackReg f) :=
  fun _ _ h => by cases Option.some.inj h; rfl

theorem mackDrop (f : Fields) : Statement (.mackDrop f) :=
  fun _ _ h => by cases Option.some.inj h; rfl

theorem ringAppend (msg : Nat) : Statement (.ringAppend msg) :=
  fun _ _ h => by cases h

theorem ringReturn (msg : Nat) : Statement (.ringReturn msg) :=
  fun _ _ h => by cases h

theorem mmx (f : Fields) : Statement (.mmx f) :=
  fun _ _ h => by cases Option.some.inj h; rfl

theorem mringOpen (f : Fields) : Statement (.mringOpen f) :=
  fun _ _ h => by cases Option.some.inj h; rfl

theorem mringClose (f : Fields) : Statement (.mringClose f) :=
  fun _ _ h => by cases Option.some.inj h; rfl

theorem epi (f : Fields) : Statement (.epi f) :=
  fun _ _ h => by cases Option.some.inj h; rfl

theorem mfenceOp (f : Fields) : Statement (.mfenceOp f) :=
  fun _ _ h => by cases Option.some.inj h; rfl

theorem mprio (f : Fields) : Statement (.mprio f) :=
  fun _ _ h => by cases Option.some.inj h; rfl

theorem mstat (f : Fields) : Statement (.mstat f) :=
  fun _ _ h => by cases Option.some.inj h; rfl

theorem vxm (f : Fields) : Statement (.vxm f) :=
  fun _ _ h => by cases Option.some.inj h; rfl

theorem matrixGrant (engine : Nat) : Statement (.matrixGrant engine) :=
  fun _ _ h => by cases h

theorem passEnd (engine : Nat) : Statement (.passEnd engine) :=
  fun _ _ h => by cases h

theorem epilogueComplete (engine : Nat) : Statement (.epilogueComplete engine) :=
  fun _ _ h => by cases h

theorem slewStep (die : Nat) : Statement (.slewStep die) :=
  fun _ _ h => by cases h

theorem primOpen (f : Fields) : Statement (.primOpen f) :=
  fun _ _ h => by cases Option.some.inj h; rfl

theorem prim (f : Fields) : Statement (.prim f) :=
  fun _ _ h => by cases Option.some.inj h; rfl

theorem primClose (f : Fields) : Statement (.primClose f) :=
  fun _ _ h => by cases Option.some.inj h; rfl

theorem ptileBind (f : Fields) : Statement (.ptileBind f) :=
  fun _ _ h => by cases Option.some.inj h; rfl

theorem ptile (f : Fields) : Statement (.ptile f) :=
  fun _ _ h => by cases Option.some.inj h; rfl

theorem ptileDone (f : Fields) : Statement (.ptileDone f) :=
  fun _ _ h => by cases Option.some.inj h; rfl

theorem primRecordSweep (die : Nat) (rctx stream : Nat) : Statement (.primRecordSweep die rctx stream) :=
  fun _ _ h => by cases h

theorem edge (f : Fields) : Statement (.edge f) :=
  fun _ _ h => by cases Option.some.inj h; rfl

theorem edgev (f : Fields) : Statement (.edgev f) :=
  fun _ _ h => by cases Option.some.inj h; rfl

theorem vmask (f : Fields) : Statement (.vmask f) :=
  fun _ _ h => by cases Option.some.inj h; rfl

theorem vimov (f : Fields) : Statement (.vimov f) :=
  fun _ _ h => by cases Option.some.inj h; rfl

theorem zview (f : Fields) : Statement (.zview f) :=
  fun _ _ h => by cases Option.some.inj h; rfl

theorem ropW (f : Fields) : Statement (.ropW f) :=
  fun _ _ h => by cases Option.some.inj h; rfl

theorem ropRel (f : Fields) : Statement (.ropRel f) :=
  fun _ _ h => by cases Option.some.inj h; rfl

theorem rasterApply (id : Nat) : Statement (.rasterApply id) :=
  fun _ _ h => by cases h

theorem ropRelServe (id : Nat) : Statement (.ropRelServe id) :=
  fun _ _ h => by cases h

theorem texq (f : Fields) : Statement (.texq f) :=
  fun _ _ h => by cases Option.some.inj h; rfl

theorem texqInv (f : Fields) : Statement (.texqInv f) :=
  fun _ _ h => by cases Option.some.inj h; rfl

theorem texw (f : Fields) : Statement (.texw f) :=
  fun _ _ h => by cases Option.some.inj h; rfl

theorem texs (f : Fields) : Statement (.texs f) :=
  fun _ _ h => by cases Option.some.inj h; rfl

theorem matev (f : Fields) : Statement (.matev f) :=
  fun _ _ h => by cases Option.some.inj h; rfl

theorem matld (f : Fields) : Statement (.matld f) :=
  fun _ _ h => by cases Option.some.inj h; rfl

theorem vrate (f : Fields) : Statement (.vrate f) :=
  fun _ _ h => by cases Option.some.inj h; rfl

theorem shadingStart (cont : Nat) (core : Nat) (unit : Option Nat) : Statement (.shadingStart cont core unit) :=
  fun _ _ h => by cases h

theorem texwComplete (id : Nat) : Statement (.texwComplete id) :=
  fun _ _ h => by cases h

theorem launch (f : Fields) : Statement (.launch f) :=
  fun _ _ h => by cases Option.some.inj h; rfl

theorem cjoin (f : Fields) : Statement (.cjoin f) :=
  fun _ _ h => by cases Option.some.inj h; rfl

theorem tbset (f : Fields) : Statement (.tbset f) :=
  fun _ _ h => by cases Option.some.inj h; rfl

theorem tbclr (f : Fields) : Statement (.tbclr f) :=
  fun _ _ h => by cases Option.some.inj h; rfl

theorem yield (f : Fields) : Statement (.yield f) :=
  fun _ _ h => by cases Option.some.inj h; rfl

theorem morePut (f : Fields) : Statement (.morePut f) :=
  fun _ _ h => by cases Option.some.inj h; rfl

theorem moreGet (f : Fields) : Statement (.moreGet f) :=
  fun _ _ h => by cases Option.some.inj h; rfl

theorem teamClaim (die core : Nat) (grid : Nat) : Statement (.teamClaim die core grid) :=
  fun _ _ h => by cases h

theorem teamStart (team : Nat) : Statement (.teamStart team) :=
  fun _ _ h => by cases h

theorem teamRetire (team : Nat) : Statement (.teamRetire team) :=
  fun _ _ h => by cases h

theorem quantumExpiry (team : Nat) : Statement (.quantumExpiry team) :=
  fun _ _ h => by cases h

theorem contextSave (team : Nat) : Statement (.contextSave team) :=
  fun _ _ h => by cases h

theorem contextRestore (team core : Nat) : Statement (.contextRestore team core) :=
  fun _ _ h => by cases h

theorem parkResume (p : PathId) : Statement (.parkResume p) :=
  fun _ _ h => by cases h

theorem trap (f : Fields) : Statement (.trap f) :=
  fun _ _ h => by cases Option.some.inj h; rfl

theorem tret (f : Fields) : Statement (.tret f) :=
  fun _ _ h => by cases Option.some.inj h; rfl

theorem brkpt (f : Fields) : Statement (.brkpt f) :=
  fun _ _ h => by cases Option.some.inj h; rfl

theorem rdtf (f : Fields) : Statement (.rdtf f) :=
  fun _ _ h => by cases Option.some.inj h; rfl

theorem wrtf (f : Fields) : Statement (.wrtf f) :=
  fun _ _ h => by cases Option.some.inj h; rfl

theorem sfence (f : Fields) : Statement (.sfence f) :=
  fun _ _ h => by cases Option.some.inj h; rfl

theorem monset (f : Fields) : Statement (.monset f) :=
  fun _ _ h => by cases Option.some.inj h; rfl

theorem rdmon (f : Fields) : Statement (.rdmon f) :=
  fun _ _ h => by cases Option.some.inj h; rfl

theorem reservedEncoding (bits : BitVec 128) (why : Reject) : Statement (.reservedEncoding bits why) :=
  fun _ _ h => by cases h

theorem clockGate (die core : Nat) : Statement (.clockGate die core) :=
  fun _ _ h => by cases h

theorem powerGate (die core : Nat) : Statement (.powerGate die core) :=
  fun _ _ h => by cases h

theorem coreWake (die core : Nat) : Statement (.coreWake die core) :=
  fun _ _ h => by cases h

theorem hangWarning (p : PathId) : Statement (.hangWarning p) :=
  fun _ _ h => by cases h

theorem hangReport (p : PathId) : Statement (.hangReport p) :=
  fun _ _ h => by cases h

theorem loadKey (slot : Nat) (blob : List Byte) : Statement (.loadKey slot blob) :=
  fun _ _ h => by cases h

theorem eraseKey (slot : Nat) : Statement (.eraseKey slot) :=
  fun _ _ h => by cases h

theorem createContext (desc : List Word) : Statement (.createContext desc) :=
  fun _ _ h => by cases h

theorem teardownContext (rctx : Nat) : Statement (.teardownContext rctx) :=
  fun _ _ h => by cases h

theorem writeTierAttributes (base len : Nat) (pri n : Nat) (owner : Option Nat) : Statement (.writeTierAttributes base len pri n owner) :=
  fun _ _ h => by cases h

theorem declareRange (rctx : Nat) (remove : Option Nat) (desc : List Word) : Statement (.declareRange rctx remove desc) :=
  fun _ _ h => by cases h

theorem breakWait (team : Nat) (who : Who) : Statement (.breakWait team who) :=
  fun _ _ h => by cases h

theorem resumeHostServiced (team : Nat) (how : ResumeHow) : Statement (.resumeHostServiced team how) :=
  fun _ _ h => by cases h

theorem attestationReport (nonce : List Byte) (buf : Nat) : Statement (.attestationReport nonce buf) :=
  fun _ _ h => by cases h

theorem setPowerState (target : Nat) : Statement (.setPowerState target) :=
  fun _ _ h => by cases h

theorem hostSubmission (rctx : Nat) : Statement (.hostSubmission rctx) :=
  fun _ _ h => by cases h

theorem powerGood (fails : BringupFail) : Statement (.powerGood fails) :=
  fun _ _ h => by cases h

theorem monitorSample (die m : Nat) : Statement (.monitorSample die m) :=
  fun _ _ h => by cases h

theorem atsTranslationCompletion (rctx : Nat) (page : Nat) (res : AtsResult) : Statement (.atsTranslationCompletion rctx page res) :=
  fun _ _ h => by cases h

theorem mailboxCommandComplete : Statement (.mailboxCommandComplete) :=
  fun _ _ h => by cases h

theorem materialLoadComplete (id : Nat) : Statement (.materialLoadComplete id) :=
  fun _ _ h => by cases h

theorem loadReplyLand (id : Nat) : Statement (.loadReplyLand id) :=
  fun _ _ h => by cases h

theorem submissionDoorbell (rctx : Nat) (n : BitVec 32) : Statement (.submissionDoorbell rctx n) :=
  fun _ _ h => by cases h

theorem completionDoorbell (rctx : Nat) (n : BitVec 32) : Statement (.completionDoorbell rctx n) :=
  fun _ _ h => by cases h

theorem fabricBlockWrite (off : Nat) (value : Word) : Statement (.fabricBlockWrite off value) :=
  fun _ _ h => by cases h

theorem dieLinkMapWrite (die dest port : Nat) : Statement (.dieLinkMapWrite die dest port) :=
  fun _ _ h => by cases h

theorem hostRegisterWrite (off : Nat) (value : Word) : Statement (.hostRegisterWrite off value) :=
  fun _ _ h => by cases h

theorem cxlMemRead (addr len slot : Nat) : Statement (.cxlMemRead addr len slot) :=
  fun _ _ h => by cases h

theorem cxlMemWrite (addr : Nat) (bytes : List Byte) (slot : Nat) : Statement (.cxlMemWrite addr bytes slot) :=
  fun _ _ h => by cases h

theorem cxlCacheSnoop (line : Nat) : Statement (.cxlCacheSnoop line) :=
  fun _ _ h => by cases h

theorem linkRetrain (link : LinkId) : Statement (.linkRetrain link) :=
  fun _ _ h => by cases h

theorem linkFail (link : LinkId) (rctx : Option Nat) : Statement (.linkFail link rctx) :=
  fun _ _ h => by cases h

end Sys2Proof.Laws.Named
end

