-- ==== Sys2Proof/Laws/Reach.lean ====
section
/-! SUPPORT. What requests, walks and reads whose tiles lie in the cache answer, without any change of the machine (R232, R240,
R246, R247). -/

namespace Sys2Proof.Machine

/-- A read of a tile in the cache passes at once. -/
theorem sealAccess_cached {s : State} {pa slot : Nat} (h : s.ctl.inCache slot pa = true) (log : List Upd) :
    sealAccess slot pa false { st := s, log := log } = (.ok, { st := s, log := log }) := by
  simp only [Ctl.inCache, Bool.and_eq_true, Bool.not_eq_true', Option.any_eq_true] at h
  obtain ⟨⟨⟨h1, h2⟩, h3⟩, x, h4, h5⟩ := h
  simp only [Bool.or_eq_true, beq_iff_eq] at h5
  simp [sealAccess, sealTry, bind_run, map_run, getC_run, onlyIf_run, h1, h2, h3, h4, h5]

/-- A request for a tile in the cache that is dirty already passes without any change, where the host holds no copy of the line. -/
theorem sealAccess_dirty {s : State} {pa slot : Nat} {w : Bool} (h : s.ctl.inCache slot pa = true)
    (hd : (s.ctl.cached.find? (fun x => x.tile == tileOf pa)).all (·.dirty) = true) (hc : s.ctl.host.copies.contains (pa / 64) = false)
    (log : List Upd) : sealAccess slot pa w { st := s, log := log } = (.ok, { st := s, log := log }) := by
  simp only [Ctl.inCache, Bool.and_eq_true, Bool.not_eq_true', Option.any_eq_true] at h
  obtain ⟨⟨⟨h1, h2⟩, h3⟩, x, h4, h5⟩ := h
  simp only [Bool.or_eq_true, beq_iff_eq] at h5
  simp only [h4, Option.all_some] at hd
  simp only [List.contains_eq_mem, decide_eq_false_iff_not] at hc
  simp [sealAccess, sealTry, bind_run, map_run, getC_run, onlyIf_run, h1, h2, h3, h4, h5, hd, hc]

/-- A table entry whose tile is in the cache is read without any change. -/
theorem readEntry_at {s : State} {at_ slot : Nat} (h : s.ctl.inCache slot at_ = true) (log : List Upd) :
    readEntry slot at_ { st := s, log := log } = (.val (s.load (dmLoc at_) 8), { st := s, log := log }) := by
  simp [readEntry, bind_run, map_run, getS_run, sealAccess_cached h]

/-- A walk goes down through a valid pointer entry in the cache. -/
theorem mapWalk_down {s : State} {die rctx slot va lv n tbl : Nat} (log : List Upd)
    (h : s.ctl.inCache slot (tbl + 8 * levelIndex va (lv + n + 1)) = true)
    (he : let e := s.load (dmLoc (tbl + 8 * levelIndex va (lv + n + 1))) 8
      entBit e 0 = true ∧ malformed e (lv + n + 1) = false ∧ entBit e 1 = false) :
    mapWalk die rctx slot va lv (n + 1) tbl { st := s, log := log } =
      mapWalk die rctx slot va lv n (fld (s.load (dmLoc (tbl + 8 * levelIndex va (lv + n + 1))) 8) 41 12 * 4096)
        { st := s, log := log } := by
  simp [mapWalk, bind_run, readEntry_at h, he.1, he.2.1, he.2.2]

/-- A part that succeeds is kept. -/
theorem attempt_ok {α : Type} {m : M (Got α)} {a : α} {r r1 : Run} (h : m r = (.ok a, r1)) : attempt m r = (.ok a, r1) := by
  simp [attempt, bind_run, get_run, h, pure_run]

/-- An access that touches no block of a range passes the fill check (R260). -/
theorem fillCheck_untouched {e : Env} {xs : List (Nat × Nat)} {r : Run} (h : r.st.ctl.touches e.t (xs.map (·.2)) = []) :
    e.fillCheck xs r = (none, r) := by
  simp [Env.fillCheck, bind_run, getC_run, h, touchAll, pure_run]

/-- A record of device memory in the cache, with no block of a range touched, is read at once. -/
theorem spatRecord_dev {e : Env} {a : Nat} {s : State} {os : List (Nat × Loc)} {l : Loc} (h1 : a % 64 = 0)
    (hr : ∀ log, e.reachLanes (e.serves.map (fun l => (l, a))) { rd := true, wr := false, x := false } { st := s, log := log } =
      (.ok os, { st := s, log := log }))
    (hf : s.ctl.touches e.t ((e.serves.map (fun l => (l, a))).map (·.2)) = [])
    (hl : (os.head?.map (·.2)).getD (dmLoc 0) = l) (h2 : l.sp = .dm) (hb : s.ctl.busyAt e.uid e.g.who l 64 = false)
    (hu : s.ctl.inCache (s.ctl.ctx e.t.rctx).kslot l.key = true) (hp : s.ctl.placeStalled e.t.die l = false) :
    ∀ log, e.spatRecord 0 a { st := s, log := log } =
      (.ok ((List.range 8).map (fun i => wd (s.load (l.plus (8 * i)) 8))), { st := s, log := log }) := by
  intro log
  simp [Env.spatRecord, State.farFault, h1, bind_run, attempt_ok (hr log), fillCheck_untouched (r := { st := s, log := log }) hf,
    getC_run, getS_run, hl, h2, hb, hp, sealAccess_cached hu, pure_run]

/-- A list of bytes that a job reaches one by one without any change (R178). -/
theorem jobReachAll_at {j : Job} {w tb : Bool} {s : State} (g : Nat × Nat → Loc) (xs : List (Nat × Nat))
    (h : ∀ x ∈ xs, ∀ log, jobReach j x.1 x.2 w tb { st := s, log := log } = (.at_ (g x), { st := s, log := log })) (log : List Upd) :
    jobReachAll j w tb xs { st := s, log := log } = (.ok (xs.map (fun x => .at_ (g x))), { st := s, log := log }) := by
  induction xs with
  | nil => rfl
  | cons x r ih =>
    have h1 := h x (by simp) log
    have h2 := ih (fun y hy => h y (by simp [hy]))
    simp [jobReachAll, bind_run, h1, h2, pure_run]

/-- An access that translates to device memory in the cache reaches it at once (R236, R246). -/
theorem reach_at {a : Acc} {va n : Nat} {rd x : Bool} {s : State} {l : Loc} {log : List Upd}
    (h1 : translate ((s.ctl.team a.uid).engine a.who) a.rctx va a.user { rd := rd, wr := false, x := x } { st := s, log := log } =
      (.ok l, { st := s, log := log }))
    (h2 : s.ctl.busyAt a.uid a.who l n = false) (h3 : l.sp = .dm)
    (h4 : s.ctl.inCache (s.ctl.ctx a.rctx).kslot l.key = true) :
    reach a va n { rd := rd, wr := false, x := x } { st := s, log := log } = (.ok l, { st := s, log := log }) := by
  simp [reach, bind_run, getC_run, h1, h2, h3, sealAccess_cached h4, pure_run]

/-- Every table entry that a walk reads is in the cache. -/
def State.walkCached (s : State) (slot va : Nat) : Nat → Nat → Bool
  | 0, _ => true
  | lv + 1, tbl =>
    let at_ := tbl + 8 * fld va (12 + 9 * lv + 8) (12 + 9 * lv)
    let e := s.load (dmLoc at_) 8
    s.ctl.inCache slot at_ &&
      (!entBit e 0 || malformed e lv || entBit e 1 || s.walkCached slot va lv (fld e 41 12 * 4096))

/-- A walk through entries in the cache changes nothing. -/
theorem sealWalk_cached (s : State) (slot va : Nat) (log : List Upd) : ∀ (lv tbl : Nat), s.walkCached slot va lv tbl = true →
    sealWalk slot s va lv tbl { st := s, log := log } = (.ok, { st := s, log := log })
  | 0, _, _ => rfl
  | lv + 1, tbl, h => by
    simp only [State.walkCached, Bool.and_eq_true] at h
    simp only [sealWalk, bind_run, sealAccess_cached h.1]
    split
    · rfl
    · next hn => exact sealWalk_cached s slot va log lv _ ((Bool.or_eq_true _ _ ▸ h.2).resolve_left hn)

/-- What a context's walk through entries in the cache ends in. -/
theorem sealedWalk_cached {s : State} {rctx va : Nat} {w : Walk} (hv : va < 2 ^ 48)
    (h : s.walkCached (s.ctl.ctx rctx).kslot va 4 (s.ctl.ctx rctx).root = true) (hw : s.walk (s.ctl.ctx rctx).root va = w) (log : List Upd) :
    sealedWalk rctx va { st := s, log := log } = (some w, { st := s, log := log }) := by
  subst hw
  simp only [sealedWalk, bind_run, getS_run, if_pos hv]
  rw [sealWalk_cached s _ va log 4 _ h]
  rfl

/-- An address that the device reads at once: the tables that lead to it and its tile are in the cache, and nothing moves. -/
def State.readable (s : State) (rctx va : Nat) : Bool :=
  !s.ctl.migrating rctx va && decide (va < 2 ^ 48) && s.walkCached (s.ctl.ctx rctx).kslot va 4 (s.ctl.ctx rctx).root &&
    (match s.walk (s.ctl.ctx rctx).root va with | .fault c _ => c != 11 | .leaf _ _ _ => true) &&
    (s.dmAt rctx va).all (fun l => s.ctl.inCache (s.ctl.ctx rctx).kslot l.key)

/-- What holds of an address that the device reads at once. -/
theorem State.readable_iff {s : State} {rctx va : Nat} : s.readable rctx va = true ↔
    s.ctl.migrating rctx va = false ∧ va < 2 ^ 48 ∧ s.walkCached (s.ctl.ctx rctx).kslot va 4 (s.ctl.ctx rctx).root = true ∧
      (∀ c b, s.walk (s.ctl.ctx rctx).root va = .fault c b → c ≠ 11) ∧
      (s.dmAt rctx va).all (fun l => s.ctl.inCache (s.ctl.ctx rctx).kslot l.key) = true := by
  simp only [State.readable, Bool.and_eq_true, Bool.not_eq_true', decide_eq_true_eq, and_assoc]
  cases s.walk (s.ctl.ctx rctx).root va <;> simp

/-- The device's read of tiles that are in the cache changes nothing. -/
theorem readSealed_cached {s : State} {rctx va n : Nat} (log : List Upd)
    (h : ∀ a ∈ (List.range ((va + n + 1023) / 1024 - va / 1024)).map (fun i => max va ((va / 1024 + i) * 1024)),
      s.readable rctx a = true) : readSealed rctx va n { st := s, log := log } = (.ok, { st := s, log := log }) := by
  have go : ∀ xs : List Nat, (∀ a ∈ xs, s.readable rctx a = true) →
      readSealed.go rctx xs { st := s, log := log } = (.ok, { st := s, log := log }) := by
    intro xs
    induction xs with
    | nil => intro _; rfl
    | cons a r ih =>
      intro h
      obtain ⟨h1, h2, h3, h4, h5⟩ := State.readable_iff.mp (h a (by simp))
      have h6 := ih (fun b hb => h b (by simp [hb]))
      have hw := sealedWalk_cached h2 h3 rfl log
      cases hk : s.walk (s.ctl.ctx rctx).root a with
      | fault c b =>
        rw [hk] at hw
        simpa [readSealed.go, bind_run, getS_run, h1, hw, h4 c b hk] using h6
      | leaf e at_ lg =>
        rw [hk] at hw
        cases hd : s.dmAt rctx a with
        | none => simpa [readSealed.go, bind_run, getS_run, h1, hw, hd] using h6
        | some l =>
          rw [hd] at h5
          simpa [readSealed.go, bind_run, getS_run, h1, hw, hd, sealAccess_cached (by simpa using h5)] using h6
  exact go _ h

/-- The one tier page of a piece whose tables are in the cache. -/
theorem tierPages_one {s : State} {rctx lo n va e at_ lg pg : Nat} (log : List Upd) (hp : piecesOf lo n = [va])
    (h : s.readable rctx va = true) (hw : s.walk (s.ctl.ctx rctx).root va = .leaf e at_ lg) (ht : s.ctl.tierPage e lg va = some pg) :
    tierPages rctx lo n { st := s, log := log } = (.ok [pg], { st := s, log := log }) := by
  obtain ⟨h1, h2, h3, -, -⟩ := State.readable_iff.mp h
  simp [tierPages, hp, tierWalk, bind_run, map_run, getC_run, h1, sealedWalk_cached h2 h3 hw, ht, pure_run]

/-- The device reaches an address of device memory that it reads at once, whose leaf has A set and lets it read. -/
theorem deviceReach_cached {s : State} {die rctx va e at_ lg : Nat} (log : List Upd) (h : s.readable rctx va = true)
    (hw : s.walk (s.ctl.ctx rctx).root va = .leaf e at_ lg)
    (hf : leafFault (.copy 0 0 0) va e lg false { rd := true, wr := false, x := false } = none) (ha : withAD e false = e)
    (hm : entBit e 63 = false) (hr : entBit e 62 = false) (hk : s.ctl.inCache (s.ctl.ctx rctx).kslot (leafBase e lg + va % 2 ^ lg) = true)
    (hp : s.ctl.placeStalled die (dmLoc (leafBase e lg + va % 2 ^ lg)) = false) :
    deviceReach die rctx va { rd := true, wr := false, x := false } { st := s, log := log } =
      (.ok (dmLoc (leafBase e lg + va % 2 ^ lg)), { st := s, log := log }) := by
  obtain ⟨h1, h2, h3, -, -⟩ := State.readable_iff.mp h
  simp only [dmLoc] at hp
  simp [deviceReach, bind_run, map_run, getC_run, getS_run, h1, sealedWalk_cached h2 h3 hw, hf, setAD, ha, leafAccess, hm, hr, dmLoc,
    sealAccess_cached hk, State.farFault, hp]

/-- The device's read of a line after a line. -/
theorem readWords_step {s : State} {die rctx va n : Nat} {l : Loc} {ws : List Word} (log : List Upd)
    (h : deviceReach die rctx va { rd := true, wr := false, x := false } { st := s, log := log } = (.ok l, { st := s, log := log }))
    (hr : readWords die rctx (va + 64) n { st := s, log := log } = (some (some ws), { st := s, log := log })) :
    readWords die rctx va (n + 1) { st := s, log := log } =
      (some (some ((List.range 8).map (fun i => wd (s.load (l.plus (8 * i)) 8)) ++ ws)), { st := s, log := log }) := by
  simp [readWords, bind_run, getS_run, h, hr, pure_run]

/-- A continuation's read of lines that touch no block of a range. -/
theorem contWords_untouched {k : Cont} {va n : Nat} {r : Run} (h1 : va % 64 = 0)
    (h2 : r.st.ctl.touches { (default : Team) with rctx := k.rctx } ((List.range n).map (fun i => va + 64 * i)) = []) :
    contWords k va n r = readWords k.die k.rctx va n r := by
  simp [contWords, contTouch, h1, bind_run, getC_run, h2, touchAll, pure_run]

/-- An access to a fill state whose tables are in the cache is the request for its byte. -/
theorem fillAccess_at {s : State} {rctx b : Nat} {r : PRange} {w : Bool} {l : Loc} (log : List Upd)
    (h : s.readable rctx (r.fsa.toNat + b / 4) = true) (hl : s.fillLoc rctx r b = some l)
    (hw : ∃ e at_ lg, s.walk (s.ctl.ctx rctx).root (r.fsa.toNat + b / 4) = .leaf e at_ lg) :
    fillAccess rctx r b w { st := s, log := log } = sealAccess (s.ctl.ctx rctx).kslot l.key w { st := s, log := log } := by
  obtain ⟨h1, h2, h3, -, -⟩ := State.readable_iff.mp h
  obtain ⟨e, at_, lg, hw⟩ := hw
  simp [fillAccess, bind_run, getS_run, h1, sealedWalk_cached h2 h3 hw, hl]

end Sys2Proof.Machine
end

