-- ==== Sys2Proof/Tests/Slice0.lean ====
section
/-! SUPPORT. The model's own tests: an ill-formed term for each check, a word written out from the encoding of every instruction,
that every instruction executes somewhere, for every statement a state and operands that meet its hypotheses, and worked examples of
the manual. -/

set_option maxRecDepth 20000

namespace Sys2Proof.Tests

open Sys2Proof Sys2Proof.Machine

/-! ### Helpers -/

/-- A path id: group 0 of team 0. -/
def path0 : PathId := { team := 0, who := .group 0, pid := 0 }

/-- Fields by their numbers. -/
def ff (mod sc sb sa dst : Nat) (u : Bool) (long : Long) : Fields :=
  { mod := BitVec.ofNat 6 mod, sc := BitVec.ofNat 9 sc, sb := BitVec.ofNat 9 sb, sa := BitVec.ofNat 9 sa,
    dst := BitVec.ofNat 9 dst, ws := false, kn := false, km := 0, u := u, ch := false, long := long }

/-- The instruction as group 0 executes it at 0x10000. -/
def curOf (i : Instr) : Cur :=
  let w := (encodeWords i).getD (0, 0)
  { p := path0, pc := 0x10000, len := lenBytes (field w.1 0 2), bits := w.2 ++ w.1 }

/-- A machine with one team of one group of 16 lanes. -/
def machine : State :=
  let s := place State.reset []
  { s with ctl := { s.ctl with agenda := [] } }

/-- The machine s in which group 0 executes an instruction. -/
def running (s : State) (i : Instr) : State := { s with ctl := { s.ctl with cur := some (curOf i) } }

/-- That an instruction executes, decided. -/
def executesB (i : Instr) (f : Fields) (s : State) : Bool :=
  let e := envOf s (curOf i) f
  decide (s.ctl.cur = some (curOf i)) && decide (i.fields = some f) && s.ctl.stands path0 && decide (stepFaults i e = []) &&
    (e.p.helper.isSome || decide (reportsAt i e.ex e.g = none)) && (countsEmpty i || !f.u || decide (e.ex ≠ 0)) &&
    decide (helperFault i e = none) && !e.blocked i && decide (e.shadowed i = 0)

theorem executes_of (i : Instr) (f : Fields) (s : State) (h : executesB i f s = true) : Executes i f (curOf i) s := by
  simp only [executesB, Bool.and_eq_true, Bool.or_eq_true, decide_eq_true_eq, Bool.not_eq_true'] at h
  obtain ⟨⟨⟨⟨⟨⟨⟨⟨h1, h2⟩, h3⟩, h4⟩, h5⟩, h6⟩, h7⟩, h8⟩, h9⟩ := h
  exact ⟨h1, h2, h3, h4, h5, or_assoc.mp h6, h7, h8, h9⟩

/-- The instruction is well formed and executes in s. -/
def runsIn (s : State) (i : Instr) : Bool :=
  match i.fields with
  | some f => i.wfb && executesB i f (running s i)
  | none => false

/-- s at supervisor level. -/
def sup (s : State) : State := applyUpd s (.csr (csrKey 0 0 0) 0x1000)

/-- s with a uniform register. -/
def setW (n x : Nat) (s : State) : State := applyUpd s (.reg64 .w (wKey 0 0 n) (BitVec.ofNat 64 x))

/-- s with a lane register in every lane. -/
def setV (n x : Nat) (s : State) : State :=
  applyAll s ((List.range 16).map (fun l => .reg32 .v (vKey 0 0 l n) (BitVec.ofNat 32 x)))

/-! ### Well-formedness: one ill-formed term for each check, refused -/

theorem test_ill_formed_0 : ([
    .atms 9 (ff 2 324 1 260 2 false .none),
    .atg 0x0B (ff 4 3 1 264 2 false .none),
    .redg 0x16 (ff 4 3 1 264 0 false .none),
    .tryw (ff 4 0 324 260 260 true .none),
    .add (ff 2 0 2 260 261 true .none),
    .add (ff 3 0 2 5 6 false .none),
    .add (ff 2 0 2 328 1 false .none),
    .add (ff 2 0 2 377 1 false .none),
    .add (ff 2 0 2 3 260 false .none),
    .add (ff 2 0 2 3 353 false .none),
    .and (ff 18 0 2 3 1 false .none),
    .add (ff 8 0 2 3 1 false .none),
    .add (ff 2 0 324 3 1 false (.ext 5)),
    .add (ff 2 1 2 3 1 false .none),
    .fadd (ff 40 0 2 3 1 false .none),
    .fsin (ff 1 0 0 2 4 false .none),
    .fadd (ff 2 0 324 3 1 false (.imm32 0x10000)),
    .cmp (ff 2 0 2 3 1 false .none),
    .cmp (ff 2 6 2 3 353 false .none)] : List Instr).all (fun i => !i.wfb) = true := by decide

theorem test_ill_formed_1 : ([
    .join (ff 0 0 0 0 0 false (.imm32 0)),
    .ret (ff 0 0 0 0 0 false .none),
    .nop { ff 0 0 0 0 0 false .none with ch := true },
    .split { ff 0 0 0 353 0 false (.ext 0) with km := 1 },
    .exit (ff 0 0 0 0 1 false .none),
    .kand (ff 0 0 353 3 354 true .none),
    .kpop (ff 0 0 0 353 354 true .none),
    .shuf (ff 12 0 2 3 1 false .none),
    .bcast (ff 2 0 2 3 1 false .none),
    .shuf (ff 3 0 324 2 4 false (.ext 1)),
    .shuf (ff 2 0 2 3 260 false .none),
    .ballot (ff 2 0 0 3 1 false .none),
    .lds (ff 2 0 353 260 2 false .none),
    .sts (ff 2 261 324 260 0 false .none),
    .barinit (ff 0 260 324 260 261 false .none),
    .barinit (ff 0 260 324 324 261 true .none),
    .barinit (ff 0 2 324 260 261 true .none),
    .barinit (ff 0 260 324 260 2 true .none),
    .arrive (ff 0 0 260 260 0 true (.imm32 0))] : List Instr).all (fun i => !i.wfb) = true := by decide

theorem test_ill_formed_2 : ([
    .arrive (ff 16 0 324 260 0 true .none),
    .waitc (ff 0 0 324 260 0 true .none),
    .ldg (ff 2 260 1 264 2 false .none),
    .stg (ff 2 3 353 264 0 false .none),
    .cpy (ff 1 260 261 262 0 true (.ext 166212)),
    .cpy (ff 20 260 261 262 0 true (.ext 2684520772)),
    .cpy (ff 20 260 261 262 0 true (.ext 166149)),
    .atg 8 (ff 7 3 1 264 2 false .none),
    .atg 0 { ff 4 3 1 264 0 false .none with ws := true },
    .redg 0x10 (ff 20 3 1 264 0 false .none),
    .atqPush (ff 5 0 1 264 2 false .none),
    .edgev (ff 0 0 0 325 2 false .none),
    .ropW (ff 0 8 6 324 0 false .none),
    .hquit (ff 0 0 0 0 0 true .none),
    .recruit (ff 0 324 324 2 1 false (.ext 166212)),
    .hget (ff 0 0 0 260 1 false .none),
    .setfmt (ff 1 0 0 324 0 true (.imm32 20)),
    .csrw (ff 0 8 0 260 0 true .none)] : List Instr).all (fun i => !i.wfb) = true := by decide

/-! ### Decoding: words written out from the encoding of their instructions (MOD, SC, SB, SA, DST, WS, KN, KM, MIN, MAJ, U, CH, LEN) -/

/-- What words decode to. -/
def decodes (w : Nat × Nat) (i : Instr) : Bool :=
  match decodeWords (BitVec.ofNat 64 w.1) (BitVec.ofNat 64 w.2) with
  | .ok j => decide (j = i)
  | .error _ => false

theorem test_decode_control : ([
    ((0b000000_000000000_000000000_101100010_000000000_0_0_0000_000010_000000_0_0_10, 0x380000002c),
      .split (ff 0 0 0 354 0 false (.ext 0x380000002c))),
    ((0b000000_000000000_000000000_000000000_000000000_0_0_0000_000001_000000_1_0_01, 0x18),
      .bra (ff 0 0 0 0 0 true (.imm32 0x18))),
    ((0b000000_000000001_000000000_000000000_000000000_0_0_0000_001000_000000_1_0_00, 0x0),
      .setdmr (ff 0 1 0 0 0 true .none))] : List ((Nat × Nat) × Instr)).all (fun x => decodes x.1 x.2) = true := by decide

theorem test_decode_indirect : ([
    ((0b000000_000000000_000000000_100000100_000000000_0_0_0000_000001_000001_1_0_00, 0x0),
      .callvU (ff 0 0 0 260 0 true .none)),
    ((0b000000_000000000_000000000_000000100_000000000_0_0_0000_000000_000001_0_0_00, 0x0),
      .callv (ff 0 0 0 4 0 false .none)),
    ((0b000001_000000000_000000000_000000100_000000000_0_0_0000_000000_100111_0_0_00, 0x0),
      .spush (ff 1 0 0 4 0 false .none))] : List ((Nat × Nat) × Instr)).all (fun x => decodes x.1 x.2) = true := by decide

theorem test_decode_integer : ([
    ((0b010110_000000000_000000010_000000001_000000011_0_0_0000_000000_000010_0_0_00, 0x0),
      .add (ff 22 0 2 1 3 false .none)),
    ((0b010110_101000000_101000001_101000010_000000000_1_0_0000_000100_000010_0_1_00, 0x0),
      .mad { ff 22 320 321 322 0 false .none with ws := true, ch := true })] : List ((Nat × Nat) × Instr)).all (fun x => decodes x.1 x.2) = true := by decide

theorem test_decode_logic : ([
    ((0b000010_000000000_000000010_000000001_000000011_0_0_0000_000000_000011_0_0_00, 0x0),
      .and (ff 2 0 2 1 3 false .none)),
    ((0b000010_000000000_000000000_000000001_000000011_0_0_0000_000011_000011_0_0_00, 0x0),
      .not (ff 2 0 0 1 3 false .none)),
    ((0b000010_101100001_000000010_000000001_000000011_0_0_0000_000100_000011_0_0_00, 0x0),
      .sel (ff 2 353 2 1 3 false .none))] : List ((Nat × Nat) × Instr)).all (fun x => decodes x.1 x.2) = true := by decide

theorem test_decode_shift : ([
    ((0b000010_000000000_000000010_000000001_000000011_0_0_0000_000000_000100_0_0_00, 0x0),
      .shl (ff 2 0 2 1 3 false .none)),
    ((0b000010_000000000_101000100_000000001_000000011_0_0_0000_000011_000100_0_0_01, 0x5),
      .rot (ff 2 0 324 1 3 false (.imm32 0x5)))] : List ((Nat × Nat) × Instr)).all (fun x => decodes x.1 x.2) = true := by decide

theorem test_decode_count : ([
    ((0b000011_000000000_000000000_000000010_000000100_0_0_0000_000011_000101_0_0_00, 0x0),
      .brev (ff 3 0 0 2 4 false .none)),
    ((0b000010_000000000_000000000_000000010_000000100_0_0_0000_000010_000101_0_0_00, 0x0),
      .ctz (ff 2 0 0 2 4 false .none))] : List ((Nat × Nat) × Instr)).all (fun x => decodes x.1 x.2) = true := by decide

theorem test_decode_float : ([
    ((0b000000_000000011_000000010_000000001_000000100_0_0_0000_000011_000110_0_0_00, 0x0),
      .fma (ff 0 3 2 1 4 false .none)),
    ((0b001000_000000000_000000010_000000001_000000100_0_0_0000_000000_000110_0_0_00, 0x0),
      .fadd (ff 8 0 2 1 4 false .none))] : List ((Nat × Nat) × Instr)).all (fun x => decodes x.1 x.2) = true := by decide

theorem test_decode_minmax : ([
    ((0b000000_000000000_000000010_000000001_000000011_0_0_0000_000000_000111_0_0_00, 0x0),
      .fmin (ff 0 0 2 1 3 false .none)),
    ((0b000000_000000000_000000000_000000001_000000011_0_0_0000_000001_001000_0_0_00, 0x0),
      .fclass (ff 0 0 0 1 3 false .none)),
    ((0b000000_000000010_000000010_000000001_101100001_0_0_0000_000000_001001_0_0_00, 0x0),
      .fcmp (ff 0 2 2 1 353 false .none))] : List ((Nat × Nat) × Instr)).all (fun x => decodes x.1 x.2) = true := by decide

theorem test_decode_transcendental : ([
    ((0b000000_000000000_000000000_000000001_000000011_0_0_0000_000011_001010_0_0_00, 0x0),
      .frsq (ff 0 0 0 1 3 false .none)),
    ((0b000000_000000000_000000000_000000001_000000011_0_0_0000_000111_001010_0_0_00, 0x0),
      .fcos (ff 0 0 0 1 3 false .none))] : List ((Nat × Nat) × Instr)).all (fun x => decodes x.1 x.2) = true := by decide

theorem test_decode_conversion : ([
    ((0b000000_010001011_000000000_000000010_000000101_0_0_0000_000000_001011_0_0_00, 0x0),
      .cvt (ff 0 139 0 2 5 false .none)),
    ((0b000000_000000011_000001000_000000010_000000101_0_0_0000_000100_001011_0_0_00, 0x0),
      .vdot (ff 0 3 8 2 5 false .none)),
    ((0b000000_000000000_000000000_100000100_000000000_0_0_0000_000110_001011_1_0_00, 0x0),
      .setfmt (ff 0 0 0 260 0 true .none))] : List ((Nat × Nat) × Instr)).all (fun x => decodes x.1 x.2) = true := by decide

theorem test_decode_lane : ([
    ((0b000010_000000000_000000010_000000001_000000011_0_0_0000_000000_001100_0_0_00, 0x0),
      .shuf (ff 2 0 2 1 3 false .none)),
    ((0b001000_000001000_000000000_000000001_000000011_0_0_0000_000011_001100_0_0_00, 0x0),
      .scan (ff 8 8 0 1 3 false .none))] : List ((Nat × Nat) × Instr)).all (fun x => decodes x.1 x.2) = true := by decide

theorem test_decode_mask : ([
    ((0b000000_000000000_000000000_101100001_101100010_0_0_0000_000100_001101_1_0_00, 0x0),
      .knot (ff 0 0 0 353 354 true .none)),
    ((0b000110_000000010_000000010_000000001_101100001_0_0_0000_001000_001101_0_0_00, 0x0),
      .cmp (ff 6 2 2 1 353 false .none))] : List ((Nat × Nat) × Instr)).all (fun x => decodes x.1 x.2) = true := by decide

theorem test_decode_system : ([
    ((0b000000_000000111_000000000_000000000_100000101_0_0_0000_000000_001110_1_0_00, 0x0),
      .csrr (ff 0 7 0 0 261 true .none)),
    ((0b000000_000000010_000000000_100000101_000000000_0_0_0000_000010_001110_1_0_00, 0x0),
      .csrw (ff 0 2 0 261 0 true .none))] : List ((Nat × Nat) × Instr)).all (fun x => decodes x.1 x.2) = true := by decide

theorem test_decode_indirect_register : ([
    ((0b000000_000000000_101000100_100111100_000000000_1_0_0000_000000_001111_0_1_00, 0x0),
      .rgeti { ff 0 0 324 316 0 false .none with ws := true, ch := true }),
    ((0b000000_101000000_101000100_100111010_000000000_0_0_0000_000001_001111_0_1_00, 0x0),
      .rseti { ff 0 320 324 314 0 false .none with ch := true })] : List ((Nat × Nat) × Instr)).all (fun x => decodes x.1 x.2) = true := by decide

theorem test_decode_team_memory : ([
    ((0b000010_000000000_000000001_100000100_000000010_0_0_0000_000000_010000_0_0_00, 0x0),
      .lds (ff 2 0 1 260 2 false .none)),
    ((0b000010_000000011_000000001_100000100_000000000_0_0_0000_000001_010000_0_0_00, 0x0),
      .sts (ff 2 3 1 260 0 false .none))] : List ((Nat × Nat) × Instr)).all (fun x => decodes x.1 x.2) = true := by decide

theorem test_decode_die_pool : ([
    ((0b100010_000000000_000000001_100000100_000000010_0_0_0000_000000_010001_0_0_00, 0x0),
      .ldp (ff 34 0 1 260 2 false .none)),
    ((0b000001_000000000_000000000_000000000_100000101_0_0_0000_000010_010001_1_0_00, 0x0),
      .palloc (ff 1 0 0 0 261 true .none))] : List ((Nat × Nat) × Instr)).all (fun x => decodes x.1 x.2) = true := by decide

theorem test_decode_scratchpad_atomic : ([
    ((0b000010_000000011_000000001_100000100_000000010_0_0_0000_000111_010010_0_0_10, 0x144),
      .atms 7 (ff 2 3 1 260 2 false (.ext 0x144)))] : List ((Nat × Nat) × Instr)).all (fun x => decodes x.1 x.2) = true := by decide

theorem test_decode_barrier : ([
    ((0b100010_000000000_101000100_100000110_000000000_0_0_0000_000011_010011_1_0_00, 0x0),
      .wait (ff 34 0 324 262 0 true .none)),
    ((0b000000_100000111_101000100_100000010_000000000_0_0_0000_000010_010011_1_0_00, 0x0),
      .arrivex (ff 0 263 324 258 0 true .none)),
    ((0b000100_000000000_100000011_101010000_100000101_0_0_0000_000101_010011_1_0_00, 0x0),
      .trywC (ff 4 0 259 336 261 true .none))] : List ((Nat × Nat) × Instr)).all (fun x => decodes x.1 x.2) = true := by decide

theorem test_decode_gather : ([
    ((0b000010_101010000_000000001_100001000_000000010_0_0_0001_000000_010100_0_0_00, 0x0),
      .ldg { ff 2 336 1 264 2 false .none with km := 1 })] : List ((Nat × Nat) × Instr)).all (fun x => decodes x.1 x.2) = true := by decide

theorem test_decode_copy : ([
    ((0b010100_100000110_100000101_100000100_000000000_0_0_0000_000000_010101_1_0_10, 0x28944),
      .cpy (ff 20 262 261 260 0 true (.ext 0x28944))),
    ((0b010000_101000100_100000110_100000100_000000000_0_0_0000_000000_010110_1_0_10, 0xa20021105),
      .cpz (ff 16 324 262 260 0 true (.ext 0xa20021105)))] : List ((Nat × Nat) × Instr)).all (fun x => decodes x.1 x.2) = true := by decide

theorem test_decode_atomic : ([
    ((0b000100_000000011_000000001_100001000_000000010_0_0_0000_001000_010111_0_0_00, 0x0),
      .atg 8 (ff 4 3 1 264 2 false .none)),
    ((0b000100_000000000_000000001_100001000_000000010_0_0_0000_100001_010111_0_0_00, 0x0),
      .atqPop (ff 4 0 1 264 2 false .none))] : List ((Nat × Nat) × Instr)).all (fun x => decodes x.1 x.2) = true := by decide

theorem test_decode_fence : ([
    ((0b101000_000000001_100000101_100000100_000000000_0_0_0000_000001_011000_1_0_00, 0x0),
      .fencer (ff 40 1 261 260 0 true .none))] : List ((Nat × Nat) × Instr)).all (fun x => decodes x.1 x.2) = true := by decide

theorem test_decode_hint : ([
    ((0b001011_100000110_100000101_100000100_100000111_0_0_0000_000000_011001_1_0_00, 0x0),
      .hint (ff 11 262 261 260 263 true .none)),
    ((0b001100_000001100_000000000_100000100_100000101_0_0_0000_000000_011010_1_0_00, 0x0),
      .pmap (ff 12 12 0 260 261 true .none))] : List ((Nat × Nat) × Instr)).all (fun x => decodes x.1 x.2) = true := by decide

theorem test_decode_procedural : ([
    ((0b000000_000000001_000000000_000000000_000000000_0_0_0000_000001_011011_1_0_00, 0x0),
      .pfillFail (ff 0 1 0 0 0 true .none)),
    ((0b000000_000000000_100000101_100000100_100000110_0_0_0000_000011_011011_1_0_00, 0x0),
      .preset (ff 0 0 261 260 262 true .none))] : List ((Nat × Nat) × Instr)).all (fun x => decodes x.1 x.2) = true := by decide

theorem test_decode_helper : ([
    ((0b000000_100000010_000000110_000000101_000000111_0_0_0000_000000_011100_0_0_10, 0x1000028944),
      .recruit (ff 0 258 6 5 7 false (.ext 0x1000028944))),
    ((0b011010_000000000_000000000_000000011_000000000_0_0_0001_000011_011100_0_0_00, 0x0),
      .hred { ff 26 0 0 3 0 false .none with km := 1 })] : List ((Nat × Nat) × Instr)).all (fun x => decodes x.1 x.2) = true := by decide

theorem test_decode_ring : ([
    ((0b100000_000000000_100001000_100000100_000000000_0_0_0000_000000_011101_1_0_00, 0x0),
      .msend (ff 32 0 264 260 0 true .none)),
    ((0b000000_000000010_000000000_000000000_100000110_0_0_0000_000001_011101_1_0_00, 0x0),
      .mwait (ff 0 2 0 0 262 true .none)),
    ((0b000000_000000010_101000100_000000000_000000000_1_0_0000_000010_011101_1_0_01, 0x1),
      .mack { ff 0 2 324 0 0 true (.imm32 0x1) with ws := true })] : List ((Nat × Nat) × Instr)).all (fun x => decodes x.1 x.2) = true := by decide

theorem test_decode_matrix : ([
    ((0b010100_100000110_100000101_100000100_000000000_0_0_0000_000000_011110_1_0_10, 0x28944),
      .mmx (ff 20 262 261 260 0 true (.ext 0x28944))),
    ((0b000000_000000000_000000000_101000100_100000110_0_0_0000_000001_011110_1_0_00, 0x0),
      .mringOpen (ff 0 0 0 324 262 true .none)),
    ((0b010000_101000100_000000010_100001000_000000100_0_0_0000_000000_011111_0_0_00, 0x0),
      .vxm (ff 16 324 2 264 4 false .none))] : List ((Nat × Nat) × Instr)).all (fun x => decodes x.1 x.2) = true := by decide

theorem test_decode_raster : ([
    ((0b000000_000000000_000000000_100011100_100011110_0_0_0000_000001_100000_1_0_00, 0x0),
      .prim (ff 0 0 0 284 286 true .none)),
    ((0b000000_000000000_000000000_000000000_100000101_0_0_0000_000100_100000_1_0_00, 0x0),
      .ptile (ff 0 0 0 0 261 true .none))] : List ((Nat × Nat) × Instr)).all (fun x => decodes x.1 x.2) = true := by decide

theorem test_decode_edge : ([
    ((0b000000_000000000_000000000_101000101_101001000_0_0_0000_000001_100001_0_0_00, 0x0),
      .edgev (ff 0 0 0 325 328 false .none)),
    ((0b000001_000000000_000000000_000000100_101001000_0_0_0000_000011_100001_0_0_00, 0x0),
      .vimov (ff 1 0 0 4 328 false .none))] : List ((Nat × Nat) × Instr)).all (fun x => decodes x.1 x.2) = true := by decide

theorem test_decode_raster_output : ([
    ((0b001000_000000000_000000100_101000101_000000110_0_0_0000_000000_100010_0_0_00, 0x0),
      .zview (ff 8 0 4 325 6 false .none)),
    ((0b000000_000001000_000000110_101000101_000000000_0_0_0000_000001_100010_0_0_00, 0x0),
      .ropW (ff 0 8 6 325 0 false .none))] : List ((Nat × Nat) × Instr)).all (fun x => decodes x.1 x.2) = true := by decide

theorem test_decode_texel : ([
    ((0b000000_101000100_000000100_100000100_000000110_0_0_0000_000011_100011_0_0_01, 0x1),
      .texs (ff 0 324 4 260 6 false (.imm32 0x1))),
    ((0b000001_100000110_100000101_100000100_000000000_0_0_0000_000010_100011_1_0_00, 0x0),
      .texw (ff 1 262 261 260 0 true .none))] : List ((Nat × Nat) × Instr)).all (fun x => decodes x.1 x.2) = true := by decide

theorem test_decode_scheduling : ([
    ((0b000000_000000000_000000000_100000100_100000101_0_0_0000_000000_100100_1_0_00, 0x0),
      .launch (ff 0 0 0 260 261 true .none)),
    ((0b000000_000000000_000000000_101000100_000000000_0_0_0000_000010_100100_1_0_01, 0x3),
      .tbset (ff 0 0 0 324 0 true (.imm32 0x3)))] : List ((Nat × Nat) × Instr)).all (fun x => decodes x.1 x.2) = true := by decide

theorem test_decode_trap : ([
    ((0b000000_000000101_000000000_000000000_000000000_0_0_0000_000000_100101_1_0_00, 0x0),
      .trap (ff 0 5 0 0 0 true .none)),
    ((0b000000_000001001_101000100_000000000_100000101_0_0_0000_000011_100101_1_0_00, 0x0),
      .rdtf (ff 0 9 324 0 261 true .none)),
    ((0b000000_000000011_000000000_100000100_000000000_0_0_0000_000000_100110_1_0_00, 0x0),
      .monset (ff 0 3 0 260 0 true .none))] : List ((Nat × Nat) × Instr)).all (fun x => decodes x.1 x.2) = true := by decide

/-- LEN = 11, majors 0x3C and 0x28, an unnamed minor (R49). -/
theorem test_rejects : (decodeWords 0x3 0, decodeWords 0x3C0 0, decodeWords 0x280 0, decodeWords 0x5020 0) =
    (.error .badLen, .error .invalidMajor, .error .reservedMajor, .error .unnamedMinor) := by decide

/-! ### Every instruction word executes somewhere: the premise `Executes` of the statements is met -/

theorem test_executes_0 : ([
    .nop (ff 0 0 0 0 0 false .none),
    .bra (ff 0 0 0 0 0 true (.imm32 0)),
    .split (ff 0 0 0 353 0 false (.ext 0)),
    .join (ff 0 0 0 0 0 false .none),
    .brk (ff 0 0 0 0 0 false .none),
    .call (ff 0 0 0 0 0 true (.imm32 0)),
    .ret (ff 0 0 0 0 0 true .none),
    .exit (ff 0 0 0 0 0 false .none),
    .setdmr (ff 0 0 0 0 0 true .none),
    .callv (ff 0 0 0 0 0 false .none),
    .callvU (ff 0 0 0 260 0 true .none),
    .spush (ff 0 0 0 0 0 false .none),
    .spop (ff 0 0 0 0 0 false .none),
    .add (ff 0 0 0 0 0 false .none),
    .sub (ff 0 0 0 0 0 false .none),
    .mul (ff 0 0 0 0 0 false .none),
    .mulhi (ff 0 0 0 0 0 false .none),
    .mad (ff 0 0 0 0 0 false .none),
    .min (ff 0 0 0 0 0 false .none),
    .max (ff 0 0 0 0 0 false .none),
    .abs (ff 4 0 0 0 0 false .none),
    .neg (ff 0 0 0 0 0 false .none),
    .and (ff 0 0 0 0 0 false .none),
    .or (ff 0 0 0 0 0 false .none),
    .xor (ff 0 0 0 0 0 false .none)] : List Instr).all (runsIn machine) = true := by decide

theorem test_executes_1 : ([
    .not (ff 0 0 0 0 0 false .none),
    .sel (ff 0 353 0 0 0 false .none),
    .mov (ff 0 0 0 0 0 false .none),
    .ldi (ff 0 0 0 324 0 false (.imm32 0)),
    .iota (ff 0 0 0 0 0 false .none),
    .shl (ff 0 0 0 0 0 false .none),
    .shr (ff 0 0 0 0 0 false .none),
    .sra (ff 0 0 0 0 0 false .none),
    .rot (ff 0 0 0 0 0 false .none),
    .bfe (ff 0 0 0 0 0 false .none),
    .bfi (ff 0 0 0 0 0 false .none),
    .popc (ff 0 0 0 0 0 false .none),
    .clz (ff 0 0 0 0 0 false .none),
    .ctz (ff 0 0 0 0 0 false .none),
    .brev (ff 0 0 0 0 0 false .none),
    .fadd (ff 0 0 0 0 0 false .none),
    .fsub (ff 0 0 0 0 0 false .none),
    .fmul (ff 0 0 0 0 0 false .none),
    .fma (ff 0 0 0 0 0 false .none),
    .fmin (ff 0 0 0 0 0 false .none),
    .fmax (ff 0 0 0 0 0 false .none),
    .frnd (ff 0 0 0 0 0 false .none),
    .fclass (ff 0 0 0 0 0 false .none),
    .fcmp (ff 0 0 0 0 353 false .none),
    .fdiv (ff 0 0 0 0 0 false .none)] : List Instr).all (runsIn machine) = true := by decide

theorem test_executes_2 : ([
    .fsqrt (ff 0 0 0 0 0 false .none),
    .frcp (ff 0 0 0 0 0 false .none),
    .frsq (ff 0 0 0 0 0 false .none),
    .fex2 (ff 0 0 0 0 0 false .none),
    .flg2 (ff 0 0 0 0 0 false .none),
    .fsin (ff 0 0 0 0 0 false .none),
    .fcos (ff 0 0 0 0 0 false .none),
    .cvt (ff 0 0 0 0 0 false .none),
    .cvtNarrow (ff 0 4 0 0 0 false .none),
    .mxpk (ff 0 8 0 0 0 false .none),
    .mxunpk (ff 0 8 0 0 0 false .none),
    .vdot (ff 0 0 0 0 0 false .none),
    .getfmt (ff 0 0 0 0 260 true .none),
    .setfmt (ff 0 0 0 260 0 true .none),
    .shuf (ff 0 0 0 0 0 false .none),
    .lrot (ff 0 0 260 0 0 false .none),
    .bcast (ff 0 0 260 0 0 false .none),
    .scan (ff 0 0 0 0 0 false .none),
    .redw (ff 0 0 0 0 0 false .none),
    .sortk (ff 0 0 0 0 0 false .none),
    .ballot (ff 0 0 0 0 353 false .none),
    .kand (ff 0 0 260 260 353 true .none),
    .kor (ff 0 0 260 260 353 true .none),
    .kxor (ff 0 0 260 260 353 true .none),
    .kandn (ff 0 0 260 260 353 true .none)] : List Instr).all (runsIn machine) = true := by decide

theorem test_executes_3 : ([
    .knot (ff 0 0 0 260 353 true .none),
    .kpop (ff 0 0 0 260 260 true .none),
    .kfirst (ff 0 0 0 260 260 true .none),
    .kmov (ff 0 0 0 260 260 true .none),
    .cmp (ff 0 0 0 0 353 false .none),
    .csrr (ff 0 0 0 0 260 true .none),
    .clk (ff 0 0 0 0 260 true .none),
    .csrw (ff 0 0 0 260 0 true .none),
    .rgeti (ff 0 0 0 0 0 false .none),
    .rseti (ff 0 0 0 0 0 false .none),
    .lds (ff 0 0 0 0 0 false .none),
    .sts (ff 0 0 0 0 0 false .none),
    .tmprobe (ff 0 0 260 260 260 true .none),
    .ldp (ff 0 0 0 0 0 false .none),
    .stp (ff 0 0 0 0 0 false .none),
    .palloc (ff 0 0 0 260 260 true .none),
    .pfree (ff 0 0 0 260 0 true .none),
    .atms 0 (ff 2 0 0 0 0 false .none),
    .barinit (ff 0 260 260 260 260 true .none),
    .arrive (ff 0 0 260 260 0 true .none),
    .arrivex (ff 0 260 260 260 0 true .none),
    .wait (ff 0 260 260 260 0 true .none),
    .waitc (ff 0 0 260 336 0 true .none),
    .tryw (ff 0 260 260 260 260 true .none),
    .trywC (ff 4 0 260 336 260 true .none)] : List Instr).all (runsIn machine) = true := by decide

theorem test_executes_4 : ([
    .phase (ff 0 0 260 260 260 true .none),
    .barinv (ff 0 0 260 260 0 true .none),
    .ldg (ff 0 336 0 260 0 false .none),
    .stg (ff 0 0 0 260 0 false .none),
    .cpy (ff 20 260 260 260 0 true (.ext 166212)),
    .spat (ff 16 324 260 260 0 true (.ext 166212)),
    .cpz (ff 0 260 260 260 0 true (.ext 133444)),
    .cpfill (ff 16 260 260 260 0 true (.ext 166212)),
    .cpx (ff 16 260 260 260 0 true (.ext 133444)),
    .atg 0 (ff 0 0 0 260 0 false .none),
    .redg 0x10 (ff 0 0 0 260 0 false .none),
    .atqPush (ff 0 0 0 260 0 false .none),
    .atqPop (ff 0 0 0 260 0 false .none),
    .fence (ff 16 0 0 0 0 true .none),
    .fencer (ff 16 0 260 260 0 true .none),
    .trig (ff 0 0 0 0 0 true .none),
    .hint (ff 0 260 260 260 260 true .none),
    .step (ff 0 0 0 260 260 true .none),
    .evict (ff 0 0 260 260 260 true .none),
    .pin (ff 0 0 260 260 260 true .none),
    .pfillDone (ff 0 0 0 0 0 true .none),
    .pfillFail (ff 0 2 0 0 0 true .none),
    .pstate (ff 0 0 0 260 260 true .none),
    .preset (ff 0 0 260 260 260 true .none),
    .recruit (ff 0 0 0 0 0 false (.ext 166212))] : List Instr).all (runsIn machine) = true := by decide

theorem test_executes_5 : ([
    .hget (ff 0 0 0 0 0 false .none),
    .hnext (ff 0 0 0 0 0 false .none),
    .hred (ff 0 0 0 0 0 false .none),
    .hjoin (ff 0 0 0 0 0 false .none),
    .hquit (ff 0 0 0 0 0 false .none),
    .msend (ff 0 0 260 260 0 true .none),
    .mwait (ff 0 0 0 0 260 true .none),
    .mack (ff 0 0 260 0 260 true .none),
    .mackReg (ff 16 0 260 260 260 true .none),
    .mackDrop (ff 0 0 0 0 0 true .none),
    .mmx (ff 20 260 260 260 0 true (.ext 166212)),
    .mringOpen (ff 0 0 0 260 260 true .none),
    .mringClose (ff 0 0 0 260 0 true .none),
    .epi (ff 0 260 260 260 0 true (.ext 166212)),
    .mfenceOp (ff 0 0 0 0 0 true .none),
    .mprio (ff 0 0 0 260 0 true .none),
    .mstat (ff 0 0 0 260 260 true .none),
    .vxm (ff 24 0 0 0 0 false .none),
    .primOpen (ff 0 0 0 260 260 true .none),
    .prim (ff 0 0 0 260 260 true .none),
    .primClose (ff 0 0 0 0 0 true .none),
    .ptileBind (ff 0 0 0 0 260 true .none),
    .ptile (ff 0 0 0 0 260 true .none),
    .ptileDone (ff 0 0 0 0 0 true .none),
    .edge (ff 0 0 0 0 0 false .none)] : List Instr).all (runsIn machine) = true := by decide

theorem test_executes_6 : ([
    .edgev (ff 0 0 0 0 328 false .none),
    .vmask (ff 0 0 0 328 0 false .none),
    .vimov (ff 0 0 0 328 0 false .none),
    .zview (ff 0 0 0 0 0 false .none),
    .ropW (ff 0 0 0 0 0 false .none),
    .ropRel (ff 0 0 260 260 0 true .none),
    .texq (ff 0 0 0 260 0 false .none),
    .texqInv (ff 0 0 0 260 0 true .none),
    .texw (ff 1 260 260 260 0 true .none),
    .texs (ff 0 0 0 260 0 false .none),
    .matev (ff 1 0 328 260 0 false (.ext 166212)),
    .matld (ff 0 0 260 260 0 true .none),
    .vrate (ff 0 0 0 0 260 true .none),
    .launch (ff 0 0 0 260 260 true .none),
    .cjoin (ff 0 0 260 260 260 true .none),
    .tbset (ff 0 0 0 260 0 true .none),
    .tbclr (ff 0 0 0 260 0 true .none),
    .yield (ff 0 0 0 0 0 true .none),
    .morePut (ff 0 0 0 260 0 true .none),
    .moreGet (ff 0 0 0 0 260 true .none),
    .trap (ff 0 0 0 0 0 true .none),
    .brkpt (ff 0 0 0 0 0 true .none),
    .sfence (ff 0 0 0 0 0 true .none),
    .monset (ff 0 0 0 260 0 true .none),
    .rdmon (ff 0 0 0 0 260 true .none)] : List Instr).all (runsIn machine) = true := by decide

theorem test_executes_supervisor : ([
    .pmap (ff 0 16 0 260 260 true .none),
    .tlbinv (ff 0 0 260 260 0 true .none),
    .tprobe (ff 0 0 0 260 260 true .none),
    .migr (ff 0 0 260 260 260 true .none),
    .tret (ff 0 0 0 0 0 true .none),
    .rdtf (ff 1 0 324 0 0 false .none),
    .wrtf (ff 1 0 324 0 0 false .none)] : List Instr).all (runsIn (sup machine)) = true := by decide

/-! ### The premises of the statements are met: one witness for each -/

theorem wf_upd (s : State) (u : Upd) (h : s.wf) : (applyUpd s u).wf :=
  ⟨applyUpd_memWf s u h.1, applyUpd_regWf s u h.2.1, applyUpd_csrWf s u h.2.1 h.2.2⟩

theorem wf_updAll (us : List Upd) (s : State) (h : s.wf) : (applyAll s us).wf := by
  induction us generalizing s with
  | nil => exact h
  | cons u r ih => exact ih _ (wf_upd s u h)

theorem reset_wf : State.reset.wf := by
  refine ⟨?_, ⟨rfl, rfl, rfl, rfl, rfl, rfl⟩, fun key => ?_⟩
  · refine ⟨?_, ?_, ?_, ?_, ?_⟩ <;> decide
  · show (0 : Word) &&& _ = 0
    simp

theorem machine_wf : machine.wf := wf_updAll (updBytes (dmLoc 0x10000) []) _ reset_wf

/-- i, with fields f, executes in the machine s. -/
abbrev Ex (i : Instr) (f : Fields) (s : State) : Prop := Executes i f (curOf i) (running s i)

theorem ex_of {i : Instr} {f : Fields} {s : State} (h : executesB i f (running s i) = true) : Ex i f s := executes_of i f _ h

/-- The surroundings of an instruction in s. -/
abbrev en (i : Instr) (f : Fields) (s : State) : Env := envOf (running s i) (curOf i) f

def fAdd : Fields := ff 0x16 0 2 1 3 false .none

theorem test_meets_integer_arithmetic : (intRule (.add fAdd)).isSome = true ∧ Ex (.add fAdd) fAdd machine ∧
    (running machine (.add fAdd)).wf := ⟨rfl, ex_of (by decide), machine_wf⟩

def fShl : Fields := ff 2 0 2 1 3 false .none

theorem test_meets_integer_bits : (∀ l, bitRule (en (.shl fShl) fShl machine) l (.shl fShl) = some 0) ∧ Ex (.shl fShl) fShl machine ∧
    (running machine (.shl fShl)).wf := ⟨fun _ => rfl, ex_of (by decide), machine_wf⟩

def fFma : Fields := ff 0 3 2 1 4 false .none

theorem test_meets_floats : (floatRule (.fma fFma)).isSome = true ∧ Ex (.fma fFma) fFma machine ∧ (running machine (.fma fFma)).wf :=
  ⟨rfl, ex_of (by decide), machine_wf⟩

def fCvt : Fields := ff 0 0x8B 0 2 5 false .none

theorem test_meets_conversions : (convRule (.cvt fCvt)).isSome = true ∧ Ex (.cvt fCvt) fCvt machine ∧
    (running machine (.cvt fCvt)).wf := ⟨rfl, ex_of (by decide), machine_wf⟩

def fVdot : Fields := ff 0 3 8 2 5 false .none

theorem test_meets_vdot : Ex (.vdot fVdot) fVdot machine ∧
    (let e := en (.vdot fVdot) fVdot machine
     let nb := (32 / container (wfld e.p.fmt 4 0) * container (wfld e.p.fmt 9 5) + 31) / 32
     fVdot.sb.toNat + nb ≤ e.regs ∧
       machine.ctl.waitsFor e.uid e.g.who e.p e.vp e.home [(fVdot.sb.toNat, nb)] = false) :=
  ⟨ex_of (by decide), by decide, by decide⟩

def fShuf : Fields := ff 2 0 2 1 3 false .none

theorem test_meets_lane_moves : (∀ l, (moveRule (en (.shuf fShuf) fShuf machine) l (.shuf fShuf)).isSome = true) ∧
    Ex (.shuf fShuf) fShuf machine := ⟨fun _ => rfl, ex_of (by decide)⟩

def fScan : Fields := ff 2 8 0 1 3 false .none

theorem test_meets_scan : Ex (.scan fScan) fScan machine ∧ fScan.u = false := ⟨ex_of (by decide), rfl⟩

theorem test_meets_redw : Ex (.redw (ff 2 0 0 1 3 false .none)) (ff 2 0 0 1 3 false .none) machine ∧
    (en (.redw (ff 2 0 0 1 3 false .none)) (ff 2 0 0 1 3 false .none) machine).ex ≠ 0 := ⟨ex_of (by decide), by decide⟩

theorem test_meets_sortk : Ex (.sortk (ff 2 0 0 1 3 false .none)) (ff 2 0 0 1 3 false .none) machine := ex_of (by decide)

def fCmp : Fields := ff 6 2 2 1 353 false .none

theorem test_meets_compares : (∀ l, (compareRule (en (.cmp fCmp) fCmp machine) l (.cmp fCmp)).isSome = true) ∧
    Ex (.cmp fCmp) fCmp machine ∧ fCmp.u = false ∧ fCmp.dst ≠ 352 := ⟨fun _ => rfl, ex_of (by decide), by decide⟩

theorem test_meets_uniform_compares : Ex (.cmp (ff 6 2 261 260 262 true .none)) (ff 6 2 261 260 262 true .none) machine := ex_of (by decide)

def fKmov : Fields := ff 0 0 0 260 353 true .none

theorem test_meets_masks : (maskRule (en (.kmov fKmov) fKmov machine) (.kmov fKmov)).isSome = true ∧ Ex (.kmov fKmov) fKmov machine ∧
    352 < fKmov.dst.toNat := ⟨rfl, ex_of (by decide), by decide⟩

theorem test_meets_masks_in_w : Ex (.kmov (ff 0 0 0 353 261 true .none)) (ff 0 0 0 353 261 true .none) machine := ex_of (by decide)

def fCsrr : Fields := ff 0 0 0 0 261 true .none

theorem test_meets_uniform_reads : (numberRule (en (.csrr fCsrr) fCsrr machine) (.csrr fCsrr)).isSome = true ∧
    Ex (.csrr fCsrr) fCsrr machine ∧ (en (.csrr fCsrr) fCsrr machine).flagsPending = false := ⟨rfl, ex_of (by decide), by decide⟩

def fCsrw (n : Nat) : Fields := ff 0 n 0 261 0 true .none

/-- gst, fmt; then at supervisor level tvec, tfa, spb and spl while nothing is spilled; then ctx and prio. -/
theorem test_meets_csrw : (Ex (.csrw (fCsrw 0)) (fCsrw 0) machine ∧ (en (.csrw (fCsrw 0)) (fCsrw 0) machine).flagsPending = false) ∧
    Ex (.csrw (fCsrw 1)) (fCsrw 1) machine ∧ Ex (.csrw (fCsrw 2)) (fCsrw 2) (sup machine) ∧ Ex (.csrw (fCsrw 3)) (fCsrw 3) (sup machine) ∧
    (Ex (.csrw (fCsrw 4)) (fCsrw 4) (sup machine) ∧ (let e := en (.csrw (fCsrw 4)) (fCsrw 4) (sup machine); e.g.dsp = e.csr 4 ∧ e.g.cb = 0)) ∧
    Ex (.csrw (fCsrw 5)) (fCsrw 5) (sup machine) ∧ Ex (.csrw (fCsrw 6)) (fCsrw 6) machine ∧ Ex (.csrw (fCsrw 7)) (fCsrw 7) machine ∧
    Ex (.setfmt (ff 0 0 0 260 0 true .none)) (ff 0 0 0 260 0 true .none) machine :=
  ⟨⟨ex_of (by decide), by decide⟩, ex_of (by decide), ex_of (by decide), ex_of (by decide), ⟨ex_of (by decide), by decide⟩,
    ex_of (by decide), ex_of (by decide), ex_of (by decide), ex_of (by decide)⟩

def fInd : Fields := ff 0 0 324 1 3 false .none
def fIndW : Fields := ff 0 2 324 1 0 false .none

theorem test_meets_indirect : (let e := en (.rgeti fInd) fInd machine; e.indFault = none ∧ e.indBlocked = false) ∧
    Ex (.rgeti fInd) fInd machine ∧ (let e := en (.rseti fIndW) fIndW machine; e.indFault = none ∧ e.indBlocked = false) ∧
    Ex (.rseti fIndW) fIndW machine ∧ (en (.rseti fIndW) fIndW machine).p.helper = none :=
  ⟨by decide, ex_of (by decide), by decide, ex_of (by decide), by decide⟩

/-- s with its group changed. -/
def onGroup (f : Group → Group) (s : State) : State :=
  { s with ctl := s.ctl.updTeam 0 (fun t => t.updParty (.group 0) f) }

/-- s with its path changed. -/
def onPath (f : Path → Path) (s : State) : State := onGroup (fun g => g.updPath 0 f) s

/-- s with its team changed. -/
def onTeam (f : Team → Team) (s : State) : State := { s with ctl := s.ctl.updTeam 0 f }

/-- s with its context changed. -/
def onCtx (f : Ctx → Ctx) (s : State) : State := { s with ctl := s.ctl.updCtx 0 f }

/-- s whose control state is changed. -/
def onCtl (f : Ctl → Ctl) (s : State) : State := { s with ctl := f s.ctl }

/-- s in which the tile at 0x10000 is in the cache under key slot 0, dirty. -/
def caching (s : State) : State := onCtl (fun c => { c with cached := [{ tile := 64, slot := 0, dirty := true }] }) s

/-- An entry of the reconvergence stack. -/
def rent (kind : RKind) : REnt :=
  { jpc := 0x10000, jmask := 0xFFFF, arr := 0, ppc := 0, pmask := 0, pfmt := 0, fcopy := 0, kind := kind, ppark := none }

/-- A second live path. -/
def other (p : Path) : Path := { p with pid := 1, act := 0xFF00 }

def fBra : Fields := ff 0 0 0 0 0 true (.imm32 0xFFFFFFF8)
def fBraNz : Fields := ff 16 0 0 261 0 true (.imm32 0x18)
def fBraK : Fields := { ff 0 0 0 0 0 true (.imm32 8) with km := 1 }

/-- nop; a branch that is taken, one that is not, one that no lane executes. -/
theorem test_meets_branches : Ex (.nop (ff 0 0 0 0 0 false .none)) (ff 0 0 0 0 0 false .none) machine ∧ Ex (.bra fBra) fBra machine ∧
    (Ex (.bra fBraNz) fBraNz machine ∧ (en (.bra fBraNz) fBraNz machine).opnd 261 0 false 0 = 0) ∧
    (stepFaults (.bra fBraK) (en (.bra fBraK) fBraK machine) = [] ∧ fBraK.u = true ∧ (en (.bra fBraK) fBraK machine).ex = 0) :=
  ⟨ex_of (by decide), ex_of (by decide), ⟨ex_of (by decide), by decide⟩, by decide⟩

def fSplit : Fields := ff 0 0 0 353 0 false (.ext 0x000000380000002C)

/-- A split of which both sides have lanes, and one with an empty side. -/
theorem test_meets_split :
    (let s := applyUpd machine (.reg64 .k (kKey 0 0 1) 0xFF)
     let e := en (.split fSplit) fSplit s
     Ex (.split fSplit) fSplit s ∧ e.g.recon.length < 16 ∧ e.p.act &&& e.k 1 ≠ 0 ∧ e.p.act &&& ~~~(e.k 1) ≠ 0 ∧ e.g.hasDual = false) ∧
    (let e := en (.split fSplit) fSplit machine
     Ex (.split fSplit) fSplit machine ∧ e.p.act &&& e.k 1 = 0) :=
  ⟨⟨ex_of (by decide), by decide⟩, ex_of (by decide), by decide⟩

def fZero : Fields := ff 0 0 0 0 0 false .none

/-- A join alone with and without a pending arm, and one beside another live path. -/
theorem test_meets_join :
    (let s := onGroup (fun g => { g with recon := [rent .ser] }) machine
     let e := en (.join fZero) fZero s
     Ex (.join fZero) fZero s ∧ e.g.recon = [rent .ser] ∧ (rent .ser).jpc = (curOf (.join fZero)).pc ∧ e.alone ∧ (rent .ser).pmask = 0 ∧
       (rent .ser).jmask ≠ 0 ∧ lastSpilled false e.g.spilled = none) ∧
    (let x := { rent .ser with pmask := 0xFF, ppc := 0x10020 }
     let s := onGroup (fun g => { g with recon := [x] }) machine
     let e := en (.join fZero) fZero s
     Ex (.join fZero) fZero s ∧ e.g.recon = [x] ∧ e.alone ∧ x.pmask ≠ 0) ∧
    (let s := onGroup (fun g => { g with recon := [rent .dual], paths := g.paths ++ g.paths.map other }) machine
     let e := en (.join fZero) fZero s
     Ex (.join fZero) fZero s ∧ e.g.recon = [rent .dual] ∧ ¬e.alone) :=
  ⟨⟨ex_of (by decide), by decide, rfl, by decide, by decide, by decide, by decide⟩, ⟨ex_of (by decide), by decide, by decide, by decide⟩,
    ex_of (by decide), by decide, by decide⟩

/-- A brk of some lanes, and of all lanes beside another live path. -/
theorem test_meets_brk :
    (let s := applyUpd (onGroup (fun g => { g with recon := [rent .ser] }) machine) (.reg64 .k (kKey 0 0 1) 0xFF)
     let f := { fZero with km := 1 }
     let e := en (.brk f) f s
     Ex (.brk f) f s ∧ e.ex ≠ 0 ∧ scfld f 3 0 + 1 ≤ e.g.nr ∧ (∀ a ∈ e.g.ras, a.depth + 1 ≤ e.g.nr) ∧ e.p.act &&& ~~~e.ex ≠ 0) ∧
    (let s := onGroup (fun g => { g with recon := [rent .dual], paths := g.paths ++ g.paths.map other }) machine
     let e := en (.brk fZero) fZero s
     Ex (.brk fZero) fZero s ∧ e.ex ≠ 0 ∧ 1 ≤ e.g.nr ∧ (∀ a ∈ e.g.ras, a.depth + 1 ≤ e.g.nr) ∧ ¬e.alone ∧ e.p.act &&& ~~~e.ex = 0) :=
  ⟨⟨ex_of (by decide), by decide⟩, ex_of (by decide), by decide⟩

def fCall : Fields := ff 0 0 0 0 0 true (.imm32 0x20)
def fCallvU : Fields := ff 0 0 0 260 0 true .none

theorem test_meets_calls : (Ex (.call fCall) fCall machine ∧ (en (.call fCall) fCall machine).g.ras.length < 8) ∧
    (let s := setW 4 0x10020 machine
     let x := (en (.callvU fCallvU) fCallvU s).opnd 260 0 false 0
     Ex (.callvU fCallvU) fCallvU s ∧ x ≠ 0 ∧ x.toNat % 4 = 0) := ⟨⟨ex_of (by decide), by decide⟩, ex_of (by decide), by decide⟩

def fRet : Fields := ff 0 0 0 0 0 true .none

/-- A return from a call, and one from the last call of a callv. -/
theorem test_meets_ret :
    (let s := onGroup (fun g => { g with ras := [{ pc := 0x10020, depth := 0 }] }) machine
     let e := en (.ret fRet) fRet s
     Ex (.ret fRet) fRet s ∧ e.g.ras = [{ pc := 0x10020, depth := 0 }] ∧ lastSpilled true e.g.spilled = none ∧ e.g.nr = 0) ∧
    (let s := onGroup (fun g => { g with ras := [{ pc := 0x10021, depth := 1 }], recon := [rent .callv] }) machine
     let e := en (.ret fRet) fRet s
     Ex (.ret fRet) fRet s ∧ e.g.ras = [{ pc := 0x10021, depth := 1 }] ∧ lastSpilled true e.g.spilled = none ∧
       e.g.recon = [rent .callv] ∧ e.alone ∧ lastSpilled false e.g.spilled = none) :=
  ⟨⟨ex_of (by decide), by decide, by decide, by decide⟩, ex_of (by decide), by decide, by decide, by decide, by decide, by decide⟩

/-- The last lanes of a group exit; some lanes exit; all lanes of one of two paths exit. -/
theorem test_meets_exit :
    (let e := en (.exit fZero) fZero machine
     Ex (.exit fZero) fZero machine ∧ e.ex ≠ 0 ∧ e.hst = 0 ∧ e.g.spilled = [] ∧ e.g.due = none ∧ e.alone ∧ e.g.recon = [] ∧
       e.p.act &&& ~~~e.ex = 0) ∧
    (let s := applyUpd machine (.reg64 .k (kKey 0 0 1) 0xFF)
     let f := { fZero with km := 1 }
     let e := en (.exit f) f s
     Ex (.exit f) f s ∧ e.ex ≠ 0 ∧ e.hst = 0 ∧ e.g.spilled = [] ∧ e.liveLanes &&& ~~~e.ex ≠ 0 ∧ e.p.act &&& ~~~e.ex ≠ 0) ∧
    (let s := onPath (fun p => { p with act := 0xFF }) (onGroup (fun g => { g with paths := g.paths ++ g.paths.map other }) machine)
     let e := en (.exit fZero) fZero s
     Ex (.exit fZero) fZero s ∧ e.ex ≠ 0 ∧ e.liveLanes &&& ~~~e.ex ≠ 0 ∧ ¬e.alone ∧ e.p.act &&& ~~~e.ex = 0) :=
  ⟨⟨ex_of (by decide), by decide, by decide, by decide, by decide, by decide, by decide, by decide⟩, ⟨ex_of (by decide), by decide⟩,
    ex_of (by decide), by decide⟩

def fCallv : Fields := ff 0 0 0 4 0 false .none

/-- A machine that calls, before the call and as the call word is read. -/
def calling : State := applyAll (setV 4 0x10020 machine) (updBytes (dmLoc 0x10000) (encode (.callv fCallv)))
abbrev callEnv : Env := en (.callv fCallv) fCallv (caching calling)
def callEntry : REnt :=
  { jpc := 0x10008, jmask := 0xFFFF, arr := 0, ppc := 0x10000, pmask := 0xFFFF, pfmt := 0, fcopy := callEnv.p.fmt, kind := .callv, ppark := none }
def pushed : M Unit := do
  demote 0 (.group 0) 0
  modGroup 0 (.group 0) (fun g => { g with recon := callEntry :: g.recon })
  endPath 0 (.group 0) 0
def called : State := (pushed { st := running (caching calling) (.callv fCallv), log := [] }).2.st

theorem test_meets_callv :
    Ex (.callv fCallv) fCallv (caching calling) ∧ callEnv.ex = 0xFFFF ∧ callEnv.p.act = 0xFFFF ∧ callEnv.g.recon = [] ∧ callEnv.g.ras = [] ∧
      (∀ l ∈ lanesOf callEnv.ex callEnv.gw, callEnv.opnd 4 l true 0 ≠ 0 ∧ (callEnv.opnd 4 l true 0).toNat % 4 = 0) ∧
      Runs pushed (running (caching calling) (.callv fCallv)) () called ∧ Runs (readCall callEnv.acc 0x10000) called (.ok (wd (called.load (dmLoc 0x10000) 8))) called ∧
      wfld (wd (called.load (dmLoc 0x10000) 8)) 39 31 = 4 := by
  refine ⟨ex_of (by decide), by decide, by decide, by decide, by decide, by decide, fun log => ⟨_, rfl⟩, fun log => ⟨log, ?_⟩, by decide⟩
  have h : reach callEnv.acc 0x10000 8 { rd := false, wr := false, x := true } { st := called, log := log } =
      (.ok (dmLoc 0x10000), { st := called, log := log }) := reach_at rfl (by decide) rfl (by decide)
  simp only [readCall, bind_run, show (advPc (0x10000 : Word)).toNat = 0x10000 from by decide, h]
  rfl

theorem test_meets_setdmr : (Ex (.setdmr fRet) fRet machine ∧ (en (.setdmr fRet) fRet machine).hst = 0) ∧
    (let s := onGroup (fun g => { g with recruit := some 7 }) machine
     Ex (.setdmr fRet) fRet s ∧ (en (.setdmr fRet) fRet s).hst ≠ 0) := ⟨⟨ex_of (by decide), by decide⟩, ex_of (by decide), by decide⟩

/-- A translation that a cached leaf serves. -/
theorem runs_pure {α : Type} (m : M α) (s : State) (a : α) (h : ∀ log, m { st := s, log := log } = (a, { st := s, log := log })) :
    Runs m s a s := fun log => ⟨log, h log⟩

/-- A machine whose spill area lies in its page. -/
def spilling : State :=
  applyAll (onGroup (fun g => { g with dsp := 0x10400 }) machine) [.csr (csrKey 0 0 4) 0x10400, .csr (csrKey 0 0 5) 0x10C00]

def fSpush : Fields := ff 0 0 0 260 0 true .none
def fSpop : Fields := ff 0 0 0 0 260 true .none
def fSpushNone : Fields := { ff 0 0 0 4 0 false .none with km := 1 }
def fSpopNone : Fields := { ff 0 0 0 0 4 false .none with km := 1 }

theorem test_meets_spush :
    (let e := en (.spush fSpush) fSpush spilling
     let xs := e.spillLanes 260 e.g.dsp.toNat (e.spillSize 260).2
     Ex (.spush fSpush) fSpush spilling ∧
       e.g.dsp.toNat + (e.spillSize 260).1 + e.g.cb ≤ ((running spilling (.spush fSpush)).csrOf e.uid e.g.who.idx 5).toNat ∧
       e.ex ≠ 0 ∧ e.Reaches xs { rd := false, wr := true, x := false } [(0, dmLoc 0x10400)] e.s ∧ e.s.ctl.refusedWrites e.t e.s xs = []) ∧
    (let i := Instr.spush fSpushNone
     Ex i fSpushNone spilling ∧ (en i fSpushNone spilling).ex = 0) ∧
    (let i := Instr.spop fSpopNone
     Ex i fSpopNone spilling ∧ (en i fSpopNone spilling).ex = 0) :=
  ⟨⟨ex_of (by decide), by decide, by decide, fun log => ⟨log, rfl⟩, by decide⟩, ⟨ex_of (by decide), by decide⟩, ex_of (by decide), by decide⟩

theorem test_meets_spop :
    (let s := onGroup (fun g => { g with dsp := 0x10440 }) spilling
     let e := en (.spop fSpop) fSpop s
     let z := e.spillSize 260
     Ex (.spop fSpop) fSpop s ∧ e.ex ≠ 0 ∧ ((running s (.spop fSpop)).csrOf e.uid e.g.who.idx 4).toNat + z.1 ≤ e.g.dsp.toNat ∧
       e.Reaches (e.spillLanes 260 (e.g.dsp.toNat - z.1) z.2) { rd := true, wr := false, x := false } [(0, dmLoc 0x10400)] e.s) :=
  ⟨ex_of (by decide), by decide, by decide, fun log => ⟨log, rfl⟩⟩

/-! Scratchpads, barriers and accesses of device memory -/

theorem wf_ctl (s : State) (c : Ctl) (h : s.wf) : ({ s with ctl := c } : State).wf := h

theorem wf_running (s : State) (i : Instr) (h : s.wf) : (running s i).wf := h

theorem wf_setW (n x : Nat) (s : State) (h : s.wf) : (setW n x s).wf := wf_upd s _ h

theorem wf_setV (n x : Nat) (s : State) (h : s.wf) : (setV n x s).wf :=
  wf_updAll ((List.range 16).map (fun l => .reg32 .v (vKey 0 0 l n) (BitVec.ofNat 32 x))) s h

theorem wf_sup (s : State) (h : s.wf) : (sup s).wf := wf_upd s _ h

theorem wf_onCtx (f : Ctx → Ctx) (s : State) (h : s.wf) : (onCtx f s).wf := h

theorem wf_onTeam (f : Team → Team) (s : State) (h : s.wf) : (onTeam f s).wf := h

theorem wf_onGroup (f : Group → Group) (s : State) (h : s.wf) : (onGroup f s).wf := h

theorem wf_onPath (f : Path → Path) (s : State) (h : s.wf) : (onPath f s).wf := h

def fLds : Fields := ff 2 0 2 1 5 false .none

/-- A load whose lanes are data, and one whose lanes lie in the selvage past the window. -/
theorem test_meets_scratchpad :
    (let e := en (.lds fLds) fLds machine
     Ex (.lds fLds) fLds machine ∧ (spRule e (.lds fLds)).isSome = true ∧ (running machine (.lds fLds)).wf ∧
       (∀ x ∈ e.spLanes 1 4, x.off % 4 = 0) ∧ (∀ x ∈ e.spLanes 1 4, ∀ b, x.cls ≠ .out b) ∧
       spPark e.s.ctl e.t true false (dataLanes (e.spLanes 1 4)) 4 = none ∧ (∀ x ∈ e.spLanes 1 4, x.cls ≠ .selv)) ∧
    (let s := setV 1 0x1000 machine
     let e := en (.lds fLds) fLds s
     Ex (.lds fLds) fLds s ∧ (running s (.lds fLds)).wf ∧ e.spLanes 1 4 ≠ [] ∧ (∀ x ∈ e.spLanes 1 4, x.cls = .selv) ∧
       whoOf e.home = e.g.who) ∧
    (let f := ff 2 3 2 1 0 false .none
     let e := en (.sts f) f machine
     Ex (.sts f) f machine ∧ (∀ d ∈ dataLanes (e.spLanes 1 4), e.s.ctl.boundByte d.2 4 = false ∧ e.s.ctl.ringHeader d.2 4 = false)) := by
  refine ⟨⟨ex_of (by decide), rfl, machine_wf, by decide, ?_, by decide, by decide⟩,
    ⟨ex_of (by decide), wf_running _ _ (wf_setV 1 0x1000 machine machine_wf), by decide, by decide, by decide⟩, ex_of (by decide), by decide⟩
  intro x hx b hb
  have h : ∀ x ∈ (en (.lds fLds) fLds machine).spLanes 1 4, (match x.cls with | .out _ => false | _ => true) = true := by decide
  have h2 := h x hx
  rw [hb] at h2
  cases h2

def fTmprobe (q : Nat) : Fields := ff q 0 260 260 261 true .none

theorem test_meets_tmprobe : (Ex (.tmprobe (fTmprobe 0)) (fTmprobe 0) machine ∧ Ex (.tmprobe (fTmprobe 1)) (fTmprobe 1) machine) ∧
    (running machine (.tmprobe (fTmprobe 0))).wf := ⟨⟨ex_of (by decide), ex_of (by decide)⟩, machine_wf⟩

/-- A machine whose context may take die-pool memory. -/
def pooled : State := setW 4 0x300 (onCtx (fun c => { c with dpQuota := 0x10000 }) machine)

def fPalloc (m : Nat) : Fields := ff m 0 0 (if m = 0 then 260 else 0) 261 true .none
def fPfree : Fields := ff 0 0 0 260 0 true .none

theorem pooled_wf : pooled.wf := wf_setW 4 0x300 _ (wf_onCtx _ machine machine_wf)

/-- palloc.r; an allocation that fits; one of 0 bytes; a free. -/
theorem test_meets_pool : pooled.wf ∧ (Ex (.palloc (fPalloc 1)) (fPalloc 1) pooled ∧ (fPalloc 1).mod.getLsbD 0 = true) ∧
    (let s := running pooled (.palloc (fPalloc 0))
     let e := en (.palloc (fPalloc 0)) (fPalloc 0) pooled
     Ex (.palloc (fPalloc 0)) (fPalloc 0) pooled ∧ (fPalloc 0).mod.getLsbD 0 = false ∧ e.usrc 260 = 0x300 ∧
       s.ctl.poolUsed e.t.rctx e.t.die + roundUp 0x300 256 + 512 ≤ (s.ctl.ctx e.t.rctx).dpQuota ∧
       s.ctl.poolFits e.t.die (roundUp 0x300 256) 256 s.ctl.reserveBase ≠ []) ∧
    (Ex (.palloc (fPalloc 0)) (fPalloc 0) machine ∧ (en (.palloc (fPalloc 0)) (fPalloc 0) machine).usrc 260 = 0) ∧
    (let r : Alloc := { die := 0, base := 0x100, size := 0x300, rctx := 0, live := true, freedAt := 0 }
     let s0 := setW 4 0x100 machine
     let s : State := { s0 with ctl := { s0.ctl with allocs := [r] } }
     Ex (.pfree fPfree) fPfree s ∧ s.wf ∧
       s.ctl.allocs.find? (fun x => x.live && x.rctx == 0 && poolAddr x.die x.base == wd 0x100 && x.die == 0) = some r ∧
       s.ctl.entries = []) :=
  ⟨pooled_wf, ⟨ex_of (by decide), by decide⟩, ⟨ex_of (by decide), by decide, by decide, by decide, by decide⟩,
    ⟨ex_of (by decide), by decide⟩, ex_of (by decide), wf_ctl _ _ (wf_setW 4 0x100 machine machine_wf), by decide, by decide⟩

def fBarinit : Fields := ff 0 262 261 260 263 true .none

/-- An object is free; none is. -/
theorem test_meets_barinit :
    (let s := setW 6 4 machine
     let e := en (.barinit fBarinit) fBarinit s
     let l := tmLoc 0 0
     Ex (.barinit fBarinit) fBarinit s ∧ s.wf ∧ e.atWord l false ∧ fld (e.usrc 262).toNat 19 0 ≠ 0 ∧ s.ctl.entryAt l 16 = false ∧
       (0 < (e.barPool l).2 ∧ 0 ∉ (e.barPool l).1)) ∧
    (let s0 := setW 6 4 machine
     let s : State := { s0 with ctl := { s0.ctl with bars := [{ loc := tmLoc 0 0x40, obj := 0, team := 0, rctx := 0 }] } }
     let e := en (.barinit fBarinit) fBarinit s
     let l := tmLoc 0 0
     Ex (.barinit fBarinit) fBarinit s ∧ e.atWord l false ∧ s.ctl.entryAt l 16 = false ∧ ∀ i, i < (e.barPool l).2 → i ∈ (e.barPool l).1) :=
  ⟨⟨ex_of (by decide), wf_setW 6 4 machine machine_wf, by decide, by decide, by decide, by decide⟩, ex_of (by decide), by decide, by decide, by decide⟩

/-- A machine with the word at offset 0 of the team window bound, its phase count 1. -/
def barred0 : State := applyAll (setW 6 4 machine) (updBytes (tmLoc 0 0) [0, 0, 0x10, 0, 0, 1, 0, 0x80])

def barred : State :=
  { barred0 with ctl := { barred0.ctl with bars := [{ loc := tmLoc 0 0, obj := 0, team := 0, rctx := 0 }] } }

theorem barred0_wf : barred0.wf :=
  wf_updAll (updBytes (tmLoc 0 0) [0, 0, 0x10, 0, 0, 1, 0, 0x80]) (setW 6 4 machine) (wf_setW 6 4 machine machine_wf)

theorem barred_wf : barred.wf := wf_ctl barred0 _ barred0_wf

def fArrive : Fields := ff 0 0 261 260 0 true .none
def fArrivex : Fields := ff 0 262 261 260 0 true .none
def fArrivex0 : Fields := ff 0 263 261 260 0 true .none

theorem test_meets_arrivals :
    (let e := en (.arrive fArrive) fArrive barred
     Ex (.arrive fArrive) fArrive barred ∧ e.atWord (tmLoc 0 0) true ∧ popc e.ex ≠ 0) ∧
    (let e := en (.arrivex fArrivex) fArrivex barred
     Ex (.arrivex fArrivex) fArrivex barred ∧ e.atWord (tmLoc 0 0) true ∧ wfld (e.usrc 262) 19 0 ≠ 0) ∧
    (let e := en (.arrivex fArrivex0) fArrivex0 barred
     Ex (.arrivex fArrivex0) fArrivex0 barred ∧ e.atWord (tmLoc 0 0) true ∧ wfld (e.usrc 263) 19 0 = 0) :=
  ⟨⟨ex_of (by decide), by decide, by decide⟩, ⟨ex_of (by decide), by decide, by decide⟩, ex_of (by decide), by decide, by decide⟩

def fWait (m : Nat) : Fields := ff m 0 261 260 0 true .none
def fWaitc (m sb : Nat) : Fields := ff m 0 sb 336 0 true .none

/-- A wait whose phase has passed, and one whose phase has not; a counter that has reached its value, and one that has not. -/
theorem test_meets_waits : barred.wf ∧
    (let e := en (.wait (fWait 2)) (fWait 2) barred
     Ex (.wait (fWait 2)) (fWait 2) barred ∧ e.atWord (tmLoc 0 0) true ∧ (barred.barWordAt (tmLoc 0 0)).pseq % 2 ≠ e.parity) ∧
    (let e := en (.wait (fWait 3)) (fWait 3) barred
     Ex (.wait (fWait 3)) (fWait 3) barred ∧ e.atWord (tmLoc 0 0) true ∧ (barred.barWordAt (tmLoc 0 0)).pseq % 2 = e.parity) ∧
    (let e := en (.waitc (fWaitc 1 260)) (fWaitc 1 260) barred
     Ex (.waitc (fWaitc 1 260)) (fWaitc 1 260) barred ∧ e.ctrGoal ≤ e.a e.ctr) ∧
    (let e := en (.waitc (fWaitc 0 262)) (fWaitc 0 262) barred
     Ex (.waitc (fWaitc 0 262)) (fWaitc 0 262) barred ∧ e.a e.ctr < e.ctrGoal) :=
  ⟨barred_wf, ⟨ex_of (by decide), by decide, by decide⟩, ⟨ex_of (by decide), by decide, by decide⟩, ⟨ex_of (by decide), by decide⟩,
    ex_of (by decide), by decide⟩

def fTryw : Fields := ff 2 0 261 260 264 true .none
def fTrywC : Fields := ff 4 0 260 336 264 true .none
def fPhase : Fields := ff 3 0 261 260 264 true .none

theorem test_meets_tests : (Ex (.tryw fTryw) fTryw barred ∧ (en (.tryw fTryw) fTryw barred).atWord (tmLoc 0 0) true ∧ fTryw.ws = false) ∧
    Ex (.trywC fTrywC) fTrywC barred ∧ (Ex (.phase fPhase) fPhase barred ∧ (en (.phase fPhase) fPhase barred).atWord (tmLoc 0 0) true) :=
  ⟨⟨ex_of (by decide), by decide, by decide⟩, ex_of (by decide), ex_of (by decide), by decide⟩

theorem test_meets_barinv : Ex (.barinv fArrive) fArrive barred ∧ (en (.barinv fArrive) fArrive barred).atWord (tmLoc 0 0) true ∧
    barred.ctl.entryAt (tmLoc 0 0) 16 = false ∧
    (∀ y ∈ (running barred (.barinv fArrive)).ctl.teams, ∀ h ∈ y.parties, ∀ o ∈ h.paths, ∀ m, o.park = some m → m.doom = none) := by
  refine ⟨ex_of (by decide), by decide, by decide, ?_⟩
  have h : ∀ y ∈ (running barred (.barinv fArrive)).ctl.teams, ∀ h ∈ y.parties, ∀ o ∈ h.paths, o.park = none := by decide
  intro y hy g hg o ho m hm
  rw [h y hy g hg o ho] at hm
  exact absurd hm (by simp)

def fLdg : Fields := ff 2 336 2 260 5 false .none
def fStg : Fields := ff 2 5 2 260 0 false .none
def fLdgK : Fields := { fLdg with km := 1 }

/-- The sixteen lanes' accesses at 0x10000. -/
def all16 : List (Nat × Loc) := (List.range 16).map (fun i => (i, dmLoc 0x10000))

/-- A gather, one without executing lanes, a scatter. -/
theorem test_meets_gathers :
    (let s := setW 4 0x10000 machine
     let e := en (.ldg fLdg) fLdg s
     Ex (.ldg fLdg) fLdg s ∧ e.dvLanes ≠ [] ∧ Aligned e.dvLanes 4 ∧ e.Reaches e.dvLanes { rd := true, wr := false, x := false } all16 e.s ∧
       Runs (e.fillCheck e.dvLanes) e.s none e.s ∧ e.gathersFull = false) ∧
    (let e := en (.ldg fLdgK) fLdgK machine
     Ex (.ldg fLdgK) fLdgK machine ∧ e.dvLanes = []) ∧
    (let s := setW 4 0x10000 machine
     let e := en (.stg fStg) fStg s
     Ex (.stg fStg) fStg s ∧ Aligned e.dvLanes 4 ∧ e.Reaches e.dvLanes { rd := false, wr := true, x := false } all16 e.s ∧
       e.s.ctl.refusedWrites e.t e.s e.dvLanes = []) :=
  ⟨⟨ex_of (by decide), by decide, by decide, fun log => ⟨log, rfl⟩, fun log => ⟨log, rfl⟩, by decide⟩, ⟨ex_of (by decide), by decide⟩,
    ex_of (by decide), by decide, fun log => ⟨log, rfl⟩, by decide⟩

def fAtg : Fields := ff 16 5 2 260 6 false .none
def fRedg : Fields := ff 32 5 2 260 0 false .none

theorem test_meets_atomics :
    (let s := setW 4 0x10000 machine
     let e := en (.atg 0 fAtg) fAtg s
     Ex (.atg 0 fAtg) fAtg s ∧ (atomRule e (.atg 0 fAtg)).isSome = true ∧ e.dvLanes ≠ [] ∧ Aligned e.dvLanes 4 ∧
       e.Reaches e.dvLanes { rd := true, wr := true, x := false } all16 e.s ∧ (∀ o ∈ all16, o.2.sp ≠ .hm) ∧
       e.s.ctl.refusedWrites e.t e.s e.dvLanes = [] ∧ Runs (e.fillCheck e.dvLanes) e.s none e.s) ∧
    (let s := setW 4 0x10000 machine
     Ex (.redg 16 fRedg) fRedg s ∧ (atomRule (en (.redg 16 fRedg) fRedg s) (.redg 16 fRedg)).isSome = true) ∧
    (let f := { fAtg with km := 1 }
     let e := en (.atg 0 f) f machine
     Ex (.atg 0 f) f machine ∧ (atomRule e (.atg 0 f)).isSome = true ∧ e.dvLanes = []) :=
  ⟨⟨ex_of (by decide), rfl, by decide, by decide, fun log => ⟨log, rfl⟩, by decide, by decide, fun log => ⟨log, rfl⟩⟩, ⟨ex_of (by decide), rfl⟩, ex_of (by decide), rfl, by decide⟩

/-! Events of the memory system, fences and jobs -/

/-- s with these entries. -/
def queued (es : List Entry) (s : State) : State := onCtl (fun c => { c with entries := es }) s

theorem wf_onCtl (f : Ctl → Ctl) (s : State) (h : s.wf) : (onCtl f s).wf := h

theorem wf_queued (es : List Entry) (s : State) (h : s.wf) : (queued es s).wf := h

/-- One lane's element of n bytes at l. -/
def elAt (l : Loc) (n : Nat) : Elem := { lane := 0, loc := l, n := n, vs := if l.sp = .dm then 0 else 1, va := l.key, data := 5, data2 := 0, sink := .none }

/-- An entry of group 0 in that stage. -/
def entAt (st : Stage) (act : Act) (els : List Elem) : Entry :=
  { id := 7, ins := 7, team := 0, who := .group 0, pid := 0, home := 0, cluster := 0, stage := st, act := act, acq := false,
    rel := false, scope := 0, els := els, since := 0, fence := 0, cnt := none, poisoned := false, kslot := 0, user := true, party := 1, flags := false,
    hl := none, born := 0 }

/-- x is the entry that drains, nothing bars it, and it is served from no older write. -/
abbrev drains (x : Entry) : Prop :=
  let s := queued [x] machine
  s.ctl.entries.find? (fun o => o.id == x.id && o.stage == .pend) = some x ∧ s.ctl.forwards x = none ∧ s.ctl.barred x = false ∧
    s.ctl.runOf x = [x] ∧ s.ctl.pinnedAt x = false

def tmE : Elem := elAt (tmLoc 0 0x40) 4
def dmE : Elem := elAt (dmLoc 0x10100) 4

/-- An entry that is barred; a fence; a read, a write and an atomic of the scratchpad; a read, a write and an atomic of device
memory; both counts of a join counter; a read served from an older write. -/
theorem test_meets_drain : machine.wf ∧
    (let x := entAt .pend .write [tmE]
     let x2 : Entry := { x with id := 8, ins := 8 }
     let s := queued [x, x2] machine
     s.ctl.entries.find? (fun o => o.id == 8 && o.stage == .pend) = some x2 ∧ s.ctl.forwards x2 = none ∧ s.ctl.runOf x2 = [x2] ∧ s.ctl.barred x2 = true) ∧
    (∀ a ∈ [Act.fence true true none, .read, .write, .atom .add 4], drains (entAt .pend a [tmE])) ∧
    (∀ a ∈ [Act.read, .write, .atom .add 4, .cjoin, .join], drains (entAt .pend a [dmE])) ∧
    (let x := entAt .pend .write [tmE]
     let x2 : Entry := { x with id := 8, ins := 8, act := .read }
     let s := queued [x, x2] machine
     s.ctl.entries.find? (fun o => o.id == 8 && o.stage == .pend) = some x2 ∧ s.ctl.forwards x2 = some [(tmE, 5)]) := by
  refine ⟨machine_wf, by decide, ?_, ?_, by decide⟩
  · simp only [List.forall_mem_cons]
    exact ⟨by decide, by decide, by decide, by decide, by simp⟩
  · simp only [List.forall_mem_cons]
    exact ⟨by decide, by decide, by decide, by decide, by decide, by simp⟩

/-- Arrivals that reach the word, whose phase expects one: none ends a phase, one ends it, two set OVER and are carried over two
phases; a byte, of which the word expects none, sets OVER and counts nothing. -/
theorem test_meets_arrivals_counted :
    (∀ d ∈ [(0, 0), (1, 0), (2, 0), (0, 1)],
      let x := entAt .pend (.bar (.count d.1 d.2)) [elAt (tmLoc 0 0) 16]
      let s := queued [x] barred
      s.ctl.entries.find? (fun o => o.id == x.id && o.stage == .pend) = some x ∧ s.ctl.barred x = false ∧
        (s.ctl.barAt (tmLoc 0 0)).isSome = true) ∧
    (queued [] barred).wf ∧
    (let w := barred.barWordAt (tmLoc 0 0)
     w.expa = 1 ∧ w.expb = 0 ∧ w.Counts 0 0 w 0 False ∧ w.Counts 1 0 { w with pseq := 2 } 1 False ∧
       w.Counts 2 0 { w with pseq := 3, ovr := true } 2 True ∧ w.Counts 0 1 { w with ovr := true } 0 True) := by
  refine ⟨by decide, wf_queued _ barred barred_wf, by decide, by decide, ?_, ?_, ?_, ?_⟩ <;>
    exact ⟨by decide, by decide, by decide, by decide, by decide⟩

/-- A read and a write at the head of a port; a queued write. -/
theorem test_meets_ports :
    (∀ a ∈ [Act.read, .write],
      let x := entAt .port a [dmE]
      let s := queued [x] (caching machine)
      s.ctl.portHead 0 x.dest = some x ∧ x.dest < 16 ∧ s.ctl.lineWaits x = false ∧ s.ctl.partialWrite x = false ∧ s.ctl.stalled 0 (stkOf dmE.loc.key / 2) = false) ∧
    (∀ w, Unsealed (queued [entAt .port .write [dmE]] (caching machine)) 0 dmE.loc.key w
      (queued [entAt .port .write [dmE]] (caching machine))) ∧
    (let x := entAt .wq .write [dmE]
     let s := queued [x] machine
     s.ctl.entries.find? (fun e => e.stage == .wq && e.dest == x.dest) = some x) :=
  ⟨by decide, fun w log => ⟨log, sealAccess_dirty (by decide) (by decide) (by decide) log⟩, by decide⟩

/-- At a synchronisation engine: a queue atomic and another, both counts of a join counter. -/
theorem test_meets_sync_engines :
    (∀ a ∈ [Act.atom .add 4, .atom .push 0, .cjoin, .join],
      let x := entAt .sync a [dmE]
      let s := queued [x] (caching machine)
      s.ctl.entries.find? (fun o => o.id == x.id && o.stage == .sync) = some x ∧ s.ctl.runOf x = [x] ∧ s.ctl.lineWaits x = false ∧
        s.ctl.partialWrite x = false ∧ s.ctl.stalled 0 (syncDie dmE.loc.key) = false ∧ s.wf) ∧
    Unsealed (queued [entAt .sync .cjoin [dmE]] (caching machine)) 0 dmE.loc.key true
      (queued [entAt .sync .cjoin [dmE]] (caching machine)) ∧
    (let s := caching machine
     0 ≤ (s.cnt dmE.loc.key : Int) + sextNat 32 5 ∧ (s.cnt dmE.loc.key : Int) + sextNat 32 5 < 2 ^ 31 ∧
       (s.cnt dmE.loc.key : Int) + sextNat 32 0xFFFFFFFF < 0) := by
  refine ⟨?_, fun log => ⟨log, sealAccess_dirty (by decide) (by decide) (by decide) log⟩, by decide⟩
  simp only [List.forall_mem_cons]
  exact ⟨⟨by decide, by decide, by decide, by decide, by decide, wf_queued _ _ (wf_onCtl _ machine machine_wf)⟩,
    ⟨by decide, by decide, by decide, by decide, by decide, wf_queued _ _ (wf_onCtl _ machine machine_wf)⟩,
    ⟨by decide, by decide, by decide, by decide, by decide, wf_queued _ _ (wf_onCtl _ machine machine_wf)⟩,
    ⟨by decide, by decide, by decide, by decide, by decide, wf_queued _ _ (wf_onCtl _ machine machine_wf)⟩,
    by simp⟩

/-- A reply to group 0's lane 0. -/
def replyOf (kind : ReplyKind) (fault : Option (Nat × Nat)) : Reply :=
  { id := 9, kind := kind, ins := 9, team := 0, who := .group 0, pid := 0, home := 0, lane := 0, sink := .reg { vp := 0, wp := 0, pl := 0, code := 3, lane := 0, w := 32, sgn := false } false, data := 1,
    cnt := some (aKey 0 0 1), poisoned := false, flags := 1, addr := 0, fault := fault, acq := false, hl := none, born := 0,
    way := some (dmLoc 0x10100, 0) }

/-- A reply of each kind that brings a value, and one that brings a fault. -/
theorem test_meets_replies :
    ∀ k ∈ [ReplyKind.gather, .atomic, .load], ∀ x ∈ [none, some (10, 1)],
      let r := replyOf k x
      let s := onCtl (fun c => { c with replies := [r] }) machine
      s.ctl.replies.find? (fun q => q.id == r.id && q.kind == r.kind && !s.ctl.replyStalled q) = some r ∧ s.ctl.hasTeam r.team = true ∧ s.ctl.entries = [] ∧
        (∀ q ∈ s.ctl.replies, q.ins = r.ins → q.id = r.id) ∧ (s.ctl.team r.team).hasParty r.home = true ∧
        ((s.ctl.team r.team).party (whoOf r.home)).retired = false := by decide

def fFence : Fields := ff 0x36 0 0 0 0 true .none
def fFencer : Fields := ff 0x36 0 261 260 0 true .none
def fTrig : Fields := ff 0 0 0 0 0 true .none

theorem test_meets_fences : Ex (.fence fFence) fFence machine ∧
    (Ex (.fencer fFencer) fFencer machine ∧ ((en (.fencer fFencer) fFencer machine).usrc 261).toNat = 0) ∧
    (let s := setW 5 64 machine
     let e := en (.fencer fFencer) fFencer s
     Ex (.fencer fFencer) fFencer s ∧ (e.usrc 261).toNat ≠ 0 ∧
       wrapSp (scfld fFencer 1 0) (e.usrc 260).toNat + (e.usrc 261).toNat ≤ (if scfld fFencer 1 0 = 0 then 2 ^ 64 else 2 ^ 32)) ∧
    Ex (.trig fTrig) fTrig machine :=
  ⟨ex_of (by decide), ⟨ex_of (by decide), by decide⟩, ⟨ex_of (by decide), by decide⟩, ex_of (by decide)⟩

def fCpy : Fields := ff 20 262 261 260 0 true (.ext 166212)
def fCpz : Fields := ff 0 262 261 260 0 true (.ext 133444)
def fCpfill : Fields := ff 16 262 261 260 0 true (.ext 166212)
def fCpx : Fields := ff 16 262 261 260 0 true (.ext 133444)

/-- A copy meets what its statement asks. -/
def copies (i : Instr) (f : Fields) (s : State) : Bool :=
  let e := en i f s
  (match copyRule e i with
    | some r => e.fixedOut r.rs == none
    | none => false) &&
  (match e.completion with
    | .ok _ => true
    | .error _ => false)

/-- A machine whose w6 is 1. -/
def sized : State := setW 6 1 machine

/-- Each copy; and one whose destination touches the selvage. -/
theorem test_meets_copies :
    (Ex (.cpy fCpy) fCpy sized ∧ copies (.cpy fCpy) fCpy sized = true) ∧ (Ex (.cpz fCpz) fCpz sized ∧ copies (.cpz fCpz) fCpz sized = true) ∧
    (Ex (.cpfill fCpfill) fCpfill sized ∧ copies (.cpfill fCpfill) fCpfill sized = true) ∧
    (Ex (.cpx fCpx) fCpx sized ∧ copies (.cpx fCpx) fCpx sized = true) ∧
    (let s := setW 4 0x1000 sized
     let e := en (.cpfill fCpfill) fCpfill s
     Ex (.cpfill fCpfill) fCpfill s ∧ copies (.cpfill fCpfill) fCpfill s = true ∧ (rangeSelv e.s.ctl e.t 1 0x1000 1).isSome = true) :=
  ⟨⟨ex_of (by decide), by decide⟩, ⟨ex_of (by decide), by decide⟩, ⟨ex_of (by decide), by decide⟩, ⟨ex_of (by decide), by decide⟩,
    ex_of (by decide), by decide⟩

def fSpat : Fields := ff 20 324 260 260 0 true (.ext 166212)

/-- A record of team memory: a pattern of one element of one byte in team memory. -/
def patterned : State :=
  applyAll machine (updBytes (tmLoc 0 0)
    ([0, 0, 0, 0, 0, 0, 0, 0, 1] ++ List.replicate 7 0 ++ ((List.range 4).map (fun _ => [1, 0, 0, 0, 0, 0, 0, 0])).flatten))

/-- A machine with a record of zeros, and one with a pattern. -/
theorem test_meets_patterns_words : spatOf false (List.replicate 8 0) = none ∧
    (let w := (List.range 8).map (fun i => wd (patterned.load ((tmLoc 0 0).plus (8 * i)) 8))
     (∀ n, n < 2 → machine.ctl.copyRoom (en (.spat fSpat) fSpat machine).t n = true) ∧
     ((spatOf false w).map (fun r => (en (.spat fSpat) fSpat patterned).fixedOut [(1, 0, 64), (1, 0, r.es * r.count)])) = some none) ∧
    (match (en (.spat fSpat) fSpat patterned).completion with
      | .ok _ => true
      | .error _ => false) = true := ⟨by decide, ⟨by decide, by decide⟩, by decide⟩

/-- The record of a `spat` in team memory is read at once. -/
theorem spatRecord_at {e : Env} {sp a : Nat} {l : Loc} (h1 : a % 64 = 0) (h2 : sp ≠ 0) (h3 : e.fixedOut [(sp, a, 64)] = none)
    (h4 : classify e.s.ctl e.t sp a 64 = .data l) (h5 : e.s.ctl.entries = []) (h6 : e.s.ctl.replies = []) (h7 : e.s.ctl.jobs = []) (s : State) :
    Runs (e.spatRecord sp a) s (.ok ((List.range 8).map (fun i => wd (e.s.load (l.plus (8 * i)) 8)))) s := by
  intro log
  refine ⟨log, ?_⟩
  unfold Env.spatRecord
  simp [h1, h2, h3, h4, h5, h6, h7, Ctl.wouldBar, Ctl.barred, Ctl.acquiring, Ctl.lineFirst, Ctl.olderRead, Ctl.absent, pure]
  rfl

theorem test_meets_patterns : (Ex (.spat fSpat) fSpat machine ∧ Ex (.spat fSpat) fSpat patterned) ∧
    (∀ s ∈ [machine, patterned], let e := en (.spat fSpat) fSpat s
      Runs (e.spatRecord 1 0) (running s (.spat fSpat)) (.ok ((List.range 8).map (fun i => wd (e.s.load ((tmLoc 0 0).plus (8 * i)) 8))))
        (running s (.spat fSpat))) := by
  refine ⟨⟨ex_of (by decide), ex_of (by decide)⟩, ?_⟩
  simp only [List.forall_mem_cons]
  exact ⟨spatRecord_at (by decide) (by decide) (by decide) (by decide) (by decide) (by decide) (by decide) _,
    spatRecord_at (by decide) (by decide) (by decide) (by decide) (by decide) (by decide) (by decide) _, by simp⟩

/-- A job of group 0 that copies n bytes within team memory. -/
def copyOf (n : Nat) : Job :=
  { id := 5, team := 0, who := .group 0, pid := 0, lane := 0, die := 0, cluster := 0, engine := 0, user := true, kslot := 0, rctx := 0,
    depth := 0, kind := .cpy, dsp := 1, dst := 0x80, ssp := 1, src := 0x40, size := n, compl := .none, home := 0, pl := 0, f := fCpy,
    born := 0, accepted := false, acceptedAt := 0, seq := 0, got := [], landed := [], early := [], earlyJobs := [], bound := none,
    lost := false, guard := false, err := none }

/-- s with these jobs. -/
def working (js : List Job) (s : State) : State := onCtl (fun c => { c with jobs := js }) s

theorem test_meets_accepts : ∀ n ∈ [0, 4],
    let j : Job := { copyOf n with compl := .counter (aKey 0 0 1) }
    let s := working [j] (setW 6 n machine)
    let x := shapeOf j.f (j.rd s) j.kind
    s.ctl.theJob j.id j ∧ j.isCopy = true ∧ j.accepted = false ∧ j.err = none ∧ j.kind = .cpy ∧ (n = 4 → x.size ≠ j.done) ∧
      (n = 0 → x.size = j.done) ∧ s.ctl.entries = [] ∧ ∀ n, n < 2 → s.ctl.copyRoom (s.ctl.team j.team) n = true := by decide

/-- A byte to read; a byte to land, the last one and another; an error. -/
theorem test_meets_copy_bytes :
    (let j : Job := { copyOf 4 with accepted := true }
     let s := working [j] machine
     s.ctl.theJob j.id j ∧ anyOverlap 0 1 (j.got.map (fun g => (g.1, g.2.length))) = false ∧ j.srcAt 0 = some (1, 0x40) ∧
       s.ctl.reading j.id 0 1 = false ∧ Runs (jobReach j 1 0x40 false false) s (.at_ (tmLoc 0 0x40)) s ∧ j.done ≠ j.size) ∧
    (let j : Job := { copyOf 2 with accepted := true, got := [(0, [7, 8])] }
     let s := working [j] machine
     s.ctl.theJob j.id j ∧ anyOverlap 1 1 j.landed = false ∧ j.gotByte 1 = some 8 ∧ j.dstAt 1 = some (1, 0x81) ∧
       Runs (jobReach j 1 0x81 true false) s (.at_ (tmLoc 0 0x81)) s ∧ j.done + 1 ≠ j.size) ∧
    (let j : Job := { copyOf 2 with accepted := true, got := [(0, [7, 8])], landed := [(0, 1)] }
     let s := working [j] machine
     s.ctl.theJob j.id j ∧ anyOverlap 1 1 j.landed = false ∧ j.gotByte 1 = some 8 ∧ j.done + 1 = j.size) ∧
    (let j : Job := { copyOf 2 with accepted := true, err := some (11, 1, 0x40) }
     let s := working [j] machine
     s.ctl.theJob j.id j ∧ s.ctl.hasTeam 0 = true ∧ (s.ctl.team 0).hasParty 0 = true ∧ ((s.ctl.team 0).party (whoOf 0)).retired = false) :=
  ⟨⟨by decide, by decide, by decide, by decide, fun log => ⟨log, rfl⟩, by decide⟩,
    ⟨by decide, by decide, by decide, by decide, fun log => ⟨log, rfl⟩, by decide⟩, by decide, by decide⟩

/-- A word that expects one byte. -/
def barredB : State := applyAll barred (updBytes (tmLoc 0 0) [0, 0, 0, 0, 0, 1, 0, 0x80, 0, 0, 0, 0, 1, 0, 0, 0])

/-- A byte that ends the phase of its word; one that reaches a word which expects none. -/
theorem test_meets_counted_bytes :
    let j : Job := { copyOf 4 with accepted := true, got := [(0, [7, 8])], compl := .barrier (tmLoc 0 0) 0 }
    (∀ s ∈ [working [j] barredB, working [j] barred], s.ctl.theJob j.id j ∧ anyOverlap 1 1 j.landed = false ∧ j.gotByte 1 = some 8 ∧
      j.dstAt 1 = some (1, 0x81) ∧ Runs (jobReach j 1 0x81 true false) s (.at_ (tmLoc 0 0x81)) s ∧ j.lost = false ∧
      (s.ctl.barAt (tmLoc 0 0)).isSome = true ∧ (tmLoc 0 0).touches 16 (tmLoc 0 0x81) 1 = false) ∧
    (let w := barredB.barWordAt (tmLoc 0 0)
     w.expa = 0 ∧ w.expb = 1 ∧ w.Counts 0 1 { w with pseq := 2 } 1 False) ∧
    (let w := barred.barWordAt (tmLoc 0 0)
     w.expb = 0 ∧ w.Counts 0 1 { w with ovr := true } 0 True) := by
  intro j
  refine ⟨?_, ⟨by decide, by decide, ⟨by decide, by decide, by decide, by decide, by decide⟩⟩, by decide,
    ⟨by decide, by decide, by decide, by decide, by decide⟩⟩
  simp only [List.forall_mem_cons]
  exact ⟨⟨by decide, by decide, by decide, by decide, fun log => ⟨log, rfl⟩, by decide, by decide, by decide⟩,
    ⟨by decide, by decide, by decide, by decide, fun log => ⟨log, rfl⟩, by decide, by decide, by decide⟩, by simp⟩

/-! Tiers, seals and translation -/

def fHint : Fields := ff 1 262 261 260 263 true .none
def fStep : Fields := ff 0 0 0 260 263 true .none
def fEvict : Fields := ff 0 0 261 260 263 true .none
def fPin (m : Nat) : Fields := ff m 0 261 260 263 true .none

/-- Tables in device memory that lead to a leaf of the page at 0x10000, and a context whose pool has two pages. -/
def tabled : State :=
  onCtx (fun c => { c with pool := [(0x20000, 0x2000), (2 ^ 38, 0x2000)], pinQuota := 4 })
    (onCtl (fun c => { c with cached := [4, 8, 12, 16, 64].map (fun t => { tile := t, slot := 0, dirty := true }) })
      (applyAll machine (updBytes (dmLoc 0x1000) [1, 0x20] ++ updBytes (dmLoc 0x2000) [1, 0x30] ++ updBytes (dmLoc 0x3000) [1, 0x40] ++
        updBytes (dmLoc 0x4080) [0x7B, 8, 1])))

theorem tabled_wf : tabled.wf :=
  wf_onCtx _ _ (wf_onCtl _ _ (wf_updAll (updBytes (dmLoc 0x1000) [1, 0x20] ++ updBytes (dmLoc 0x2000) [1, 0x30] ++
    updBytes (dmLoc 0x3000) [1, 0x40] ++ updBytes (dmLoc 0x4080) [0x7B, 8, 1]) machine machine_wf))

/-- The range of one page at 0x10000. -/
def ranged (s : State) : State := setW 4 0x10000 (setW 5 0x1000 s)

/-- Its one tier page. -/
theorem tier_at {s : State} (h : s.readable 0 0x10000 = true) (hw : s.walk (s.ctl.ctx 0).root 0x10000 = .leaf 0x1087B 0x4080 12)
    (ht : s.ctl.tierPage 0x1087B 12 0x10000 = some 1) : Runs (tierPages 0 0x10000 0x1000) s (.ok [1]) s :=
  fun log => ⟨log, tierPages_one (va := 0x10000) log (by decide) h hw ht⟩

/-- A page, and no page. -/
theorem test_meets_hints : machine.wf ∧
    (Ex (.hint fHint) fHint (ranged tabled) ∧ 0x10000 + 0x1000 ≤ 2 ^ 64 ∧
      Runs (tierPages 0 0x10000 0x1000) (running (ranged tabled) (.hint fHint)) (.ok [1]) (running (ranged tabled) (.hint fHint))) ∧
    (Ex (.hint fHint) fHint machine ∧ ((en (.hint fHint) fHint machine).usrc 261).toNat = 0 ∧
      Runs (tierPages 0 0 0) (running machine (.hint fHint)) (.ok []) (running machine (.hint fHint))) ∧
    (Ex (.step fStep) fStep machine ∧ ∃ x ∈ machine.ctl.ctxs, x.rctx = (en (.step fStep) fStep machine).t.rctx) :=
  ⟨machine_wf, ⟨ex_of (by decide), by decide, tier_at (by decide) (by decide) (by decide)⟩,
    ⟨ex_of (by decide), by decide, fun log => ⟨log, rfl⟩⟩, ex_of (by decide), by decide⟩

theorem test_meets_evict_and_pin :
    (let s := running (ranged tabled) (.evict fEvict)
     Runs (tierPages 0 0x10000 0x1000) s (.ok [1]) s) ∧
    (Ex (.evict fEvict) fEvict (ranged tabled) ∧ tabled.ctl.movesOf 0 + 1 ≤ 64 ∧ tabled.ctl.page 1 = { pg := 1, rctx := none, pri := 3, n := 0, pin := none, owner := none, fast := true } ∧
      (en (.evict fEvict) fEvict (ranged tabled)).p.prog = none) ∧
    Ex (.pin (fPin 1)) (fPin 1) (ranged tabled) ∧
    (Ex (.pin (fPin 0)) (fPin 0) (ranged tabled) ∧ tabled.ctl.pinnedBy 0 + 1 ≤ (tabled.ctl.ctx 0).pinQuota ∧
      tabled.ctl.pinnedOn (pageStk 1) + 1 ≤ 48 * 2 ^ 14) ∧
    (let s := onCtx (fun c => { c with pinQuota := 0 }) (ranged tabled)
     Ex (.pin (fPin 0)) (fPin 0) s ∧ Runs (tierPages 0 0x10000 0x1000) s (.ok [1]) s ∧ ¬(s.ctl.pinnedBy 0 + 1 ≤ (s.ctl.ctx 0).pinQuota)) :=
  ⟨tier_at (by decide) (by decide) (by decide), ⟨ex_of (by decide), by decide⟩, ex_of (by decide), ⟨ex_of (by decide), by decide⟩, ex_of (by decide),
    tier_at (by decide) (by decide) (by decide), by decide⟩

def moveOf (run : Bool) : TierMove := { stk := 0, pg := 1, promote := true, asked := true, running := run, victim := none }

/-- A promotion that starts, one that nothing is left to do for, an `evict` of a page outside the fast tier, one of a pinned page, and
moves that end. -/
theorem test_meets_tier_moves :
    (let s := onCtl (fun c => { c with moves := [moveOf false], pages := [{ c.page 1 with fast := false }] }) machine
     (∀ x ∈ s.ctl.moves, x.stk = 0 → x.running = false) ∧ s.ctl.moves.find? (fun x => x.stk == 0) = some (moveOf false) ∧
       s.decideMove (moveOf false) 0 = .runs (moveOf true)) ∧
    (let s := onCtl (fun c => { c with moves := [moveOf false] }) machine
     s.decideMove (moveOf false) 0 = .drop) ∧
    (let m : TierMove := { moveOf false with promote := false }
     let s := onCtl (fun c => { c with moves := [m], pages := [{ c.page 1 with fast := false }] }) machine
     s.ctl.moves.find? (fun x => x.stk == 0) = some m ∧ s.decideMove m 0 = .drop) ∧
    (let m : TierMove := { moveOf false with promote := false }
     let s := onCtl (fun c => { c with moves := [m] }) machine
     s.ctl.moves.find? (fun x => x.stk == 0) = some m ∧ s.decideMove m 0 = .wait) ∧
    (let s := onCtl (fun c => { c with moves := [moveOf true] }) machine
     s.ctl.moves.find? (fun x => x.stk == 0 && x.running) = some (moveOf true) ∧ (moveOf true).victim ≠ some (moveOf true).pg) ∧
    (let m : TierMove := { moveOf true with victim := some 3 }
     let s := onCtl (fun c => { c with moves := [m] }) machine
     s.ctl.moves.find? (fun x => x.stk == 0 && x.running) = some m ∧ m.victim ≠ some m.pg) := by decide

/-- A tile to fill; a dirty tile to write back, before the last minor number, at it and with MAJOR exhausted; one whose counters fail
for one value of its tag or another; a clean one. -/
theorem test_meets_tiles :
    (let s := queued [entAt .port .read [dmE]] machine
     s.ctl.wantsTile 64 0 = true ∧ s.ctl.resealing (64 * 1024) = false ∧ s.ctl.unsealedAt (64 * 1024) = false ∧
       s.ctl.recordPage (64 * 1024 / 65536) = false ∧ (s.ctl.tile 64).quarantined = false ∧ (∀ y ∈ s.ctl.cached, y.tile ≠ 64) ∧
       s.ctl.cacheFull 64 = false ∧ s.ctl.countersPass (groupOfTile 64) = true ∧ (s.ctl.tile 64).minor = 0) ∧
    (∀ d ∈ [true, false],
      let x : Cached := { tile := 64, slot := 0, dirty := d }
      let s := onCtl (fun c => { c with cached := [x] }) machine
      s.ctl.cached.find? (fun y => y.tile == 64) = some x ∧ (∀ y ∈ s.ctl.cached, y.tile = 64 → y = x) ∧ s.ctl.treeFull (groupOfTile 64) = false ∧
        s.ctl.resealing (64 * 1024) = false ∧ s.ctl.unsealedAt (64 * 1024) = false ∧
        s.ctl.countersPass (groupOfTile 64) = true ∧ (s.ctl.tile 64).minor ≠ 127 ∧ (s.ctl.tile 64).quarantined = false) ∧
    (let s := onCtl (fun c => { c with tiles := [{ c.tile 64 with minor := 127 }] }) (caching machine)
     s.ctl.cached.find? (fun y => y.tile == 64) = some { tile := 64, slot := 0, dirty := true } ∧
       s.ctl.countersPass (groupOfTile 64) = true ∧ s.ctl.treeFull (groupOfTile 64) = false ∧ (s.ctl.tile 64).minor = 127 ∧
       (s.ctl.sealGroup (groupOfTile 64)).major ≠ 0xFFFFFFFFFFFFFFFF) := by decide

/-- A machine whose seal group 1 has this major number and tag. -/
def grouped (m : Word) (tag : BitVec 128) : State :=
  onCtl (fun c => { c with groups := [{ grp := 1, major := m, tag := tag, resealing := none, renewing := false }] }) (caching machine)

/-- The counters of a group fail under all tags but one. -/
theorem test_meets_failing_counters : ∀ m, (grouped m ((grouped m 0).ctl.blockTag ((grouped m 0).ctl.sealGroup 1) + 1)).ctl.countersPass 1 = false ∧
    (grouped m ((grouped m 0).ctl.blockTag ((grouped m 0).ctl.sealGroup 1))).ctl.countersPass 1 = true := by
  intro m
  constructor
  · show (((((grouped m 0).ctl.blockTag ((grouped m 0).ctl.sealGroup 1) + 1) == (grouped m 0).ctl.blockTag ((grouped m 0).ctl.sealGroup 1)) && true) && true) = false
    simp
  · show (((((grouped m 0).ctl.blockTag ((grouped m 0).ctl.sealGroup 1)) == (grouped m 0).ctl.blockTag ((grouped m 0).ctl.sealGroup 1)) && true) && true) = true
    simp

/-- A group that is sealed again, beside another live tile of it; a tile whose tag fails. -/
theorem test_meets_reseal :
    (let s := onCtl (fun c => { c with tiles := [{ c.tile 65 with minor := 3 }],
                                       groups := [{ c.sealGroup 1 with resealing := some (64, 0) }] }) machine
     (s.ctl.sealGroup 1).resealing = some (64, 0) ∧ s.ctl.treeFull 1 = false ∧ (s.ctl.tiles.map (·.tile)).Nodup ∧ groupOfTile 65 = 1 ∧ (s.ctl.tile 65).minor ≠ 0) ∧
    (let x : Tile := { machine.ctl.tile 64 with minor := 1, slot := 3 }
     let s := onCtl (fun c => { c with tiles := [x] }) machine
     x ∈ s.ctl.tiles ∧ groupOfTile x.tile = 1 ∧ x.quarantined = false ∧ s.ctl.unsealedAt (x.tile * 1024) = false ∧
       s.ctl.tagPasses x = false) := by decide

/-- The leaf of `machine`'s page. -/
theorem test_meets_cached_leaves :
    machine.ctl.migrating 0 0x10123 = false ∧
    (machine.ctl.tlbs.find? (fun t => t.eng == .core 0 0 && t.rctx == 0 && covers t.va (2 ^ t.log) 0x10123 1)).map (fun x =>
      (x.leaf.getLsbD 63, x.leaf.getLsbD 62, x.leaf.getLsbD 8, x.leaf.getLsbD 9)) = some (false, false, true, true) := by decide

def fPmap : Fields := ff 0xE 12 0 260 261 true .none

/-- A free entry to fill. -/
def mapping : State := sup (setW 4 0x11000 tabled)

theorem mapping_wf : mapping.wf := wf_sup _ (wf_setW 4 0x11000 tabled tabled_wf)

theorem test_meets_pmap : Ex (.pmap fPmap) fPmap mapping ∧ mapping.wf ∧ replicas 0x4000 0x11000 12 = [0x4088] ∧
    Runs (readEntries 0 [0x4088]) mapping (.ok [mapping.load (dmLoc 0x4088) 8]) mapping ∧ mapping.ctl.inCache 0 0x4088 = true ∧
    mapping.ctl.migrating 0 0x11000 = false ∧ entBit (mapping.load (dmLoc 0x4088) 8) 0 = false ∧ ∃ p ∈ poolFor 0 12 (mapping.ctl.poolOf 0), (Machine.runsIn 12 p).2 ≠ 0 :=
  ⟨ex_of (by decide), mapping_wf, by decide,
    fun log => ⟨log, by simp [readEntries, bind_run, pure_run, readEntry_at (s := mapping) (slot := 0) (at_ := 0x4088) (by decide)]⟩,
    by decide, by decide, by decide, by decide⟩

/-- A page that is mapped already. -/
theorem test_meets_pmap_mapped : let s := sup (setW 4 0x10000 tabled)
    replicas 0x4000 0x10000 12 = [0x4080] ∧ Runs (readEntries 0 [0x4080]) s (.ok [s.load (dmLoc 0x4080) 8]) s ∧
    entBit (s.load (dmLoc 0x4080) 8) 0 = true :=
  ⟨by decide, fun log => ⟨log, by simp [readEntries, bind_run, pure_run,
    readEntry_at (s := sup (setW 4 0x10000 tabled)) (slot := 0) (at_ := 0x4080) (by decide)]⟩, by decide⟩

theorem test_meets_pmap_walk : Runs (mapWalk 0 0 0 0x11000 0 3 0x1000) mapping (.table 0x4000) mapping := by
  intro log
  refine ⟨log, ?_⟩
  rw [mapWalk_down log (by decide) (by decide), mapWalk_down log (by decide) (by decide), mapWalk_down log (by decide) (by decide)]
  have h : fld (mapping.load (dmLoc (fld (mapping.load (dmLoc (fld (mapping.load (dmLoc (0x1000 + 8 * levelIndex 0x11000 3)) 8) 41 12 * 4096 +
    8 * levelIndex 0x11000 2)) 8) 41 12 * 4096 + 8 * levelIndex 0x11000 1)) 8) 41 12 * 4096 = 0x4000 := by decide
  exact congrArg (fun t => mapWalk 0 0 0 0x11000 0 0 t { st := mapping, log := log }) h

def unsealed0 : State :=
  sup (onCtl (fun c => { c with cached := [4, 8].map (fun t => { tile := t, slot := 0, dirty := true }) }) machine)

def mapped0 : State := applyAll unsealed0 (updBytes (dmLoc 0x1000) [1, 0x20] ++ updBytes (dmLoc 0x2000) [0x13, 0, 0, 0x20])

/-- Walks that end without pool memory, and at a mapped page above. -/
theorem test_meets_pmap_ends :
    (Ex (.pmap fPmap) fPmap unsealed0 ∧ Runs (mapWalk 0 0 0 0 0 3 0x1000) unsealed0 .empty unsealed0) ∧
    (Ex (.pmap fPmap) fPmap mapped0 ∧ Runs (mapWalk 0 0 0 0 0 3 0x1000) mapped0 .mapped mapped0) := by
  refine ⟨⟨ex_of (by decide), fun log => ⟨log, ?_⟩⟩, ex_of (by decide), fun log => ⟨log, ?_⟩⟩
  · have h : entBit (unsealed0.load (dmLoc (0x1000 + 8 * levelIndex 0 3)) 8) 0 = false ∧
        poolFor 0 12 (unsealed0.ctl.poolOf 0) = [] := by decide
    simp [mapWalk, bind_run, getC_run, pure_run, drawBelow_zero_run, nthRun, readEntry_at (s := unsealed0) (slot := 0) (at_ := 0x1000 + 8 * levelIndex 0 3) (by decide), h.1, h.2, takeRun]
  · rw [mapWalk_down log (by decide) (by decide)]
    have h : (let e := mapped0.load (dmLoc (fld (mapped0.load (dmLoc (0x1000 + 8 * levelIndex 0 3)) 8) 41 12 * 4096 + 8 * levelIndex 0 2)) 8
      entBit e 0 = true ∧ malformed e 2 = false ∧ entBit e 1 = true) := by decide
    simp [mapWalk, bind_run, pure_run, h.1, h.2.1, h.2.2,
      readEntry_at (s := mapped0) (slot := 0) (at_ := fld (mapped0.load (dmLoc (0x1000 + 8 * levelIndex 0 3)) 8) 41 12 * 4096 + 8 * levelIndex 0 2) (by decide)]

def fTlbinv : Fields := ff 0 0 261 260 0 true .none
def fTprobe : Fields := ff 0 0 0 260 261 true .none

theorem test_meets_tlbinv : (Ex (.tlbinv fTlbinv) fTlbinv (sup (ranged tabled)) ∧ 0x10000 + 0x1000 ≤ 2 ^ 64) ∧
    Ex (.tprobe fTprobe) fTprobe (sup (ranged tabled)) := ⟨⟨ex_of (by decide), by decide⟩, ex_of (by decide)⟩

def fMigr : Fields := ff 0 0 261 260 263 true .none

/-- Every walk through `tabled`'s tables is through the cache. -/
theorem walks_tabled {s : State} {va : Nat} {w : Walk} (hv : va < 2 ^ 48)
    (h : s.walkCached (s.ctl.ctx 0).kslot va 4 (s.ctl.ctx 0).root = true) (hw : s.walk (s.ctl.ctx 0).root va = w) :
    Runs (sealedWalk 0 va) s (some w) s := fun log => ⟨log, sealedWalk_cached hv h hw log⟩

theorem test_meets_tprobe :
    (let s := sup (ranged tabled)
     Ex (.tprobe fTprobe) fTprobe s ∧ s.ctl.migrating 0 0x10000 = false ∧ Runs (sealedWalk 0 0x10000) s (some (.leaf 0x1087B 0x4080 12)) s) ∧
    (let s := sup tabled
     Ex (.tprobe fTprobe) fTprobe s ∧ s.ctl.migrating 0 0 = false ∧ Runs (sealedWalk 0 0) s (some (.fault 9 1)) s) :=
  ⟨⟨ex_of (by decide), by decide, walks_tabled (by decide) (by decide) (by decide)⟩,
    ex_of (by decide), by decide, walks_tabled (by decide) (by decide) (by decide)⟩

/-- A page that lies in the stack already, and one that is not mapped. -/
theorem test_meets_migr_without_effect :
    (let s := sup (ranged tabled)
     Ex (.migr fMigr) fMigr s ∧ s.wf ∧ s.ctl.migrating 0 0x10000 = false ∧
       Runs (sealedWalk 0 0x10000) s (some (.leaf 0x1087B 0x4080 12)) s ∧ stkOf (leafBase 0x1087B 12) = 0) ∧
    (let s := sup tabled
     Ex (.migr fMigr) fMigr s ∧ s.ctl.migrating 0 0 = false ∧ Runs (sealedWalk 0 0) s (some (.fault 9 1)) s) :=
  ⟨⟨ex_of (by decide), wf_sup _ (wf_setW 4 _ _ (wf_setW 5 _ tabled tabled_wf)), by decide,
    walks_tabled (by decide) (by decide) (by decide), by decide⟩,
    ex_of (by decide), by decide, walks_tabled (by decide) (by decide) (by decide)⟩

/-- The page at 0x10000 and stack 1. -/
def moving : State := sup (setW 4 0x10000 (setW 5 1 tabled))

theorem test_meets_migr :
    (Ex (.migr fMigr) fMigr moving ∧ moving.wf ∧ Runs (sealedWalk 0 0x10000) moving (some (.leaf 0x1087B 0x4080 12)) moving ∧
      entBit 0x1087B 63 = false ∧ entBit 0x1087B 62 = false ∧ stkOf (leafBase 0x1087B 12) ≠ 1) ∧
    replicas (0x4080 - 8 * levelIndex 0x10000 (levelOf 12)) 0x10000 12 = [0x4080] ∧
    Runs (readEntries 0 [0x4080]) moving (.ok [moving.load (dmLoc 0x4080) 8]) moving ∧ moving.ctl.inCache 0 0x4080 = true ∧
    moving.ctl.pages = [] ∧ ∃ p ∈ (moving.ctl.ctx 0).pool, stkOf p.1 = 1 ∧ (Machine.runsIn 12 p).2 ≠ 0 :=
  ⟨⟨ex_of (by decide), wf_sup _ (wf_setW 4 _ _ (wf_setW 5 _ tabled tabled_wf)), walks_tabled (by decide) (by decide) (by decide),
      by decide, by decide, by decide⟩, by decide,
    fun log => ⟨log, by simp [readEntries, bind_run, pure_run, readEntry_at (s := moving) (slot := 0) (at_ := 0x4080) (by decide)]⟩,
    by decide⟩

theorem cellsGet_none {w k : Nat} : ∀ {l : List (Nat × BitVec w)}, (∀ x ∈ l, x.1 ≠ k) → cellsGet k l = 0
  | [], _ => rfl
  | (j, v) :: r, h => by
    rw [cellsGet, if_neg (h (j, v) (by simp))]
    exact cellsGet_none (fun x hx => h x (by simp [hx]))

def migOf : Migr :=
  { id := 5, team := 0, who := .group 0, pid := 0, home := 0, sink := .none, rctx := 0, va := 0x10000, log := 12, leaf := 0x1087B,
    old := 0x10000, new := 2 ^ 38 }

/-- A migration that can end. -/
def ending : State :=
  onCtl (fun c => { c with migrs := [migOf], cached := [4, 8, 12, 16].map (fun t => { tile := t, slot := 0, dirty := true }) }) tabled

theorem test_meets_migration_end :
    ending.wf ∧ ending.ctl.migrs.find? (fun x => x.id == 5) = some migOf ∧ ending.ctl.pageBusy migOf.old (2 ^ 12) = false ∧
    ending.ctl.runResealing migOf.old (2 ^ 12) = false ∧ ending.ctl.runResealing migOf.new (2 ^ 12) = false ∧
    ending.ctl.runFull migOf.new (2 ^ 12) = false ∧ 12 ≤ migOf.log ∧ migOf.log ≤ 42 ∧
    Runs (moveSeals migOf.old migOf.new (2 ^ 12)) (applyAll ending (copyPage ending migOf.old migOf.new (2 ^ 12))) () ending ∧
    ending.ctl.tree = [] ∧
    migOf.old % 2 ^ 12 = 0 ∧ migOf.new % 2 ^ 12 = 0 ∧ migOf.old ≠ migOf.new ∧
    (∀ i, i < 2 ^ 12 → (ending.ctl.sealGroup ((migOf.old + i) / 65536)).major ≠ 0xFFFFFFFFFFFFFFFF) ∧
    (∀ i, i < 2 ^ 12 → ending.dm.get (migOf.new + i) = 0) ∧ ending.mapTable (ending.ctl.ctx 0).root 0x10000 12 = some 0x4000 ∧
    (∀ r ∈ replicas 0x4000 0x10000 12, r % 8 = 0 ∧ ending.ctl.inCache 0 r = true ∧ overlap r 8 migOf.old (2 ^ 12) = false ∧
      overlap r 8 migOf.new (2 ^ 12) = false) := by
  refine ⟨wf_onCtl _ tabled tabled_wf, by decide, by decide, by decide, by decide, by decide, by decide, by decide,
    fun log => ⟨_, rfl⟩, by decide, by decide, by decide, by decide, fun i hi => ?_,
    fun i _ => cellsGet_none (fun x hx => ?_), by decide, by decide⟩
  · rw [show (migOf.old + i) / 65536 = 1 from by simp only [migOf]; omega]
    decide
  · have h : ∀ x ∈ ending.dm.cells, x.1 < 2 ^ 38 := by decide
    have := h x hx
    simp only [migOf]
    omega

theorem test_meets_walks : tabled.wf ∧ tabled.ctl.migrating 0 0x10000 = false ∧
    tabled.walkFor (.core 0 0) 0 0x10000 false = some (true, { rd := false, wr := false, x := true }) ∧
    Runs (sealedWalk 0 0x10000) tabled (some (.leaf 0x1087B 0x4080 12)) tabled ∧ entBit 0x1087B 63 = false ∧ entBit 0x1087B 62 = false ∧
    leafFault (.core 0 0) 0x10000 0x1087B 12 true { rd := false, wr := false, x := true } = none ∧
    Unsealed tabled (tabled.ctl.ctx 0).kslot 0x4080 true tabled :=
  ⟨tabled_wf, by decide, by decide, walks_tabled (by decide) (by decide) (by decide), by decide, by decide, by decide,
    fun log => ⟨log, sealAccess_dirty (by decide) (by decide) (by decide) log⟩⟩

/-- A page request and a translation request on their way. -/
theorem test_meets_host_translations : ∀ p ∈ [true, false],
    let r : AtsReq := { rctx := 0, page := 16, pri := p, failed := false }
    let s := onCtl (fun c => { c with ats := [r] }) machine
    r ∈ s.ctl.ats ∧ r.failed = false ∧ (s.ctl.ats.filter (fun q => q.pri && !q.failed)).length < 512 ∧ s.ctl.entries = [] := by decide

/-- An access that is on the host link already does not hold an invalidation up. -/
theorem test_meets_invalidation :
    let x := entAt .link .read [elAt ⟨.hm, 0x10000⟩ 4]
    x.unserved = true ∧ (queued [x] machine).ctl.entries = [x] ∧ overlap (elAt ⟨.hm, 0x10000⟩ 4).va 4 0x10000 0x1000 = true := by decide

/-! Procedural memory, teams and texels -/

/-- A machine whose group belongs to a generator's team. -/
def generating : State := onTeam (fun t => { t with origin := .fill 3 0 0 0 1 }) machine

def fDone : Fields := ff 0 0 0 0 0 true .none
def fFail : Fields := ff 0 1 0 0 0 true .none
def fPstate : Fields := ff 0 0 0 260 261 true .none

theorem test_meets_fill_ends : generating.wf ∧ (generating.ctl.team 0).fillEnded = false ∧
    Ex (.pfillDone fDone) fDone generating ∧ Ex (.pfillFail fFail) fFail generating ∧
    (Ex (.pstate fPstate) fPstate machine ∧ machine.ctl.blockAt 0 ((en (.pstate fPstate) fPstate machine).usrc 260).toNat = none) :=
  ⟨wf_onTeam _ machine machine_wf, by decide, ex_of (by decide), ex_of (by decide), ex_of (by decide), by decide⟩

def prange : PRange := { num := 0, base := 2 ^ 30, lim := 0, blog := 12, nblk := 4, ghdr := 0x10100, arg := 9, fsa := 0x10000 }

def fillCont (t : Option Nat) : Cont := { id := 3, rctx := 0, die := 0, kind := .fill 0 0 1, hdr := 0x10100, arg := 9, team := t }

/-- s with a procedural range whose fill states lie at 0x10000. -/
def ranging (s : State) : State := onCtx (fun c => { c with ranges := [prange] }) s

theorem wf_ranging (s : State) (h : s.wf) : (ranging s).wf := h

theorem test_meets_pstate : let s := setW 4 (2 ^ 30) (ranging tabled)
    Ex (.pstate fPstate) fPstate s ∧ s.ctl.blockAt 0 (2 ^ 30) = some (prange, 0) ∧ Runs (fillAccess 0 prange 0 false) s .ok s :=
  ⟨ex_of (by decide), by decide, fun log => ⟨log, (fillAccess_at (l := dmLoc 0x10000) log (by decide) (by decide) ⟨0x1087B, 0x4080, 12, by decide⟩).trans (sealAccess_cached (by decide) log)⟩⟩

theorem test_meets_ended_fills :
    let x := entAt .pend (.fin (.fillEnd true 0)) []
    let s := queued [x] (onCtl (fun c => { c with conts := [fillCont (some 0)] })
      (onTeam (fun t => { t with origin := .fill 3 0 0 0 1 }) (ranging tabled)))
    s.wf ∧ s.ctl.entries.find? (fun o => o.id == x.id && o.stage == .pend) = some x ∧ s.ctl.forwards x = none ∧ s.ctl.barred x = false ∧
      s.ctl.teamWrites x = false ∧ (s.ctl.team 0).rctx = 0 ∧ s.ctl.conts.find? (fun y => y.id == 3) = some (fillCont (some 0)) ∧
      s.ctl.range 0 0 = some prange ∧ s.fillLoc 0 prange 0 = some (dmLoc 0x10000) ∧ Runs (fillAccess 0 prange 0 true) s .ok s :=
  ⟨wf_queued _ _ (wf_onCtl _ _ (wf_onTeam _ _ (wf_ranging tabled tabled_wf))), by decide, by decide, by decide, by decide, by decide, by decide,
    by decide, by decide, fun log => ⟨log, (fillAccess_at (l := dmLoc 0x10000) log (by decide) (by decide) ⟨0x1087B, 0x4080, 12, by decide⟩).trans
      (sealAccess_dirty (by decide) (by decide) (by decide) log)⟩⟩

def fPreset : Fields := ff 0 0 261 260 262 true .none

/-- A range of one block, the page at 0x10000, whose fill state lies at 0x11000. -/
def oneBlock : PRange := { num := 0, base := 0x10000, lim := 0, blog := 12, nblk := 1, ghdr := 0x10100, arg := 9, fsa := 0x11000 }

/-- The block is in this fill state. -/
def blockIn (st : Nat) : State :=
  sup (setW 4 0x10000 (setW 5 0x1000 (onCtx (fun c => { c with ranges := [oneBlock] })
    (onCtl (fun c => { c with cached := { tile := 68, slot := 0, dirty := true } :: c.cached })
      (applyAll tabled (updBytes (dmLoc 0x4088) [0x7B, 0x18, 1] ++ updBytes (dmLoc 0x11000) [BitVec.ofNat 8 st]))))))

theorem blockIn_wf (st : Nat) : (blockIn st).wf :=
  wf_sup _ (wf_setW 4 _ _ (wf_setW 5 _ _ (wf_onCtx _ _ (wf_onCtl _ _
    (wf_updAll (updBytes (dmLoc 0x4088) [0x7B, 0x18, 1] ++ updBytes (dmLoc 0x11000) [BitVec.ofNat 8 st]) tabled tabled_wf)))))

/-- An EMPTY block and a FULL one. -/
theorem test_meets_preset : (∀ st ∈ [0, 2],
    Ex (.preset fPreset) fPreset (blockIn st) ∧ (blockIn st).ctl.blocksIn 0 0x10000 0x1000 = [(oneBlock, 0)] ∧
      (en (.preset fPreset) fPreset (blockIn st)).p.prog = none ∧ (blockIn st).fillLoc 0 oneBlock 0 = some (dmLoc 0x11000) ∧
      Runs (forMap [(oneBlock, 0)] (fun x => fillAccess 0 x.1 x.2 false)) (blockIn st) [Sealed.ok] (blockIn st) ∧
      (blockIn st).fillState 0 oneBlock 0 = st) ∧
    (blockIn 2).blockWaits 0 oneBlock 0 = false ∧ (blockIn 2).blockTiles 0 oneBlock 0 = [(64, 4)] ∧
    ((blockIn 2).ctl.sealGroup (groupOfTile 64)).major = 0 ∧ ((blockIn 2).ctl.sealGroup (groupOfTile 67)).major = 0 ∧ (blockIn 2).ctl.tree = [] ∧
    overlap 0x11000 1 (64 * 1024) (4 * 1024) = false := by
  refine ⟨fun st h => ?_, by decide⟩
  simp only [List.mem_cons, List.not_mem_nil, or_false] at h
  have go : ∀ n, (blockIn n).readable 0 0x11000 = true → (blockIn n).fillLoc 0 oneBlock 0 = some (dmLoc 0x11000) →
      (∃ e at_ lg, (blockIn n).walk ((blockIn n).ctl.ctx 0).root 0x11000 = .leaf e at_ lg) → (blockIn n).ctl.inCache 0 0x11000 = true →
      Runs (forMap [(oneBlock, 0)] (fun x => fillAccess 0 x.1 x.2 false)) (blockIn n) [Sealed.ok] (blockIn n) := fun n h1 h2 h3 h4 log =>
    ⟨log, by simp [forMap, bind_run, pure_run, (fillAccess_at (w := false) log h1 h2 h3).trans (sealAccess_cached h4 log)]⟩
  rcases h with rfl | rfl <;>
    exact ⟨ex_of (by decide), by decide, by decide, by decide, go _ (by decide) (by decide) ⟨0x1187B, 0x4088, 12, by decide⟩ (by decide), by decide⟩

/-- A machine with a second spill segment, and a team that waits to start. -/
def claimed : Team := { placeTeam with uid := 1, phase := .claimed, groups := [], frame := [7] }

theorem test_meets_team_start :
    let s := onCtl (fun c => { c with teams := c.teams ++ [claimed] }) (onCtx (fun c => { c with nseg := 2 }) machine)
    s.wf ∧ s.ctl.teams.find? (fun t => t.uid == 1 && t.phase == .claimed) = some claimed ∧ s.ctl.host.pstate = 0 ∧
      s.ctl.roomFor 0 0 0 claimed.hdr = true ∧ (claimed.hdr.groupRoles[0]?).isSome = true :=
  ⟨wf_onCtl _ _ (wf_onCtx _ machine machine_wf), by decide, by decide, by decide, by decide⟩

def aRec : Rec :=
  { id := 2, rctx := 0, hdr := placeHeader, frame := [7], join := none, waitj := none, ixcount := 3, ixbase := 1, prio := 0, ins := [],
    outs := [], eligible := true, eligAt := 0, waitAt := 0, claimed := 0, retired := 0 }

theorem test_meets_claims :
    let s := onCtx (fun c => { c with nseg := 2, recs := [aRec] }) machine
    ((s.ctl.ctxs.map (·.recs)).flatten).find? (fun q => q.id == 2) = some aRec ∧ (∀ t ∈ s.ctl.teams, t.phase ≠ .claimed) ∧
      s.mayClaim 0 0 (.grid 0 2) = true ∧ min (Ctl.startable 0 0 0 aRec.hdr 64 s.ctl) (aRec.ixcount - aRec.claimed) = 1 := by decide

/-- A launch header at 0x10100: one role, one group. -/
def headed : State :=
  onCtl (fun c => { c with conts := [fillCont none], host := { c.host with nresNow := 1 } })
    (ranging (applyAll tabled (updBytes (dmLoc 0x4081) [9] ++ updBytes (dmLoc 0x1014A) [1])))

theorem headed_wf : headed.wf :=
  wf_onCtl _ _ (wf_ranging _ (wf_updAll (updBytes (dmLoc 0x4081) [9] ++ updBytes (dmLoc 0x1014A) [1]) tabled tabled_wf))

def headerWords : List Word := [0, 0, 0, 0, 0, 0, 0, 0, 0, 0x10000, 0, 0, 0, 0, 0, 0]

/-- The doublewords of a line. -/
def lineOf (s : State) (a : Nat) : List Word := (List.range 8).map (fun i => wd (s.load ((dmLoc a).plus (8 * i)) 8))

/-- A line of the page at 0x10000, whose leaf has A set, is reached at once. -/
abbrev LineReady (s : State) (a : Nat) : Prop :=
  s.readable 0 a = true ∧ s.walk (s.ctl.ctx 0).root a = .leaf 0x1097B 0x4080 12 ∧ a / 4096 = 16 ∧ s.ctl.inCache (s.ctl.ctx 0).kslot a = true ∧
    s.ctl.placeStalled 0 (dmLoc a) = false ∧ leafFault (.copy 0 0 0) a 0x1097B 12 false { rd := true, wr := false, x := false } = none

theorem line_at {s : State} {a : Nat} (h : LineReady s a) (log : List Upd) :
    deviceReach 0 0 a { rd := true, wr := false, x := false } { st := s, log := log } = (.ok (dmLoc a), { st := s, log := log }) := by
  obtain ⟨h1, h2, h3, h4, h5, hf⟩ := h
  have e : leafBase 0x1097B 12 + a % 2 ^ 12 = a := by
    rw [show leafBase 0x1097B 12 = 0x10000 from by decide]
    omega
  have := deviceReach_cached (die := 0) log h1 h2 hf (by decide) (by decide) (by decide) (by rw [e]; exact h4) (by rw [e]; exact h5)
  rwa [e] at this

/-- A descriptor's line, and a header's two. -/
theorem reads_line {s : State} {a : Nat} {ws : List Word} (h : LineReady s a) (hw : lineOf s a ++ [] = ws) :
    Runs (readWords 0 0 a 1) s (some (some ws)) s := fun log => ⟨log, hw ▸ readWords_step log (line_at h log) rfl⟩

theorem reads_header {s : State} {ws : List Word} (h : LineReady s 0x10100) (h2 : LineReady s 0x10140)
    (hw : lineOf s 0x10100 ++ (lineOf s 0x10140 ++ []) = ws) : Runs (readWords 0 0 0x10100 2) s (some (some ws)) s := fun log =>
  ⟨log, hw ▸ readWords_step log (line_at h log) (readWords_step log (line_at h2 log) rfl)⟩

theorem test_meets_generator_start : headed.wf ∧ headed.ctl.conts.find? (fun x => x.id == 3 && x.team.isNone) = some (fillCont none) ∧
    headed.ctl.range 0 0 = some prange ∧ Runs (readWords 0 0 0x10100 2) headed (some (some headerWords)) headed ∧ hdrStatus headerWords 1 = 0 ∧
    (headerOf headerWords).fitsUnit = true ∧ headed.ctl.host.pstate = 0 ∧ headed.ctl.coreFits 0 1 (headerOf headerWords) = true ∧
    headed.ctl.resvFits 0 (headerOf headerWords) ≠ [] ∧ headed.ctl.freeSegs 0 0 true ≠ [] :=
  ⟨headed_wf, by decide, by decide, reads_header (by decide) (by decide) (by decide), by decide, by decide, by decide, by decide, by decide, by decide⟩

/-- A header that is no launch header, and a fill state that can be written. -/
theorem test_meets_generator_fails : let s := onCtl (fun c => { c with conts := [fillCont none] }) (applyAll headed (updBytes (dmLoc 0x1014A) [0]))
    Runs (readWords 0 0 0x10100 2) s (some (some (List.replicate 16 0))) s ∧ hdrStatus (List.replicate 16 0) 1 ≠ 0 ∧
    Runs (fillAccess 0 prange 0 true) s .ok s :=
  ⟨reads_header (by decide) (by decide) (by decide), by decide, fun log => ⟨log, (fillAccess_at (l := dmLoc 0x10000) log (by decide) (by decide) ⟨0x1097B, 0x4080, 12, by decide⟩).trans
    (sealAccess_dirty (by decide) (by decide) (by decide) log)⟩⟩

/-- A surface descriptor at 0x10000: one level of 8 by 8 texels, shaded by the header at 0x10100. -/
def surfaced : State := applyAll headed (updBytes (dmLoc 0x10000) [0, 1, 1] ++ updBytes (dmLoc 0x10010) [7, 0x70, 0, 1])

theorem surfaced_wf : surfaced.wf :=
  wf_updAll (updBytes (dmLoc 0x10000) [0, 1, 1] ++ updBytes (dmLoc 0x10010) [7, 0x70, 0, 1]) headed headed_wf

def surfWords : List Word := [0x10100, 0, 0x1007007, 0, 0, 0, 0, 0]

def surf : Surface := { shdr := 0x10100, arg := 0, levels := 1, w := 8, h := 8 }

def shadeCont (t : Option Nat) : Cont := { id := 3, rctx := 0, die := 0, kind := .shade 0 0x10000 0, hdr := 0x10100, arg := 0, team := t }

/-- A continuation reads what touches no block. -/
theorem cont_reads {s : State} {k : Cont} {a n : Nat} {ws : Option (List Word)} (hk : k.die = 0 ∧ k.rctx = 0) (h1 : a % 64 = 0)
    (h2 : s.ctl.touches { (default : Team) with rctx := k.rctx } ((List.range n).map (fun i => a + 64 * i)) = [])
    (h : Runs (readWords 0 0 a n) s (some ws) s) : Runs (contWords k a n) s (some ws) s := fun log => by
  obtain ⟨l, hl⟩ := h log
  refine ⟨l, ?_⟩
  rw [contWords_untouched h1 h2, hk.1, hk.2]
  exact hl

/-- A block to shade, and one whose header is none. -/
theorem test_meets_shading_start :
    (let s := onCtl (fun c => { c with conts := [shadeCont none] }) surfaced
     s.ctl.conts.find? (fun x => x.id == 3 && x.team.isNone) = some (shadeCont none) ∧
       Runs (contWords (shadeCont none) 0x10000 1) s (some (some surfWords)) s ∧ surfaceOf surfWords = some surf ∧
       Runs (contWords (shadeCont none) 0x10100 2) s (some (some headerWords)) s ∧ s.ctl.coreFits 0 1 (headerOf headerWords) = true ∧
       s.ctl.freeSegs 0 0 true ≠ []) ∧
    (let s := onCtl (fun c => { c with conts := [shadeCont none] }) (applyAll surfaced (updBytes (dmLoc 0x1014A) [0]))
     Runs (contWords (shadeCont none) 0x10000 1) s (some (some surfWords)) s ∧
       Runs (contWords (shadeCont none) 0x10100 2) s (some (some (List.replicate 16 0))) s ∧ hdrStatus (List.replicate 16 0) 1 ≠ 0) :=
  ⟨⟨by decide, cont_reads ⟨rfl, rfl⟩ (by decide) (by decide) (reads_line (by decide) (by decide)), by decide,
      cont_reads ⟨rfl, rfl⟩ (by decide) (by decide) (reads_header (by decide) (by decide) (by decide)), by decide, by decide⟩,
    cont_reads ⟨rfl, rfl⟩ (by decide) (by decide) (reads_line (by decide) (by decide)),
    cont_reads ⟨rfl, rfl⟩ (by decide) (by decide) (reads_header (by decide) (by decide) (by decide)), by decide⟩

def fTexq : Fields := ff 0 0 1 260 5 false .none
def fTexqInv : Fields := ff 0 0 0 260 0 true .none
def fTexs : Fields := ff 0 3 4 260 6 false .none

/-- The cache of cluster 0 with block 0 of the surface. -/
def texBlk (bs : Option (List Byte)) : TexBlock := { cluster := 0, rctx := 0, desc := 0x10000, key := 0, cont := 3, bytes := bs }

def textured : State := setW 4 0x10000 (onCtl (fun c => { c with tex := [texBlk (some (List.replicate 512 0))] }) surfaced)

theorem textured_wf : textured.wf := wf_setW 4 0x10000 _ (wf_onCtl _ surfaced surfaced_wf)


/-- The descriptor of the surface is read at once. -/
theorem surface_at (e : Env) (s : State) (os : List (Nat × Loc)) (hl : (os.head?.map (·.2)).getD (dmLoc 0) = dmLoc 0x10000) (h1 : (e.usrc e.f.sa.toNat).toNat = 0x10000) (h2 : e.t.origin = .grid 0)
    (h3 : ∀ log, e.reachLanes (e.serves.map (fun l => (l, 0x10000))) { rd := true, wr := false, x := false } { st := s, log := log } =
      (.ok os, { st := s, log := log }))
    (h4 : s.ctl.touches e.t ((e.serves.map (fun l => (l, 0x10000))).map (·.2)) = []) (h5 : s.ctl.busyAt e.uid e.g.who (dmLoc 0x10000) 64 = false)
    (h6 : s.ctl.inCache (s.ctl.ctx e.t.rctx).kslot 0x10000 = true) (h7 : s.ctl.placeStalled e.t.die (dmLoc 0x10000) = false)
    (h8 : surfaceOf ((List.range 8).map (fun i => wd (s.load ((dmLoc 0x10000).plus (8 * i)) 8))) = some surf) :
    Runs e.surface s (.ok (0x10000, surf)) s := by
  intro log
  have h := spatRecord_dev (e := e) (a := 0x10000) (s := s) (os := os) (l := dmLoc 0x10000) (by decide) h3 h4 hl rfl h5 h6 h7 log
  refine ⟨log, ?_⟩
  simp [Env.surface, h1, h2, bind_run, h, h8, pure_run]

/-- A cache whose one entry is the block asked for stays as it is. -/
theorem requestBlock_only {s : State} {b : TexBlock} {d : Nat} {sf : Surface} (h1 : s.ctl.tex = [b])
    (h2 : b.is b.cluster b.rctx b.desc b.key = true) (log : List Upd) :
    requestBlock d b.cluster b.rctx b.desc b.key sf { st := s, log := log } =
      (.ok (if b.bytes.isSome then 0 else 1), { st := s, log := .ctl s.ctl :: log }) := by
  have h3 : s.ctl.texBlock b.cluster b.rctx b.desc b.key = some b := by
    simp [Ctl.texBlock, h1]
  have h4 : ({ s.ctl with tex := s.ctl.tex.filter (fun x => !x.is b.cluster b.rctx b.desc b.key) ++ [b] } : Ctl) = s.ctl := by
    rw [h1]
    simp only [List.filter_cons, h2, Bool.not_true, List.filter_nil]
    rw [← h1]
    rfl
  simp only [requestBlock, bind_run, getC_run, h3, modC_run, pure_run]
  rw [h4]

theorem requestAll_only {s : State} {b : TexBlock} {d : Nat} {sf : Surface} (h1 : s.ctl.tex = [b])
    (h2 : b.is b.cluster b.rctx b.desc b.key = true) (n : Nat) :
    Runs (requestAll d b.cluster b.rctx b.desc sf (List.replicate n b.key)) s
      (.ok (List.replicate n (b.key, if b.bytes.isSome then 0 else 1))) s := by
  induction n with
  | zero => exact fun log => ⟨log, rfl⟩
  | succ n ih =>
    intro log
    obtain ⟨log1, h⟩ := ih (.ctl s.ctl :: log)
    refine ⟨log1, ?_⟩
    simp only [List.replicate_succ, requestAll, bind_run, requestBlock_only h1 h2, h, pure_run]

abbrev texB : TexBlock := texBlk (some (List.replicate 512 0))

theorem test_meets_texs_surface : Runs (en (.texs fTexs) fTexs textured).surface (running textured (.texs fTexs)) (.ok (0x10000, surf))
    (running textured (.texs fTexs)) :=
  surface_at (en (.texs fTexs) fTexs textured) (running textured (.texs fTexs)) all16 (by decide) (by decide) (by decide) (fun log => rfl) (by decide) (by decide)
    (by decide) (by decide) (by decide)

theorem test_meets_texs :
    (let e := en (.texs fTexs) fTexs textured
     Ex (.texs fTexs) fTexs textured ∧ e.ex ≠ 0 ∧ (∀ l ∈ lanesOf e.ex e.gw, e.n32 fTexs.sc.toNat l < surf.levels) ∧
       (((lanesOf e.ex e.gw).map (fun l => (e.taps surf l).2.map (fun x => blockKey 0 (e.taps surf l).1 (x.2.1 / 8) (x.1 / 8)))).flatten).dedup = [0]) ∧
    Runs (requestAll 0 0 0 0x10000 surf [0]) (running textured (.texs fTexs)) (.ok [(0, 0)]) (running textured (.texs fTexs)) ∧
    textured.ctl.texState 0 0 0x10000 0 = 0 ∧ textured.wf :=
  ⟨⟨ex_of (by decide), by decide, by decide, by decide⟩,
    requestAll_only (s := running textured (.texs fTexs)) (b := texB) (d := 0) (sf := surf) rfl (by decide) 1, by decide, textured_wf⟩

theorem test_meets_texq_surface : Runs (en (.texq fTexq) fTexq textured).surface (running textured (.texq fTexq)) (.ok (0x10000, surf))
    (running textured (.texq fTexq)) :=
  surface_at (en (.texq fTexq) fTexq textured) (running textured (.texq fTexq)) all16 (by decide) (by decide) (by decide) (fun log => rfl) (by decide) (by decide)
    (by decide) (by decide) (by decide)

theorem test_meets_texq_inv_surface : Runs (en (.texqInv fTexqInv) fTexqInv textured).surface (running textured (.texqInv fTexqInv)) (.ok (0x10000, surf))
    (running textured (.texqInv fTexqInv)) :=
  surface_at (en (.texqInv fTexqInv) fTexqInv textured) (running textured (.texqInv fTexqInv)) [(0, dmLoc 0x10000)] (by decide) (by decide) (by decide) (fun log => rfl) (by decide) (by decide)
    (by decide) (by decide) (by decide)

/-- Every lane asks for block 0, the lanes before lane 3 among them; a key of level 1 lies outside. -/
theorem test_meets_texq :
    (let e := en (.texq fTexq) fTexq textured
     Ex (.texq fTexq) fTexq textured ∧ e.ex ≠ 0 ∧ (lanesOf e.ex e.gw).filterMap (e.texKey surf) = List.replicate 16 0 ∧
       ((lanesOf e.ex e.gw).filter (· < 3)).filterMap (e.texKey surf) = List.replicate 3 0) ∧
    Runs (requestAll 0 0 0 0x10000 surf (List.replicate 3 0)) (running textured (.texq fTexq)) (.ok (List.replicate 3 (0, 0)))
      (running textured (.texq fTexq)) ∧
    Runs (requestAll 0 0 0 0x10000 surf (List.replicate 16 0)) (running textured (.texq fTexq)) (.ok (List.replicate 16 (0, 0)))
      (running textured (.texq fTexq)) ∧
    (let e := en (.texq fTexq) fTexq (setV 1 0x40000 textured)
     ∀ l ∈ lanesOf e.ex e.gw, e.texKey surf l = none) ∧
    Ex (.texqInv fTexqInv) fTexqInv textured ∧
    (∀ b ∈ textured.ctl.tex, b.rctx = 0 → b.desc = 0x10000 → b.bytes.isSome = true) :=
  ⟨⟨ex_of (by decide), by decide, by decide, by decide⟩,
    requestAll_only (s := running textured (.texq fTexq)) (b := texB) (d := 0) (sf := surf) rfl (by decide) 3,
    requestAll_only (s := running textured (.texq fTexq)) (b := texB) (d := 0) (sf := surf) rfl (by decide) 16, by decide, ex_of (by decide),
    by decide⟩

def fTexw : Fields := ff 1 262 261 260 0 true .none

/-- A shading team's own block, PENDING. -/
def shading : State :=
  onCtl (fun c => { c with tex := [texBlk none] }) (setW 4 0x10000 (onTeam (fun t => { t with origin := .shade 3 0 0x10000 0 }) machine))

/-- A job of group 0 that reads n bytes of team memory. -/
def readOf (kind : JobKind) (n : Nat) : Job := { copyOf n with kind := kind, dsp := 0, dst := 0, src := 0, accepted := true }

/-- Its bytes, all zero, are reached at once. -/
theorem readSource_zero (j : Job) (n : Nat) (s : State) (hk : ∀ i, i < n → j.srcAt i = some (1, i))
    (hc : ∀ i, i < n → classify (s.ctl.withFreed (j.checkedAt false false)) (s.ctl.team j.team) 1 i 1 = .data (tmLoc 0 i)) (he : s.ctl.entries = [])
    (hj : s.ctl.jobs = [j]) (hb : j.earlyJobs = []) (hz : ∀ i, i < n → (s.mem .tm).get i = 0) :
    Runs (readSource j n) s (some (List.replicate n 0)) s := by
  intro log
  have h1 : (List.range n).filterMap j.srcAt = (List.range n).map (fun i => (1, i)) := by
    rw [← List.filterMap_eq_map]
    exact List.filterMap_congr (fun i hi => hk i (List.mem_range.mp hi))
  have h2 := jobReachAll_at (j := j) (w := false) (tb := false) (s := s) (fun x => tmLoc 0 x.2) ((List.range n).map (fun i => (1, i))) (by
    intro x hx log
    obtain ⟨i, hi, rfl⟩ := List.mem_map.mp hx
    simp [jobReach, bind_run, getS_run, pure_run, hc i (List.mem_range.mp hi), State.jobBehind, Ctl.entryBehind, he, hb, hj]) log
  refine ⟨log, ?_⟩
  simp only [readSource, bind_run, h1, h2, getS_run, pure_run]
  refine Prod.ext (congrArg some ?_) rfl
  rw [List.map_map, List.map_map]
  refine List.eq_replicate_iff.mpr ⟨by simp, ?_⟩
  intro b hb
  obtain ⟨i, hi, rfl⟩ := List.mem_map.mp hb
  have := hz i (List.mem_range.mp hi)
  simpa [tmLoc, Function.comp] using this

theorem tm_zero (i : Nat) : (machine.mem .tm).get i = 0 := rfl

theorem tm_class (i : Nat) (c : Ctl) (t : Team) (hi : i < 0x1000) (ht : t.uid = 0) (hm : t.hdr.tmem = 16) :
    classify c t 1 i 1 = .data (tmLoc 0 i) := by
  have : i + 1 ≤ 4096 := hi
  simp [classify, windowCls, hm, ht, this]

/-- A machine that reads a texel block. -/
def shaded (j : Job) : State := onCtl (fun c => { c with tex := [texBlk none] }) (working [j] machine)

theorem test_meets_texw :
    (let e := en (.texw fTexw) fTexw shading
     Ex (.texw fTexw) fTexw shading ∧ e.t.origin = .shade 3 0 0x10000 0 ∧ e.s.ctl.texBlock 0 0 0x10000 0 = some (texBlk none) ∧
       e.notData 1 0 512 = none) ∧
    (let j := readOf (.texw 0 0x10000 0) 512
     (shaded j).ctl.theJob j.id j ∧ j.accepted = true ∧ j.err = none ∧ (shaded j).ctl.texBlock 0 0 0x10000 0 = some (texBlk none)) :=
  ⟨⟨ex_of (by decide), by decide, by decide, by decide⟩, by decide, rfl, rfl, by decide⟩

theorem readOf_src (k : JobKind) (n i : Nat) (hk : k = .texw 0 0x10000 0 ∨ k = .matld 2 1) (hi : i < 2 ^ 32) :
    (readOf k n).srcAt i = some (1, i) := by
  rcases hk with rfl | rfl <;> simp [readOf, Job.srcAt, copyOf, wrapSp] <;> omega

theorem test_meets_texw_read : Runs (readSource (readOf (.texw 0 0x10000 0) 512) 512) (shaded (readOf (.texw 0 0x10000 0) 512))
    (some (List.replicate 512 0)) (shaded (readOf (.texw 0 0x10000 0) 512)) :=
  readSource_zero _ 512 _ (fun i hi => readOf_src _ 512 i (.inl rfl) (by omega)) (fun i hi => tm_class i _ _ (by omega) rfl rfl) rfl rfl rfl
    (fun i _ => tm_zero i)

def fMatld : Fields := ff 0 2 261 260 0 true .none
def fVrate : Fields := ff 0 1 0 0 261 true .none
def fMatev : Fields := { ff 1 0 328 260 0 false (.ext (0x200000000 + 0x28944)) with km := 1 }

/-- A material of the context in slot 2. -/
def material : Material := { cluster := 0, m := 2, rctx := 0, load := 5, layers := none }

theorem test_meets_materials :
    Ex (.vrate fVrate) fVrate machine ∧
    (let s := setW 5 1 machine
     Ex (.matld fMatld) fMatld s ∧ ((en (.matld fMatld) fMatld s).usrc 261).toNat % 2 ^ 32 = 1) ∧
    (let s := applyUpd (onCtl (fun c => { c with mats := [material] }) machine) (.reg64 .k (kKey 0 0 1) 1)
     let e := en (.matev fMatev) fMatev s
     Ex (.matev fMatev) fMatev s ∧ e.ex ≠ 0 ∧ s.ctl.material e.t.cluster (fMatev.imm32b % 16) = some material ∧ material.rctx = e.t.rctx ∧
       e.fixedOut (e.evalLanes.map (fun x => (1, wrapSp 1 ((64 * x.1 + x.2.1) * 8), 8 * (x.2.2.1 + 1 - x.2.1)))) = none ∧
       (e.evalLanes.map (fun x => 8 * (x.2.2.1 + 1 - x.2.1))).sum ≠ 0 ∧
       (match e.completion with
        | .ok _ => true
        | .error _ => false) = true) :=
  ⟨ex_of (by decide), ⟨ex_of (by decide), by decide⟩, ex_of (by decide), by decide, by decide, by decide, by decide, by decide, by decide⟩

def loading : State := onCtl (fun c => { c with mats := [material] }) (working [readOf (.matld 2 1) 2048] machine)

theorem badEntry_zero (tab : List (List Word)) (h : ∀ r ∈ tab, ∀ w ∈ r, w = 0) : badEntry tab = none := by
  simp only [badEntry, List.find?_eq_none]
  intro i _
  have hz : ∀ x ∈ (tab.flatten.map (fun w => (List.range 4).map (chanOf w))).flatten, x = 0 := by
    intro x hx
    obtain ⟨l, hl, hx⟩ := List.mem_flatten.mp hx
    obtain ⟨w, hw, rfl⟩ := List.mem_map.mp hl
    obtain ⟨r, hr, hw⟩ := List.mem_flatten.mp hw
    rw [h r hr w hw] at hx
    obtain ⟨c, hc, rfl⟩ := List.mem_map.mp hx
    have hc : c < 4 := List.mem_range.mp hc
    interval_cases c <;> rfl
  have hg : ((tab.flatten.map (fun w => (List.range 4).map (chanOf w))).flatten).getD i 0 = 0 := by
    generalize (tab.flatten.map (fun w => (List.range 4).map (chanOf w))).flatten = xs at hz
    rw [List.getD_eq_getElem?_getD]
    cases hx : xs[i]? with
    | none => rfl
    | some y => exact hz y (List.mem_of_getElem? hx)
  rw [hg]
  decide

theorem ofBytes_zero (n : Nat) : ofBytes (List.replicate n 0) = 0 := by
  induction n with
  | zero => rfl
  | succ n ih =>
    show (0 : Byte).toNat + 256 * ofBytes (List.replicate n 0) = 0
    rw [ih]
    rfl

theorem test_meets_material_load :
    (let j := readOf (.matld 2 1) 2048
     loading.ctl.theJob j.id j ∧ j.accepted = true ∧ j.err = none ∧ (loading.ctl.evalQueue j.die j.cluster).head? = some j ∧
       material ∈ loading.ctl.mats) ∧
    Runs (readSource (readOf (.matld 2 1) 2048) 2048) loading (some (List.replicate 2048 0)) loading ∧
    badEntry (tableOf 1 (List.replicate 2048 0)) = none :=
  ⟨by decide, readSource_zero _ 2048 _ (fun i hi => readOf_src _ 2048 i (.inr rfl) (by omega)) (fun i hi => tm_class i _ _ (by omega) rfl rfl)
    rfl rfl rfl (fun i _ => tm_zero i), badEntry_zero _ (by
      intro r hr w hw
      obtain ⟨l, _, rfl⟩ := List.mem_map.mp hr
      obtain ⟨i, _, rfl⟩ := List.mem_map.mp hw
      rw [List.drop_replicate, List.take_replicate, ofBytes_zero]
      rfl)⟩

/-! Helpers, messages and the matrix engines -/

def fRecruit : Fields := ff 0 324 2 1 3 false (.ext 166212)

/-- Lane 0 of the group alone executes; seven lanes are lendable. -/
def recruiting : State := onPath (fun p => { p with act := 0x1FF }) (applyUpd machine (.reg64 .k (kKey 0 0 1) 1))

def fRecruitK : Fields := { fRecruit with km := 1 }

theorem test_meets_recruit :
    (let e := en (.recruit fRecruitK) fRecruitK recruiting
     Ex (.recruit fRecruitK) fRecruitK recruiting ∧ recruiting.wf ∧ popc e.ex = 1 ∧ e.g.who.idx < 64 ∧ (∀ d ∈ e.t.groups, d.who.idx < 64) ∧
       e.hst = 0 ∧ e.ownLendable.length = 7) ∧
    (let s := onGroup (fun g => { g with recruit := some 7 }) recruiting
     let e := en (.recruit fRecruitK) fRecruitK s
     Ex (.recruit fRecruitK) fRecruitK s ∧ popc e.ex = 1 ∧ e.hst ≠ 0) :=
  ⟨⟨ex_of (by decide), wf_onPath _ _ (wf_upd machine _ machine_wf), by decide⟩, ex_of (by decide), by decide⟩

/-- A recruitment of lane 0 with its helper 0, which holds iteration 4. -/
def recr (hi : Nat) : Recruit :=
  { id := 5, team := 0, group := 0, lane := 0, pid := 0, act := 0xFFFF, fmt := 0, entry := 0x10000, lo := 4, hi := hi, next := 5,
    returned := [], committed := [], aborted := [], lanes := [{ group := 0, lane := 0, pid := 0, iter := some 4 }], pending := [],
    contribs := [], ops := [], fault := none, hk := [], suspended := false, trapped := false, freed := [] }

/-- Helper 0 executes. -/
def helping (x : Recruit) : State :=
  onCtl (fun c => { c with recruits := [x] })
    (onGroup (fun g => { g with recruit := some 5 }) (onPath (fun p => { p with act := 1, helper := some 5 }) machine))

theorem helping_wf (x : Recruit) : (helping x).wf := wf_onCtl _ _ (wf_onGroup _ _ (wf_onPath _ machine machine_wf))

def fHget : Fields := ff 0 0 0 1 2 false .none
def fHnext : Fields := ff 0 0 0 0 2 false .none
def fHred : Fields := ff 0 1 0 2 0 false .none
def fHquit : Fields := ff 0 0 0 0 0 false .none
def fHjoin : Fields := ff 0 1 0 0 4 false .none

theorem test_meets_helpers :
    (let e := en (.hget fHget) fHget (helping (recr 8))
     Ex (.hget fHget) fHget (helping (recr 8)) ∧ e.rec? = some (recr 8) ∧ e.recruiterWaits (recr 8) 1 1 = false) ∧
    (let e := en (.hnext fHnext) fHnext (helping (recr 8))
     let y := (recr 8).commitLanes path0 [0]
     Ex (.hnext fHnext) fHnext (helping (recr 8)) ∧ e.rec? = some (recr 8) ∧ lanesOf e.ex e.gw = [0] ∧ y.returned = [] ∧
       e.s.ctl.helperBusy e.uid y.freed = false ∧ y.next + 1 ≤ y.hi ∧ y.next + 1 ≤ y.lowest + 257) ∧
    (let y := (recr 5).commitLanes path0 [0]
     Ex (.hnext fHnext) fHnext (helping (recr 5)) ∧ y.returned = [] ∧ y.hi ≤ y.next) ∧
    (let e := en (.hred fHred) fHred (helping (recr 8))
     Ex (.hred fHred) fHred (helping (recr 8)) ∧ e.rec? = some (recr 8) ∧ lanesOf e.ex e.gw = [0] ∧ (recr 8).held path0 0 = some 4 ∧
       (recr 8).opOf 4 (scfld fHred 1 0) = none) :=
  ⟨⟨ex_of (by decide), by decide, by decide⟩, ⟨ex_of (by decide), by decide⟩, ⟨ex_of (by decide), by decide⟩, ex_of (by decide), by decide⟩

/-- A helper lane of another group of the team quits: all of its path, and one of two lanes. -/
def quitting (act : Word) : State :=
  onCtl (fun c => { c with recruits := [{ recr 8 with group := 1, lanes := [{ group := 0, lane := 0, pid := 0, iter := none }] }] })
    (onTeam (fun t => { t with groups := t.groups ++ t.groups.map (fun g => { g with who := .group 1, recruit := some 5 }) })
      (onPath (fun p => { p with act := act, helper := some 5 }) (applyUpd machine (.reg64 .k (kKey 0 0 1) 1))))

def fHquitK : Fields := { fHquit with km := 1 }

theorem test_meets_hquit :
    (let e := en (.hquit fHquit) fHquit (quitting 1)
     Ex (.hquit fHquit) fHquit (quitting 1) ∧ (e.rec?).isSome = true ∧ e.g.who.idx ≠ 1 ∧ e.p.act &&& ~~~(maskOf (lanesOf e.ex e.gw)) = 0) ∧
    (let e := en (.hquit fHquitK) fHquitK (quitting 3)
     Ex (.hquit fHquitK) fHquitK (quitting 3) ∧ (e.rec?).isSome = true ∧ e.p.act &&& ~~~(maskOf (lanesOf e.ex e.gw)) ≠ 0) :=
  ⟨⟨ex_of (by decide), by decide⟩, ex_of (by decide), by decide⟩

theorem test_meets_hjoin :
    let e := en (.hjoin fHjoin) fHjoin (helping (recr 5))
    Ex (.hjoin fHjoin) fHjoin (helping (recr 5)) ∧ (helping (recr 5)).wf ∧ e.rec? = some (recr 5) ∧ (recr 5).group = e.g.who.idx ∧
      (recr 5).pid = e.p.pid ∧ lanesOf e.ex e.gw = [(recr 5).lane] ∧ (recr 5).lanes.length ≤ 1 ∧ (recr 5).returned = [] ∧
      e.recruiterWaits (recr 5) fHjoin.dst.toNat (scfld fHjoin 2 0) = false ∧ (recr 5).fault = none :=
  ⟨ex_of (by decide), helping_wf _, by decide⟩

/-- A recruitment of group 1 that has lanes 0 and 1 of group 0. -/
def lent : Recruit :=
  { recr 8 with group := 1, lanes := [{ group := 1, lane := 0, pid := 0, iter := none }, { group := 0, lane := 0, pid := 1, iter := some 6 },
                                      { group := 0, lane := 1, pid := 1, iter := none }] }

theorem test_meets_release :
    (let s := onCtl (fun c => { c with recruits := [lent] }) machine
     let d := (s.ctl.team 0).party (.group 0)
     s.ctl.recruits.filter (fun q => q.team == 0) = [lent] ∧ (∀ q ∈ s.ctl.recruits, q.id = lent.id → q = lent) ∧ s.ctl.hasTeam 0 = true ∧
       (∃ p ∈ d.live, p.park = none) ∧ lent.group ≠ 0 ∧
       lent.lanes.filter (fun h => h.group == 0 && (3 : Word).getLsbD h.lane && !(lent.group == 0 && h.lane == lent.lane)) ≠ [] ∧
       (∀ p ∈ d.paths, s.midChain (s.ctl.team 0) p = false) ∧
       s.ctl.helperBusy 0 (lent.lanes.filter (fun h => h.group == 0 && (3 : Word).getLsbD h.lane && !(lent.group == 0 && h.lane == lent.lane))) = false) := by
  decide

/-- A wait that goes on. -/
def parked : Park :=
  { kind := .counter 0 5, obj := 0, ex := 1, since := 0, released := false, doom := none, warned := false, reported := false, cur := curOf (.nop (ff 0 0 0 0 0 false .none)) }

theorem test_meets_release_waits :
    let s := onPath (fun p => { p with park := some parked }) machine
    (s.ctl.team 0).phase ≠ .saving ∧ s.ctl.hasTeam 0 = true ∧
      ∀ p ∈ ((s.ctl.team 0).party (.group 0)).live, p.park = some parked ∧ parked.doom = none ∧
        s.parkMet { team := 0, who := .group 0, pid := p.pid } parked = false := by decide

def fMsend (m : Nat) : Fields := ff m 0 264 260 0 true .none

/-- A message that is on its way. -/
def aMsg : Msg :=
  { id := 6, team := 0, who := .group 0, lane := 0, domain := 0, dst := 7, die := 0, cluster := 0, held := false, stored := false,
    bytes := List.replicate 64 3, sent := true, dead := false }

/-- The entry of a `trig` and of what is posted behind a release: it drains. -/
abbrev finishes (fin : Fin) (s : State) : Prop :=
  let x := entAt .pend (.fin fin) []
  s.ctl.entries.find? (fun o => o.id == x.id && o.stage == .pend) = some x ∧ s.ctl.barred x = false ∧ s.ctl.finReady x fin = true ∧
    s.ctl.hasTeam 0 = true ∧ (s.ctl.team 0).hasParty 0 = true ∧ x.who = whoOf x.home

/-- A `trig` that is the team's last, where the team's record has a join counter, and one before another party has executed its own. -/
theorem test_meets_triggers :
    (let s := queued [entAt .pend (.fin .trig) []] (onTeam (fun t => { t with origin := .grid 2 })
        (onCtx (fun c => { c with recs := [{ aRec with join := some 0x10200 }] }) machine))
     let tm := (s.ctl.team 0).updParty (.group 0) (fun g => { g with triggered := true })
     finishes .trig s ∧ tm.signalled = false ∧ (∀ g ∈ tm.parties, s.ctl.countsTriggered tm g = true) ∧
       (∃ g ∈ tm.parties, g.retired = false) ∧ ((s.ctl.recOf tm).bind (·.join)) = some 0x10200) ∧
    (let s := queued [entAt .pend (.fin .trig) []] (onTeam (fun t =>
        { t with groups := t.groups ++ t.groups.map (fun g => { g with who := .group 1 }) }) machine)
     let tm := (s.ctl.team 0).updParty (.group 0) (fun g => { g with triggered := true })
     finishes .trig s ∧ ∃ g ∈ tm.parties, g.triggered = false ∧ g.retired = false) := by decide

/-- A message that waits for its release, and a buffer that the team's record has reserved. -/
theorem test_meets_posted_effects :
    (let s := queued [entAt .pend (.fin (.tbset 4)) []] (onTeam (fun t => { t with origin := .grid 2 })
        (onCtx (fun c => { c with recs := [aRec], tbs := [(4, 2)], tbOwn := [(4, 2)] }) machine))
     finishes (.tbset 4) s ∧ s.ctl.recOf (s.ctl.team 0) = some aRec ∧ (s.ctl.ctx 0).reservedBy 4 2 = true ∧
       ∀ c ∈ s.ctl.ctxs, ∀ q ∈ c.recs, q.eligible = true) ∧
    finishes .dropOperands (queued [entAt .pend (.fin .dropOperands) []] machine) ∧
    (let s := queued [entAt .pend (.fin (.send 7)) []] (onCtl (fun c => { c with msgs := [{ aMsg with id := 7, sent := false }] }) machine)
     finishes (.send 7) s ∧ ∃ y ∈ s.ctl.msgs, y.id = 7 ∧ y.sent = false) := ⟨by decide, by decide, by decide⟩

theorem test_meets_msend :
    (Ex (.msend (fMsend 0)) (fMsend 0) machine ∧ Ex (.msend (fMsend 32)) (fMsend 32) machine ∧ machine.ctl.creditFree 0 = true) ∧
    (let s := onCtl (fun c => { c with msgs := List.replicate 16 aMsg }) machine
     Ex (.msend (fMsend 0)) (fMsend 0) s ∧ s.ctl.creditFree 0 = false) :=
  ⟨⟨ex_of (by decide), ex_of (by decide), by decide⟩, ex_of (by decide), by decide⟩

/-- A ring of team 0 at offset 0x100 of its window, with two messages. -/
def aRing : Ring := { team := 0, r := 0, die := 0, loc := tmLoc 0 0x100, log := 2, port := 7, domain := 0 }

def ringed0 : State := applyAll machine (updBytes (tmLoc 0 0x100) [2])

def ringed : State := onCtl (fun c => { c with rings := [aRing] }) ringed0

theorem ringed_wf : ringed.wf := wf_onCtl _ ringed0 (wf_updAll (updBytes (tmLoc 0 0x100) [2]) machine machine_wf)

def fMwait : Fields := ff 0 0 0 0 261 true .none
def fMack : Fields := ff 0 0 260 0 261 true .none
def fMackDrop : Fields := ff 0 0 0 0 0 true .none
def fMackReg : Fields := ff 16 0 261 260 262 true .none

theorem test_meets_rings : ringed.wf ∧ ringed.ctl.ring 0 0 = some aRing ∧ ringed.ringCount aRing ≠ 0 ∧ Ex (.mwait fMwait) fMwait ringed ∧
    (Ex (.mack fMack) fMack (setW 4 2 ringed) ∧ 2 ≤ ringed.ringCount aRing) ∧ Ex (.mackDrop fMackDrop) fMackDrop ringed :=
  ⟨ringed_wf, by decide, by decide, ex_of (by decide), ⟨ex_of (by decide), by decide⟩, ex_of (by decide)⟩

theorem test_meets_ring_registration :
    let s := setW 5 0x20007 machine
    Ex (.mackReg fMackReg) fMackReg s ∧ wfld (0x20007 : Word) 19 16 = 2 ∧ classify s.ctl (s.ctl.team 0) 1 0 (64 + 64 * 2 ^ 2) = .data (tmLoc 0 0) ∧
      s.ctl.freeRing 0 = some 0 ∧ s.ctl.rings = [] ∧ s.ctl.entryAt (tmLoc 0 0) 64 = false :=
  ⟨ex_of (by decide), by decide, by decide, by decide, by decide, by decide⟩

/-- A message that a ring takes; one whose bytes are there; one that waits for an older one that is held; one to a port without a
ring, and one to a device without a route. -/
theorem test_meets_messages :
    (let s := onCtl (fun c => { c with msgs := [aMsg] }) ringed
     s.wf ∧ s.ctl.msgs.find? (fun x => x.id == 6 && x.sent) = some aMsg ∧ (∀ x ∈ s.ctl.msgs, x.id = 6 → x = aMsg) ∧ s.ctl.msgBehind aMsg = false ∧
       devOf aMsg.dst = s.ctl.host.devid.toNat ∧ s.ctl.ringFor aMsg = some aRing ∧ aMsg.bytes.length = 64 ∧ s.ctl.stalled aMsg.die aRing.die = false ∧
       s.ringTakes aRing = true ∧ s.ctl.heldBehind aMsg = false) ∧
    (let m : Msg := { aMsg with stored := true }
     let s := onCtl (fun c => { c with msgs := [m] }) ringed
     s.ctl.msgs.find? (fun x => x.id == 6 && x.sent) = some m ∧ s.ctl.ringFor m = some aRing) ∧
    (let m : Msg := { aMsg with id := 5, held := true }
     let s := onCtl (fun c => { c with msgs := [m, aMsg] }) ringed
     s.ctl.msgs.find? (fun x => x.id == 6 && x.sent) = some aMsg ∧ s.ctl.msgBehind aMsg = false ∧ s.ctl.heldBehind aMsg = true ∧
       s.ctl.inboxCount aRing.die < 256) ∧
    (let m : Msg := { aMsg with id := 5, held := true }
     let s := onCtl (fun c => { c with msgs := aMsg :: List.replicate 256 m }) ringed
     s.ctl.msgs.find? (fun x => x.id == 6 && x.sent) = some aMsg ∧ s.ctl.msgBehind aMsg = false ∧ 256 ≤ s.ctl.inboxCount aRing.die) ∧
    (let m : Msg := { aMsg with dst := 8 }
     let s := onCtl (fun c => { c with msgs := [m] }) ringed
     s.ctl.undeliverable m = some 0x20 ∧ s.ctl.returnStalled m = false ∧ s.ctl.hasTeam 0 = true ∧ (s.ctl.team 0).hasParty 0 = true ∧
       ((s.ctl.team 0).party (whoOf 0)).retired = false) ∧
    (let m : Msg := { aMsg with dst := 0x100000000008 }
     let s := onCtl (fun c => { c with msgs := [m] }) ringed
     s.ctl.undeliverable m = some 0x21 ∧ s.ctl.returnStalled m = false) :=
  ⟨⟨wf_onCtl _ ringed ringed_wf, by decide⟩, by decide⟩

/-- An OPEN tile of float kind, number 0. -/
def aTile : MTile := { uid := 4, team := 0, num := 0, engine := 0, st := .opened, int := false, status := 0, fillv := 0, els := List.replicate 4096 0 }

/-- A team whose window has room for operands, with that tile; F32 (8) by F32. -/
def tiled : State :=
  onTeam (fun t => { t with hdr := { t.hdr with tmem := 0x400 } })
    (onPath (fun p => { p with fmt := 0 }) (onCtl (fun c => { c with mtiles := [aTile] }) machine))

theorem wf_tiled : tiled.wf := wf_onTeam _ _ (wf_onPath _ _ (wf_onCtl _ machine machine_wf))

def fMmx : Fields := ff 20 262 261 260 0 true (.ext 166212)
def fVxm (m : Nat) : Fields := ff (16 + m) 3 2 (if m = 0 then 260 else 1) 5 false .none

theorem test_meets_mmx :
    let e := en (.mmx fMmx) fMmx tiled
    Ex (.mmx fMmx) fMmx tiled ∧ e.usrc 262 = 0 ∧ isMx (wfld e.p.fmt 4 0) = false ∧
      e.fixedOut [(1, 0, planes 0 * 64 * planeBytes 0), (1, 0, kOf 0 * (8 * container 0))] = none ∧ e.s.ctl.tileNo 0 0 = some aTile ∧
      aTile.int = (isIntFmt (wfld e.p.fmt 4 0) && isIntFmt (wfld e.p.fmt 9 5)) ∧ e.mfencePending = false ∧ e.tableFree = true := by
  refine ⟨ex_of (by decide), ?_⟩
  decide

/-- One contiguous row for all lanes; a row for each lane. -/
theorem test_meets_vxm :
    (let e := en (.vxm (fVxm 0)) (fVxm 0) tiled
     Ex (.vxm (fVxm 0)) (fVxm 0) tiled ∧ lanesOf e.ex e.gw ≠ [] ∧ (e.usrc 260).toNat % 64 = 0 ∧
       (∀ x ∈ lanesOf e.ex e.gw, rangeOut e.s.ctl e.t 1 (wrapSp 1 (x * 64)) (e.gw * vecPer 0 * container 0 / 8) = none) ∧
       e.mfencePending = false ∧ e.tableFree = true) ∧
    (let s := setV 1 0x40 tiled
     let e := en (.vxm (fVxm 8)) (fVxm 8) s
     Ex (.vxm (fVxm 8)) (fVxm 8) s ∧ (∀ x ∈ lanesOf e.ex e.gw, e.v 1 x = 0x40) ∧
       rangeOut e.s.ctl e.t 1 0x40 (e.gw * vecPer 0 * container 0 / 8) = none) :=
  ⟨⟨ex_of (by decide), by decide⟩, ex_of (by decide), by decide⟩

def fOpen : Fields := ff 0 0 0 260 261 true .none
def fClose : Fields := ff 0 0 0 260 0 true .none
def fMprio : Fields := ff 0 0 0 260 0 true .none
def fMstat (m : Nat) : Fields := ff m 0 0 (if m = 0 then 260 else 0) 261 true .none

/-- A pass of that kind on engine 0. -/
def passOf (granted : Bool) (k : PassKind) : Pass :=
  { id := 8, engine := 0, team := 0, who := .group 0, pid := 0, prio := 1, acceptedAt := 0, granted := granted, fa := 0, fb := 0, kind := k,
    spans := [{ loc := tmLoc 0 0, n := 64, op := 0, off := 0 }], cycles := 1, got := 16, ops := [List.replicate 64 0] }

def mmxKind : PassKind := .mmx 4 false 0 0 256 (1, 0) (1, 0) none none
def vxmKind : PassKind := .vxm [(0, (1, 0), 0)] [0] [.reg { vp := 0, wp := 0, pl := 0, code := 5, lane := 0, w := 32, sgn := false } true]

/-- A free tile number, and a full team; a tile without entries, and one with a granted entry. -/
theorem test_meets_tiles_managed :
    (Ex (.mringOpen fOpen) fOpen machine ∧ (machine.ctl.mtiles.filter (fun m => m.engine == 0)).length < 16 ∧ machine.ctl.tileNo 0 0 = none) ∧
    (let s := onCtl (fun c => { c with mtiles := List.replicate 16 aTile }) machine
     Ex (.mringOpen fOpen) fOpen s ∧ 16 ≤ (s.ctl.mtiles.filter (fun m => m.engine == 0)).length) ∧
    (Ex (.mringClose fClose) fClose tiled ∧ tiled.ctl.tileNo 0 0 = some aTile ∧ (∀ p ∈ tiled.ctl.passes, p.onTile 4 = true → p.granted = false)) ∧
    (let s := onCtl (fun c => { c with passes := [passOf true mmxKind] }) tiled
     Ex (.mringClose fClose) fClose s ∧ ∃ p ∈ s.ctl.passes, p.onTile 4 = true ∧ p.granted = true) ∧
    Ex (.mfenceOp (ff 0 0 0 0 0 true .none)) (ff 0 0 0 0 0 true .none) machine ∧ Ex (.mprio fMprio) fMprio machine ∧
    Ex (.mstat (fMstat 0)) (fMstat 0) tiled ∧ Ex (.mstat (fMstat 1)) (fMstat 1) tiled :=
  ⟨⟨ex_of (by decide), by decide⟩, ⟨ex_of (by decide), by decide⟩, ⟨ex_of (by decide), by decide⟩, ⟨ex_of (by decide), by decide⟩,
    ex_of (by decide), ex_of (by decide), ex_of (by decide), ex_of (by decide)⟩

def fEpi : Fields := ff 20 262 261 260 0 true (.ext 166212)

/-- With a bias and without one. -/
theorem test_meets_epilogues : ∀ b ∈ [false, true],
    let s := setW 6 (if b then 16 else 0) tiled
    let e := en (.epi fEpi) fEpi s
    executesB (.epi fEpi) fEpi (running s (.epi fEpi)) = true ∧ (e.usrc 262).getLsbD 4 = b ∧ wfld e.p.fmt 18 14 = 0 ∧
      e.fixedOut ((List.range 64).map (fun i => (1, wrapSp 1 (i * (8 * container 0)), 8 * container 0)) ++ (if b then [(1, 0, 256)] else [])) = none ∧
      (match e.completion with
       | .ok _ => true
       | .error _ => false) = true ∧ s.ctl.tileNo 0 0 = some aTile ∧ aTile.st = .opened := by
  simp only [List.forall_mem_cons]
  exact ⟨by decide, by decide, by simp⟩

theorem test_meets_grants :
    let s := onCtl (fun c => { c with passes := [passOf false mmxKind] }) tiled
    (∀ p ∈ s.ctl.passes, p.engine = 0 → p.granted = false) ∧ passOf false mmxKind ∈ s.ctl.passes ∧
      s.ctl.passReady (passOf false mmxKind) = true ∧ ¬(0 + 4096 < s.ctl.cyc) := by decide

theorem test_meets_pass_ends : ∀ k ∈ [mmxKind, vxmKind],
    let s := onCtl (fun c => { c with passes := [passOf true k] }) tiled
    s.ctl.passes.find? (fun q => q.engine == 0 && q.granted && decide (16 * q.cycles ≤ q.got)) = some (passOf true k) ∧
      aTile ∈ s.ctl.mtiles ∧ aTile.st ≠ .closing := by decide

theorem test_meets_slew :
    machine.ctl.slews.length = 8 ∧
    (let x := machine.ctl.slews.getD 0 Slew.init
     x.running = false ∧ x.pendingFall = none ∧ x.held.sum = ((List.range 16).map (machine.ctl.demand 0)).sum) ∧
    (let s := onCtl (fun c => { c with passes := [passOf true mmxKind] }) tiled
     let x := s.ctl.slews.getD 0 Slew.init
     x.running = false ∧ x.pendingFall = none ∧ x.held.sum < ((List.range 16).map (s.ctl.demand 0)).sum) := by decide

/-- An epilogue of the tile into rows of 32 bytes at the window's start. -/
def epiJob : Job :=
  { copyOf (64 * 32) with kind := .epi 4 0x3F800000 0 16 32 32 none false, dst := 0, accepted := true }

/-- A machine with only that epilogue to do. -/
def finishing : State := onCtl (fun c => { c with mtiles := [aTile] }) (working [epiJob] machine)

theorem finishing_wf : finishing.wf := wf_onCtl _ _ (wf_onCtl _ machine machine_wf)

theorem spread_rows (n : Nat) (h : n ≤ 64) :
    spreadBytes ((List.range n).map (fun i => (1, i * 32, 32))) = (List.range (n * 32)).map (fun m => (1, m)) := by
  induction n with
  | zero => rfl
  | succ n ih =>
    have ih := ih (by omega)
    simp only [spreadBytes] at ih ⊢
    rw [List.range_succ, List.map_append, List.map_append, List.flatten_append, ih, Nat.succ_mul, List.range_add, List.map_append]
    congr 1
    simp only [List.map_cons, List.map_nil, List.flatten_cons, List.flatten_nil, List.append_nil, List.map_map]
    refine List.map_congr_left (fun k hk => ?_)
    have hk : k < 32 := List.mem_range.mp hk

    simp [wrapSp]
    omega

theorem test_meets_epilogue_write :
    (finishing.ctl.headEpi 0 = some epiJob ∧ finishing.ctl.mtiles.find? (fun y => y.uid == 4) = some aTile ∧
      (∀ p ∈ finishing.ctl.passes, p.onTile 4 = false) ∧ finishing.ctl.theJob 5 epiJob ∧ 32 = 8 * container 16) ∧
    Runs (jobReachAll epiJob false false []) finishing (.ok []) finishing ∧
    Runs (jobReachAll epiJob true false (spreadBytes ((List.range 64).map (fun i => (epiJob.dsp, epiJob.dst.toNat + i * 32, 32))))) finishing
      (.ok (((List.range 2048).map (tmLoc 0)).map ByteAt.at_)) finishing ∧
    ((List.range 2048).map (tmLoc 0)).Nodup := by
  refine ⟨by decide, fun log => ⟨log, rfl⟩, fun log => ⟨log, ?_⟩, ?_⟩
  · have h0 : spreadBytes ((List.range 64).map (fun i => (epiJob.dsp, epiJob.dst.toNat + i * 32, 32))) =
        (List.range 2048).map (fun m => (1, m)) := by
      have := spread_rows 64 (le_refl _)
      simpa [epiJob, copyOf] using this
    rw [h0, jobReachAll_at (fun x => tmLoc 0 x.2) _ (by
      intro x hx log
      obtain ⟨i, hi, rfl⟩ := List.mem_map.mp hx
      have hi : i < 2048 := List.mem_range.mp hi
      have hc := tm_class i (finishing.ctl.withFreed (epiJob.checkedAt true false)) (finishing.ctl.team epiJob.team) (by omega) rfl rfl
      have he : finishing.ctl.entries = [] := rfl
      have hj : finishing.ctl.jobs = [epiJob] := rfl
      have hp : finishing.ctl.passes = [] := rfl
      have hb : finishing.ctl.bars = [] := rfl
      have hr : finishing.ctl.rings = [] := rfl
      have h1 : epiJob.earlyJobs = [] := rfl
      simp [jobReach, bind_run, getS_run, pure_run, hc, State.jobBehind, Ctl.entryBehind, he, h1, hj, Ctl.pinned, hp, Ctl.boundByte, hb, Ctl.ringHeader, hr]) log]
    rw [List.map_map, List.map_map]
    rfl
  · refine List.Nodup.map ?_ List.nodup_range
    intro a b h
    simpa [tmLoc] using h

/-! Graphics -/

def fPrimOpen : Fields := ff 0 1 0 260 261 true .none
def fPrim : Fields := ff 0 1 0 260 261 true .none
def fPrimClose : Fields := ff 0 1 0 0 0 true .none

/-- Stream 1 of team 0: a panel of 64 by 64 pixels and one view. -/
def aStream (ps : List Prim) : Stream :=
  { id := 9, rctx := 0, num := 1, team := 0, die := 0, w := 64, h := 64, nv := 1, fbo := 0x1000, vbo := 0x9000, nextSeq := 0, prims := ps,
    closing := false, markerDies := [] }

def streaming (ps : List Prim) (s : State) : State := onCtl (fun c => { c with streams := [aStream ps] }) s

/-- A machine with a panel descriptor at 0x10000, and one with zeros there, in the cache. -/
def panelled (bs : List Byte) : State := setW 4 0x10000 (caching (applyAll machine (updBytes (dmLoc 0x10000) bs)))

theorem panelled_wf (bs : List Byte) : (panelled bs).wf :=
  wf_setW 4 _ _ (wf_onCtl _ _ (wf_updAll (updBytes (dmLoc 0x10000) bs) machine machine_wf))

theorem panel_at (bs : List Byte) (hb : bs = [] ∨ bs = [64, 0, 64, 0, 1]) :
    Runs ((en (.primOpen fPrimOpen) fPrimOpen (panelled bs)).spatRecord 0 0x10000) (running (panelled bs) (.primOpen fPrimOpen))
      (.ok ((List.range 8).map (fun i => wd ((running (panelled bs) (.primOpen fPrimOpen)).load ((dmLoc 0x10000).plus (8 * i)) 8))))
      (running (panelled bs) (.primOpen fPrimOpen)) := by
  intro log
  rcases hb with rfl | rfl
  · exact ⟨log, spatRecord_dev (os := [(0, dmLoc 0x10000)]) (by decide) (fun log => rfl) (by decide) (by decide) rfl (by decide) (by decide) (by decide) log⟩
  · exact ⟨log, spatRecord_dev (os := [(0, dmLoc 0x10000)]) (by decide) (fun log => rfl) (by decide) (by decide) rfl (by decide) (by decide) (by decide) log⟩

theorem test_meets_prim_open :
    Ex (.primOpen fPrimOpen) fPrimOpen (streaming [] machine) ∧
    (Ex (.primOpen fPrimOpen) fPrimOpen (setW 4 0x10020 machine) ∧ machine.ctl.stream 0 1 = none) ∧
    (Ex (.primOpen fPrimOpen) fPrimOpen (panelled []) ∧
      panelOf ((List.range 8).map (fun i => wd ((panelled []).load ((dmLoc 0x10000).plus (8 * i)) 8))) = none) ∧
    (Ex (.primOpen fPrimOpen) fPrimOpen (panelled [64, 0, 64, 0, 1]) ∧
      panelOf ((List.range 8).map (fun i => wd ((panelled [64, 0, 64, 0, 1]).load ((dmLoc 0x10000).plus (8 * i)) 8))) = some (64, 64, 1, 0, 0)) :=
  ⟨ex_of (by decide), ⟨ex_of (by decide), by decide⟩, ⟨ex_of (by decide), by decide⟩, ex_of (by decide), by decide⟩

/-- A record in team memory: a triangle of 8 pixels' sides. -/
def recorded : State := streaming [] (applyAll machine (updBytes (tmLoc 0 0) (List.replicate 17 0 ++ [8] ++ List.replicate 19 0 ++ [8])))

def triangle : List Vertex := [{ x := 0, y := 0, d := 0, z := 0 }, { x := 2048, y := 0, d := 0, z := 0 }, { x := 0, y := 2048, d := 0, z := 0 }]

theorem test_meets_prim :
    let e := en (.prim fPrim) fPrim recorded
    Ex (.prim fPrim) fPrim recorded ∧ recorded.ctl.stream 0 1 = some (aStream []) ∧ classify e.s.ctl e.t 1 0 64 = .data (tmLoc 0 0) ∧
      e.s.ctl.wouldBar (e.entry 0 0 .read [{ lane := 0, loc := tmLoc 0 0, n := 64, vs := 1, va := 0, data := 0, data2 := 0, sink := .none }]) = false ∧
      e.s.ctl.absent e.uid 0 = false ∧
      primOf ((List.range 8).map (fun i => wd (recorded.load ((tmLoc 0 0).plus (8 * i)) 8))) = some (triangle, 0, 0) ∧ boxDies triangle 64 64 1 = [0] ∧
      Ex (.primClose fPrimClose) fPrimClose recorded :=
  ⟨ex_of (by decide), by decide, by decide, by decide, by decide, by decide, by decide, ex_of (by decide)⟩

def aPrim : Prim := { seq := 0, vs := triangle, cull := 0, pid := 5, dies := [(0, 0)] }

def aBind (team : Nat) : Binding := { rctx := 0, num := 1, die := 0, team := team }

/-- The tile of the triangle, queued or held; or an end marker. -/
def rtile (marker : Bool) (st : RTileState) : RTile :=
  { id := 11, stream := 9, rctx := 0, num := 1, die := 0, seq := 0, tx := 0, ty := 0, b := 0, marker := marker, vs := triangle, cull := 0, pid := 5,
    w := 64, h := 64, nv := 1, fbo := 0x1000, vbo := 0x9000, state := st }

def fBind : Fields := ff 0 1 0 0 261 true .none
def fPtile : Fields := ff 0 1 0 0 261 true .none
def fPdone : Fields := ff 0 0 0 0 0 true .none

/-- s with these bindings and tiles. -/
def consuming (bs : List Binding) (ts : List RTile) (s : State) : State := onCtl (fun c => { c with binds := bs, rtiles := ts }) s

theorem test_meets_sweep :
    let s := consuming [aBind 0] [] (streaming [aPrim] machine)
    s.ctl.stream 0 1 = some (aStream [aPrim]) ∧ s.ctl.stalled 0 0 = false ∧
      (aStream [aPrim]).prims.find? (fun p => p.dies.any (fun d => d.1 == 0)) = some aPrim ∧ s.ctl.binding 0 1 0 = some (aBind 0) := by decide

/-- No consumer, another one, and the team itself; a tile, an end marker; a held tile. -/
theorem test_meets_consumers :
    (Ex (.ptileBind fBind) fBind machine ∧ machine.ctl.binding 0 1 0 = none) ∧
    (Ex (.ptileBind fBind) fBind (consuming [aBind 3] [] machine) ∧ (consuming [aBind 3] [] machine).ctl.binding 0 1 0 = some (aBind 3)) ∧
    (let s := consuming [aBind 0] [rtile false .queued] (streaming [] machine)
     Ex (.ptile fPtile) fPtile s ∧ s.ctl.binding 0 1 0 = some (aBind 0) ∧ s.ctl.queueOf (aBind 0) = [rtile false .queued]) ∧
    (let s := consuming [aBind 0] [rtile true .queued] (streaming [] machine)
     Ex (.ptile fPtile) fPtile s ∧ s.ctl.queueOf (aBind 0) = [rtile true .queued]) ∧
    (let s := consuming [aBind 3] [] machine
     Ex (.ptile fPtile) fPtile s ∧ ∀ b, s.ctl.binding 0 1 0 = some b → b.team ≠ 0) ∧
    Ex (.ptileDone fPdone) fPdone machine := by
  refine ⟨⟨ex_of (by decide), by decide⟩, ⟨ex_of (by decide), by decide⟩, ⟨ex_of (by decide), by decide⟩, ⟨ex_of (by decide), by decide⟩,
    ⟨ex_of (by decide), ?_⟩, ex_of (by decide)⟩
  intro b hb
  cases hb
  decide

/-- A group that holds the tile. -/
def holding : State := consuming [aBind 0] [rtile false .held] (streaming [] (onGroup (fun g => { g with tile := some { stream := 9, tile := 11 } }) machine))

theorem holding_wf : holding.wf := wf_onCtl _ _ (wf_onCtl _ _ (wf_onGroup _ machine machine_wf))

def fEdge : Fields := ff 1 0 2 1 4 false .none
def fEdgev : Fields := ff 0 0 0 1 329 false .none
def fVmask : Fields := ff 0 0 0 329 4 false .none
def fVimovR : Fields := ff 0 0 0 329 4 false .none
def fVimovW : Fields := ff 1 0 0 4 329 false .none

theorem test_meets_edges : holding.wf ∧ (en (.edge fEdge) fEdge holding).tile = some (rtile false .held) ∧ Ex (.edge fEdge) fEdge holding ∧
    Ex (.edgev fEdgev) fEdgev holding ∧ Ex (.vmask fVmask) fVmask holding ∧ Ex (.vimov fVimovR) fVimovR holding ∧
    Ex (.vimov fVimovW) fVimovW holding :=
  ⟨holding_wf, by decide, ex_of (by decide), ex_of (by decide), ex_of (by decide), ex_of (by decide), ex_of (by decide)⟩

def fZview : Fields := ff 8 0 2 1 4 false .none
def fRopW : Fields := ff 0 3 4 1 0 false .none
def fRopRel : Fields := ff 0 0 261 260 0 true .none

theorem test_meets_raster_hand_over : Ex (.zview fZview) fZview holding ∧ Ex (.ropW fRopW) fRopW holding ∧
    lanesOf (en (.ropW fRopW) fRopW holding).ex 16 ≠ [] ∧
    (Ex (.ropRel fRopRel) fRopRel barred ∧ (en (.ropRel fRopRel) fRopRel barred).atWord (tmLoc 0 0) true) :=
  ⟨ex_of (by decide), ex_of (by decide), by decide, ex_of (by decide), by decide⟩

/-- An entry of the raster output with pixel 0 and view 0. -/
def rentry (op : ROp) (k : Sink) : REntry :=
  { id := 13, die := 0, team := 0, who := .group 0, pid := 0, tile := 11, op := op, lanes := [(0, 0, 1, 7, k)], waits := [] }

theorem test_meets_raster_applied :
    (∀ op ∈ [ROp.ropw, .zview 0 true, .zview 2 false],
      let r := rentry op .none
      let s := onCtl (fun c => { c with rents := [r] }) holding
      s.ctl.rents.find? (fun q => q.id == r.id && q.lanes != []) = some r ∧ s.ctl.rtiles.find? (fun x => x.id == r.tile) = some (rtile false .held) ∧
        s.ctl.ropBehind r (rtile false .held) = false ∧ lanesOf 1 64 = [0] ∧ 0x9000 + 4 * cellOf 64 1 0 0 0 + 4 ≤ 2 ^ 27) ∧
    (let r : REntry := { rentry (.rel (tmLoc 0 0) 0 0) .none with lanes := [] }
     let s := onCtl (fun c => { c with rents := [r] }) barred
     let b := s.barWordAt (tmLoc 0 0)
     s.wf ∧ s.ctl.rents.find? (fun q => q.id == r.id) = some r ∧ (s.ctl.barAt (tmLoc 0 0)).isSome = true ∧ b.expa ≠ 0 ∧
       b.Counts 1 0 { b with pseq := 2 } 1 False) := by
  refine ⟨?_, wf_onCtl _ barred barred_wf, by decide, by decide, by decide, ⟨by decide, by decide, by decide, by decide, by decide⟩⟩
  simp only [List.forall_mem_cons]
  exact ⟨by decide, by decide, by decide, by simp⟩

/-! Records, teams and traps -/

/-- One block that is read, then others. -/
theorem readBlocks_step {e : Env} {a n : Nat} {x y : List Word} {s : State} {log : List Upd}
    (h1 : e.spatRecord 0 (a % 2 ^ 64) { st := s, log := log } = (.ok x, { st := s, log := log }))
    (h2 : e.readBlocks (a + 64) n { st := s, log := log } = (.ok y, { st := s, log := log })) :
    e.readBlocks a (n + 1) { st := s, log := log } = (.ok (x ++ y), { st := s, log := log }) := by
  simp only [Env.readBlocks, bind_run, h1, h2, pure_run]

def fLaunch : Fields := ff 0 0 0 260 261 true .none

/-- A record at 0x10000 with its header at 0x10100, without frame, counters and buffers. -/
def launching : State :=
  setW 4 0x10000 (caching (applyAll machine (updBytes (dmLoc 0x10000) [0, 1, 1] ++ updBytes (dmLoc 0x10024) [1] ++ updBytes (dmLoc 0x10030) (List.replicate 16 0xFF) ++
      updBytes (dmLoc 0x1014A) [1])))

theorem launching_wf : launching.wf :=
  wf_setW 4 _ _ (wf_onCtl _ _ (wf_updAll (updBytes (dmLoc 0x10000) [0, 1, 1] ++ updBytes (dmLoc 0x10024) [1] ++
    updBytes (dmLoc 0x10030) (List.replicate 16 0xFF) ++ updBytes (dmLoc 0x1014A) [1]) machine machine_wf))

abbrev lEnv : Env := en (.launch fLaunch) fLaunch launching
abbrev lRun : State := running launching (.launch fLaunch)

/-- The eight doublewords at an address of the page. -/
abbrev block (a : Nat) : List Word := (List.range 8).map (fun i => wd (lRun.load ((dmLoc a).plus (8 * i)) 8))

theorem block_at (a : Nat) (ha : a ∈ [0x10000, 0x10100, 0x10140]) (log : List Upd) :
    lEnv.spatRecord 0 a { st := lRun, log := log } = (.ok (block a), { st := lRun, log := log }) := by
  simp only [List.mem_cons, List.not_mem_nil, or_false] at ha
  rcases ha with rfl | rfl | rfl
  · exact spatRecord_dev (os := [(0, dmLoc 0x10000)]) (by decide) (fun log => rfl) (by decide) (by decide) rfl (by decide) (by decide) (by decide) log
  · exact spatRecord_dev (os := [(0, dmLoc 0x10100)]) (by decide) (fun log => rfl) (by decide) (by decide) rfl (by decide) (by decide) (by decide) log
  · exact spatRecord_dev (os := [(0, dmLoc 0x10140)]) (by decide) (fun log => rfl) (by decide) (by decide) rfl (by decide) (by decide) (by decide) log

theorem test_meets_launch_reads : Runs (lEnv.readBlocks 0x10000 1) lRun (.ok (block 0x10000 ++ [])) lRun ∧
    Runs (lEnv.readBlocks 0x10100 2) lRun (.ok (block 0x10100 ++ (block 0x10140 ++ []))) lRun ∧
    Runs (lEnv.readBlocks 0 0) lRun (.ok []) lRun :=
  ⟨fun log => ⟨log, readBlocks_step (block_at _ (by simp) log) rfl⟩,
    fun log => ⟨log, readBlocks_step (block_at _ (by simp) log) (readBlocks_step (block_at _ (by simp) log) rfl)⟩, fun log => ⟨log, rfl⟩⟩

/-- The record is in order; its queue has room. -/
theorem test_meets_launch : Ex (.launch fLaunch) fLaunch launching ∧ launching.wf ∧ (block 0x10000).getD 0 0 = 0x10100 ∧
    (block 0x10000).getD 1 0 = 0 ∧ recordStatus (block 0x10000) (block 0x10100 ++ block 0x10140) (lRun.ctl.ctx 0).tbn = 0 ∧
    Runs (lEnv.joinAt ((block 0x10000).getD 2 0)) lRun (.ok (some none)) lRun ∧ lRun.ctl.queueFull 0 = false ∧
    (onCtx (fun c => { c with recs := [aRec] }) launching).ctl.queueFull 0 = true ∧
    recordStatus [0x10101] [] 0 ≠ 0 := by
  refine ⟨ex_of (by decide), launching_wf, by decide, by decide, by decide, fun log => ⟨log, ?_⟩, by decide, by decide, by decide⟩
  have h : (block 0x10000).getD 2 0 = 0 := by decide
  rw [h]
  rfl

/-- A counter in host memory. -/
theorem test_meets_launch_host :
    let s := onCtl (fun c => { c with tlbs := [{ eng := .core 0 0, rctx := 0, va := 0x20000, log := 12, leaf := 0x8000000000020B7B }],
                                      atc := [{ rctx := 0, va := 0x20000, log := 12, addr := 0x5000, write := true }] }) machine
    Runs ((en (.launch fLaunch) fLaunch s).joinAt 0x20000) s (.ok none) s := fun log => ⟨log, rfl⟩

def fCjoin : Fields := ff 0 0 261 260 262 true .none
def fTb : Fields := ff 0 0 0 260 0 true .none

theorem test_meets_counters :
    (let s := setW 4 0x10000 machine
     let e := en (.cjoin fCjoin) fCjoin s
     Ex (.cjoin fCjoin) fCjoin s ∧ e.Reaches [(0, 0x10000)] { rd := true, wr := true, x := false } [(0, dmLoc 0x10000)] e.s ∧
       e.s.ctl.refusedWrites e.t e.s [(0, 0x10000)] = []) ∧
    (let s := onCtx (fun c => { c with tbn := 4, tbs := [(0, 2)], tbOwn := [(0, 0)], recs := [{ aRec with id := 0, outs := [0] }] }) machine
     Ex (.tbset fTb) fTb s ∧ s.ctl.recOf (s.ctl.team 0) = some { aRec with id := 0, outs := [0] } ∧ (s.ctl.ctx 0).reservedBy 0 0 = true) ∧
    (let s := onCtx (fun c => { c with tbn := 4, tbs := [(0, 1)] }) machine
     Ex (.tbclr fTb) fTb s ∧ (s.ctl.ctx 0).tb 0 = 1 ∧ ∀ c ∈ s.ctl.ctxs, ∀ r ∈ c.recs, r.eligible = true) :=
  ⟨⟨ex_of (by decide), fun log => ⟨log, rfl⟩, by decide⟩, ⟨ex_of (by decide), by decide⟩, ex_of (by decide), by decide⟩

/-- An instruction as the bobbin executes it. -/
def curB (i : Instr) : Cur := { curOf i with p := { team := 0, who := .bobbin, pid := 0 } }

/-- That an instruction executes for some path, decided. -/
def executesAt (i : Instr) (f : Fields) (cur : Cur) (s : State) : Bool :=
  let e := envOf s cur f
  decide (s.ctl.cur = some cur) && decide (i.fields = some f) && s.ctl.stands cur.p && decide (stepFaults i e = []) &&
    (e.p.helper.isSome || decide (reportsAt i e.ex e.g = none)) && (countsEmpty i || !f.u || decide (e.ex ≠ 0)) &&
    decide (helperFault i e = none) && !e.blocked i && decide (e.shadowed i = 0)

theorem executes_at (i : Instr) (f : Fields) (cur : Cur) (s : State) (h : executesAt i f cur s = true) : Executes i f cur s := by
  simp only [executesAt, Bool.and_eq_true, Bool.or_eq_true, decide_eq_true_eq, Bool.not_eq_true'] at h
  obtain ⟨⟨⟨⟨⟨⟨⟨⟨h1, h2⟩, h3⟩, h4⟩, h5⟩, h6⟩, h7⟩, h8⟩, h9⟩ := h
  exact ⟨h1, h2, h3, h4, h5, or_assoc.mp h6, h7, h8, h9⟩

/-- A team with a bobbin, and one decision. -/
def bobbed : State := onTeam (fun t => { t with bobbin := some { placeGroup with who := .bobbin, width := 1 }, dq := [9] }) machine

theorem wf_bobbed : bobbed.wf := wf_onTeam _ machine machine_wf

def fPut : Fields := ff 0 0 0 260 0 true .none
def fGet : Fields := ff 0 0 0 0 260 true .none
def fYield : Fields := ff 0 0 0 0 0 true .none

theorem test_meets_decisions :
    (let cur := curB (.morePut fPut)
     let s := onCtl (fun c => { c with cur := some cur }) bobbed
     Executes (.morePut fPut) fPut cur s ∧ (envOf s cur fPut).bob = true ∧ (envOf s cur fPut).t.dq.length < 16) ∧
    (let e := en (.moreGet fGet) fGet bobbed
     Ex (.moreGet fGet) fGet bobbed ∧ e.t.bobbin ≠ none ∧ e.t.dqBase ≤ e.g.dqRead ∧ e.g.dqRead < e.t.dqBase + e.t.dq.length ∧ e.bob = false) ∧
    (let cur := curB (.morePut fPut)
     let s := onCtl (fun c => { c with cur := some cur }) (onTeam (fun t => { t with dq := List.replicate 16 9 }) bobbed)
     Executes (.morePut fPut) fPut cur s ∧ (envOf s cur fPut).bob = true ∧ 16 ≤ (envOf s cur fPut).t.dq.length) ∧
    (let s := onGroup (fun g => { g with dqRead := 1 }) bobbed
     let e := en (.moreGet fGet) fGet s
     Ex (.moreGet fGet) fGet s ∧ e.t.noBobbin = false ∧ e.t.dqBase + e.t.dq.length ≤ e.g.dqRead) ∧
    (Ex (.yield fYield) fYield machine ∧ (machine.ctl.team 0).phase = .running ∧ machine.ctl.waiterFor (machine.ctl.team 0) = false ∧
      machine.ctl.host.pstate = 0) ∧
    (let s := onTeam (fun t => { t with phase := .saving }) machine
     Ex (.yield fYield) fYield s ∧ (en (.yield fYield) fYield s).t.phase ≠ .running) ∧
    (let s := onCtl (fun c => { c with cyc := 450000, host := { c.host with pstate := 1 } }) machine
     s.ctl.hasTeam 0 = true ∧ (s.ctl.team 0).phase = .running ∧ (s.ctl.team 0).since + (s.ctl.team 0).quant ≤ s.ctl.cyc ∧ s.ctl.host.pstate ≠ 0) ∧
    (onCtl (fun c => { c with cyc := 449999 }) machine).ctl.cyc < (machine.ctl.team 0).since + (machine.ctl.team 0).quant := by
  exact ⟨⟨executes_at _ _ _ _ (by decide), by decide⟩, ⟨ex_of (by decide), by decide⟩, ⟨executes_at _ _ _ _ (by decide), by decide⟩,
    ⟨ex_of (by decide), by decide⟩, ⟨ex_of (by decide), by decide⟩, ⟨ex_of (by decide), by decide⟩, by decide, by decide⟩

/-- s with the host's registers changed. -/
def onHost (f : HostRegs → HostRegs) (s : State) : State := onCtl (fun c => { c with host := f c.host }) s

/-- The team in that phase. -/
def phased (p : Phase) (v : Option Service) (retired : Bool) : State :=
  onTeam (fun t => { t with phase := p, service := v, groups := t.groups.map (fun g => { g with retired := retired }) }) machine

def aService : Service := { who := .group 0, pid := 0, cause := 0x20, sub := 0, pc := 0x10000, npc := 0x10008, insn := 0, double := false }

theorem test_meets_saves :
    (let s := onCtl (fun c => { c with passes := [passOf true mmxKind] }) (phased .saving none false)
     s.ctl.hasTeam 0 = true ∧ s.saveReady (s.ctl.team 0) = false) ∧
    (let s := phased .running none false; (s.ctl.team 0).phase ≠ .saved) ∧
    (let s := onHost (fun h => { h with pstate := 1 }) (phased .saved none false)
     (s.ctl.team 0).phase = .saved ∧ s.mayClaim 0 1 (.saved 0) = false) ∧
    (let s := phased .running none true; (s.ctl.team 0).phase = .running ∧ (s.ctl.team 0).allRetired = true) ∧
    (let s := phased .retiring none true; (s.ctl.team 0).phase = .retiring ∧ s.ctl.drained 0 = true ∧ (s.ctl.team 0).uid = 0) ∧
    (let s := queued [entAt .pend .write [dmE]] (phased .retiring none true)
     (s.ctl.team 0).phase = .retiring ∧ s.ctl.drained 0 = false) := by decide

theorem find_tile (n k : Nat) (h : n < k) :
    ((List.range k).map (fun i => ({ tile := i, slot := 0, dirty := true } : Cached))).find? (fun x => x.tile == n) =
      some { tile := n, slot := 0, dirty := true } := by
  induction k with
  | zero => omega
  | succ k ih =>
    rw [List.range_succ, List.map_append, List.find?_append]
    by_cases hk : n < k
    · rw [ih hk]; rfl
    · have : n = k := by omega
      subst this
      rw [List.find?_eq_none.mpr]
      · simp
      · intro x hx
        obtain ⟨i, hi, rfl⟩ := List.mem_map.mp hx
        have := List.mem_range.mp hi
        simp only [beq_iff_eq]
        omega

/-- A tile of the record passes its seals, for reading and writing. -/
abbrev RecordTile (c : Ctl) (slot a : Nat) : Prop :=
  c.inCache slot a = true ∧ (c.cached.find? (fun x => x.tile == tileOf a)).all (·.dirty) = true ∧ c.host.copies.contains (a / 64) = false

theorem recordTile_free (c : Ctl) (n slot a : Nat) : RecordTile { c with free := n } slot a ↔ RecordTile c slot a := Iff.rfl

theorem sealNow_dirty {s : State} {slot a : Nat} {w : Bool} (h : RecordTile s.ctl slot a) (log : List Upd) :
    sealNow slot a w { st := s, log := log } = (.ok, { st := s, log := log }) := by
  simp [sealNow, bind_run, sealAccess_dirty h.1 h.2.1 h.2.2, pure_run]

theorem updBytes_ctl (l : Loc) (bs : List Byte) (s : State) : (applyAll s (updBytes l bs)).ctl = s.ctl := by
  induction bs generalizing l s with
  | nil => rfl
  | cons b bs ih =>
    show (applyAll (applyUpd s (.byte l.sp l.key b)) (updBytes (l.plus 1) bs)).ctl = s.ctl
    rw [ih]
    obtain ⟨sp, k⟩ := l
    cases sp <;> rfl

theorem writes_tiles {slot : Nat} (d : Nat → List Byte) : ∀ (as : List Nat) (s : State), (∀ a ∈ as, RecordTile s.ctl slot a) →
    Runs (forEach as (fun a => do if (← sealNow slot a true) == .ok then storeBytes (dmLoc a) (d a) else pure ())) s ()
      (as.foldl (fun s a => applyAll s (updBytes (dmLoc a) (d a))) s)
  | [], _, _ => fun log => ⟨log, rfl⟩
  | a :: as, s, h => fun log => by
    have ih := writes_tiles (slot := slot) d as (applyAll s (updBytes (dmLoc a) (d a))) (fun x hx => by
      rw [show (applyAll s (updBytes (dmLoc a) (d a))).ctl = s.ctl from updBytes_ctl _ _ _]
      exact h x (by simp [hx]))
    obtain ⟨log1, h1⟩ := ih ((updBytes (dmLoc a) (d a)).reverse ++ log)
    refine ⟨log1, ?_⟩
    simp only [forEach, bind_run, sealNow_dirty (h a (by simp)), beq_self_eq_true, if_true, storeBytes, emits_run, List.foldl_cons]
    exact h1

theorem reads_tiles {slot : Nat} {s : State} : ∀ (as : List Nat), (∀ a ∈ as, RecordTile s.ctl slot a) → Runs (readTiles slot as) s true s
  | [], _ => fun log => ⟨log, rfl⟩
  | a :: as, h => fun log => by
    obtain ⟨log1, h1⟩ := reads_tiles as (fun x hx => h x (by simp [hx])) log
    refine ⟨log1, ?_⟩
    simp only [readTiles, bind_run, sealNow_dirty (h a (by simp)), beq_self_eq_true, if_true]
    exact h1

theorem record_tiles (c : Ctl) (t : Team) (h1 : c.saveAddr t = 0) (h2 : c.groups = []) (h3 : c.tiles = []) (h4 : c.tree = [])
    (h5 : c.host.copies = []) (h6 : c.recPages ≤ 1000000)
    (h7 : ∀ i < 4096, c.cached.find? (fun x => x.tile == i) = some { tile := i, slot := 0, dirty := true }) : ∀ a ∈ c.saveTiles t, RecordTile c 0 a := by
  intro a ha
  simp only [Ctl.saveTiles, h1, List.mem_map, List.mem_range] at ha
  obtain ⟨i, hi, rfl⟩ := ha
  have ht : tileOf (0 + 1024 * i) = i := by simp only [tileOf]; omega
  have hp : c.recordPage ((0 + 1024 * i) / 65536) = false := by
    rw [Ctl.recordPage, decide_eq_false_iff_not]
    simp only [stackPages]
    omega
  refine ⟨?_, ?_, ?_⟩
  · simp only [Ctl.inCache, hp, Ctl.resealing, Ctl.groupResealing, Ctl.sealGroup, h2, Ctl.tile, h3, h4, ht, h7 i hi]
    rfl
  · rw [ht, h7 i hi]
    rfl
  · rw [h5]
    rfl

/-- Lines of the cache: the tiles of a save record at 0, dirty. -/
abbrev RecordLines (cs : List Cached) : Prop := ∀ i < 4096, cs.find? (fun x => x.tile == i) = some { tile := i, slot := 0, dirty := true }

/-- A machine with these lines in the cache, its team in this phase. -/
def recording (cs : List Cached) (p : Phase) (v : Option Service) : State :=
  onCtl (fun c => { c with cached := cs }) (phased p v false)

/-- What a meaning reads of the control state and draws first. -/
theorem read_draw {α : Type} (f : Ctl → Word → M α) (s : State) (log : List Upd) :
    (getC >>= fun c => drawFree >>= f c) { st := s, log := log } =
      f s.ctl (Config.freeBits s.ctl.free) { st := { s with ctl := { s.ctl with free := s.ctl.free + 1 } },
                                             log := .ctl { s.ctl with free := s.ctl.free + 1 } :: log } := rfl

theorem record_written {s : State} {t : Team} (h : ∀ a ∈ s.ctl.saveTiles t, RecordTile s.ctl (s.ctl.ctx t.rctx).kslot a) :
    ∃ s1, Runs (writeRecord t) s () s1 := by
  obtain ⟨as, has⟩ : ∃ as, as = s.ctl.saveTiles t := ⟨_, rfl⟩
  rw [← has] at h
  obtain ⟨s1, h2⟩ : ∃ s1, Runs (forEach as (fun a => do
      if (← sealNow (s.ctl.ctx t.rctx).kslot a true) == .ok then
        storeBytes (dmLoc a) ((List.range 1024).map (fun j => Config.saveByte (Config.freeBits s.ctl.free) (a - s.ctl.saveAddr t + j)))
      else pure ())) { s with ctl := { s.ctl with free := s.ctl.free + 1 } } () s1 :=
    ⟨_, writes_tiles _ as _ (fun a ha => (recordTile_free _ _ _ _).mpr (h a ha))⟩
  refine ⟨s1, fun log => ?_⟩
  unfold writeRecord
  rw [read_draw, ← has]
  exact h2 (.ctl { s.ctl with free := s.ctl.free + 1 } :: log)

theorem record_read {s : State} {t : Team} (h : ∀ a ∈ s.ctl.saveTiles t, RecordTile s.ctl (s.ctl.ctx t.rctx).kslot a) :
    Runs (readRecord t) s true s := fun log => by
  obtain ⟨log1, h1⟩ := reads_tiles _ h log
  refine ⟨log1, ?_⟩
  simp only [readRecord, bind_run, getC_run]
  exact h1

theorem recording_at (cs : List Cached) (p : Phase) (v : Option Service) : (recording cs p v).ctl.saveAddr ((recording cs p v).ctl.team 0) = 0 ∧
    (recording cs p v).ctl.recPages ≤ 1000000 :=
  ⟨(show machine.ctl.saveAddr (machine.ctl.team 0) = 0 by decide), (show machine.ctl.recPages ≤ 1000000 by decide)⟩

theorem heldFrame_at {s : State} {t : Team} {v : Service} {l : Loc} (hd : v.double = true) (h : ∀ log, deviceReach t.die t.rctx
      (s.csrOf t.uid v.who.idx 3).toNat { rd := true, wr := false, x := false } { st := s, log := log } = (.ok l, { st := s, log := log })) :
    ∃ fr, Runs (heldFrame t v) s (some fr) s := by
  refine ⟨(List.range 128).map (fun i => wd (ofBytes ((List.range 8).map (fun j => s.ownByte t.uid v.who (l.plus (8 * i + j)))))),
    fun log => ⟨log, ?_⟩⟩
  simp [heldFrame, hd, bind_run, map_run, getS_run, h]

theorem recording_tiles {cs : List Cached} (hc : RecordLines cs) (p : Phase) (v : Option Service) :
    ∀ a ∈ (recording cs p v).ctl.saveTiles ((recording cs p v).ctl.team 0), RecordTile (recording cs p v).ctl 0 a :=
  record_tiles (recording cs p v).ctl ((recording cs p v).ctl.team 0) (recording_at cs p v).1 rfl rfl rfl rfl (recording_at cs p v).2 hc

/-- A save whose record can be written, and a restore whose record can be read; without a report, with one, and with one that the host
must still find. -/
theorem test_meets_save_records : ∃ cs : List Cached,
    (∀ v ∈ [none, some aService], let s := recording cs .saving v
     s.wf ∧ s.ctl.hasTeam 0 = true ∧ s.saveReady (s.ctl.team 0) = true ∧ (s.ctl.team 0).service = v ∧
       ∃ s1, Runs (writeRecord (s.ctl.team 0)) s () s1) ∧
    (let s := recording cs .saving (some aService)
     Runs (heldFrame (s.ctl.team 0) aService) s (some []) s) ∧
    (let s := recording cs .saved none
     s.wf ∧ (s.ctl.team 0).phase = .saved ∧ s.mayClaim 0 1 (.saved 0) = true ∧ Runs (readRecord (s.ctl.team 0)) s true s) := by
  have hc : RecordLines ((List.range 4096).map (fun i => { tile := i, slot := 0, dirty := true })) := fun i hi => find_tile i 4096 hi
  generalize (List.range 4096).map (fun i => ({ tile := i, slot := 0, dirty := true } : Cached)) = cs at hc
  refine ⟨cs, fun v hv => ⟨wf_onCtl _ _ (wf_onTeam _ machine machine_wf), rfl, ?_, rfl, record_written (recording_tiles hc .saving v)⟩,
    fun log => ⟨log, rfl⟩, wf_onCtl _ _ (wf_onTeam _ machine machine_wf), rfl, ?_, record_read (recording_tiles hc .saved none)⟩
  · simp only [List.mem_cons, List.not_mem_nil, or_false] at hv
    rcases hv with rfl | rfl <;> rfl
  · rfl

/-- The first tile of the record fails its seal. -/
theorem test_meets_a_failing_record :
    let s := onCtl (fun c => { c with tiles := [{ c.tile 0 with quarantined := true }] }) (phased .saved none false)
    s.wf ∧ (s.ctl.team 0).phase = .saved ∧ s.mayClaim 0 1 (.saved 0) = true ∧ Runs (readRecord (s.ctl.team 0)) s false s := by
  intro s
  refine ⟨wf_onCtl _ _ (wf_onTeam _ machine machine_wf), rfl, by decide, fun log => ⟨log, ?_⟩⟩
  obtain ⟨r, hr⟩ : ∃ r, s.ctl.saveTiles (s.ctl.team 0) = s.ctl.saveAddr (s.ctl.team 0) :: r := ⟨_, by
    rw [Ctl.saveTiles, show (4096 : Nat) = 4095 + 1 from rfl, List.range_succ_eq_map, List.map_cons]
    rfl⟩
  have h1 : s.ctl.saveAddr (s.ctl.team 0) = 0 := by decide
  have h2 : s.ctl.resealing 0 = false := by decide
  have h3 : s.ctl.recordPage (0 / 65536) = false := by decide
  have h4 : (s.ctl.tile (tileOf 0)).quarantined = true := by decide
  have h5 : ∀ k, sealNow k 0 false { st := s, log := log } = (.fail 4, { st := s, log := log }) := by
    intro k
    simp [sealNow, sealAccess, sealTry, bind_run, map_run, getC_run, onlyIf_run, h2, h3, h4, pure_run]
  unfold readRecord
  simp only [bind_run, getC_run]
  rw [hr, h1]
  simp only [readTiles, bind_run, h5]
  rfl

/-- A double trap's frame that its group holds, and one whose page is being moved. -/
theorem test_meets_held_frames :
    let d : Service := { aService with double := true }
    (let s := onTeam (fun t => { t with phase := .saving, service := some d }) (applyUpd headed (.csr (csrKey 0 0 3) 0x10000))
     s.saveReady (s.ctl.team 0) = true ∧ ∃ fr, Runs (heldFrame (s.ctl.team 0) d) s (some fr) s) ∧
    (let s := onTeam (fun t => { t with phase := .saving, service := some d })
       (onCtl (fun c => { c with migrs := [{ migOf with va := 0, log := 12 }] }) machine)
     s.saveReady (s.ctl.team 0) = true ∧ Runs (heldFrame (s.ctl.team 0) d) s none s) := by
  intro d
  exact ⟨⟨by decide, heldFrame_at rfl (fun log => line_at (a := 0x10000) (by decide) log)⟩, by decide, fun log => ⟨log, rfl⟩⟩

def fTrap : Fields := ff 0 7 0 0 0 true .none

/-- A group with a handler and a frame page. -/
def handled : State := applyAll machine [.csr (csrKey 0 0 2) 0x10200, .csr (csrKey 0 0 3) 0x10000]

theorem handled_wf : handled.wf := wf_updAll [.csr (csrKey 0 0 2) 0x10200, .csr (csrKey 0 0 3) 0x10000] machine machine_wf

/-- A handled group whose frame page cannot be written; one whose frame page lies in the cache; one whose frame page is being moved. -/
def frameless : State := onCtl (fun c => { c with tlbs := c.tlbs.map (fun x => { x with leaf := x.leaf &&& ~~~(0x20 : Word) }) }) handled

abbrev framed : State := caching handled

def moved : State := onCtl (fun c => { c with migrs := [migOf] }) handled

theorem frame_at : Runs (frameReach ((en (.trap fTrap) fTrap framed).t.engine (en (.trap fTrap) fTrap framed).g.who)
    (en (.trap fTrap) fTrap framed).t.rctx ((running framed (.trap fTrap)).csrOf 0 0 3).toNat) (running framed (.trap fTrap))
    (.ok (dmLoc 0x10000)) (running framed (.trap fTrap)) := fun log => ⟨log, by
  have h1 : ((running framed (.trap fTrap)).csrOf 0 0 3).toNat = 0x10000 := by decide
  have h2 : (en (.trap fTrap) fTrap framed).t.engine (en (.trap fTrap) fTrap framed).g.who = .core 0 0 := by decide
  have h3 : (en (.trap fTrap) fTrap framed).t.rctx = 0 := by decide
  have ht : translate (.core 0 0) 0 0x10000 false { rd := false, wr := true, x := false } { st := running framed (.trap fTrap), log := log } =
      (.ok (dmLoc 0x10000), { st := running framed (.trap fTrap), log := log }) := rfl
  have hs : (dmLoc 0x10000).sp = .dm := rfl
  have hk := sealAccess_cached (s := running framed (.trap fTrap)) (pa := (dmLoc 0x10000).key)
    (slot := ((running framed (.trap fTrap)).ctl.ctx 0).kslot) (by decide) log
  rw [h1, h2, h3]
  simp [frameReach, bind_run, ht, hs, getC_run, hk, pure_run]⟩

/-- `trap` with a handler: with a frame page that can be written, with one that cannot, and with one that must still wait; `brkpt`
without a handler; a word that is no instruction. -/
theorem test_meets_traps :
    (let s := running framed (.trap fTrap)
     let e := en (.trap fTrap) fTrap framed
     Ex (.trap fTrap) fTrap framed ∧ s.wf ∧ trapRule e (.trap fTrap) = some (mkTrap 0x21 7 e.ex) ∧ e.p.helper = none ∧ e.ex &&& e.p.act ≠ 0 ∧
       (∀ q ∈ e.g.live, q.pid ≠ e.p.pid → q.doomed = none) ∧ e.bob = false ∧ e.g.inTrap = false ∧ s.csrOf 0 0 2 ≠ 0 ∧
       Runs (demote e.uid e.g.who e.p.pid) s () s) ∧
    (let s := running frameless (.trap fTrap)
     let e := en (.trap fTrap) fTrap frameless
     Ex (.trap fTrap) fTrap frameless ∧ Runs (demote e.uid e.g.who e.p.pid) s () s ∧
       Runs (frameReach (e.t.engine e.g.who) e.t.rctx (s.csrOf 0 0 3).toNat) s (.fault 10 0x39) s) ∧
    (let s := running moved (.trap fTrap)
     let e := en (.trap fTrap) fTrap moved
     Ex (.trap fTrap) fTrap moved ∧ Runs (demote e.uid e.g.who e.p.pid) s () s ∧
       Runs (frameReach (e.t.engine e.g.who) e.t.rctx (s.csrOf 0 0 3).toNat) s .wait s) ∧
    (let e := en (.brkpt fYield) fYield machine
     Ex (.brkpt fYield) fYield machine ∧ trapRule e (.brkpt fYield) = some (mkTrap 0x20 0 e.ex) ∧ e.ex &&& e.p.act ≠ 0 ∧
       machine.csrOf 0 0 2 = 0) ∧
    (let cur : Cur := { p := path0, pc := 0x10000, len := 8, bits := 0xFFFF }
     let s := onCtl (fun c => { c with cur := some cur }) machine
     s.ctl.cur = some cur ∧ s.ctl.stands cur.p = true ∧
       (trapRule (envOf s cur (unpack ((0xFFFF : BitVec 128).setWidth 64) .none)) (.reservedEncoding 0xFFFF .badLen)).isSome = true) :=
  ⟨⟨ex_of (by decide), wf_running _ _ handled_wf, rfl, by decide, by decide, by decide, by decide, by decide, by decide, fun log => ⟨log, rfl⟩⟩,
    ⟨ex_of (by decide), fun log => ⟨log, rfl⟩, fun log => ⟨log, rfl⟩⟩,
    ⟨ex_of (by decide), fun log => ⟨log, rfl⟩, fun log => ⟨log, rfl⟩⟩, ⟨ex_of (by decide), rfl, by decide, by decide⟩, by decide⟩

/-- A group in its trap, at supervisor level, with its frame's lanes. -/
def trapped : State :=
  sup (onGroup (fun g => { g with inTrap := true }) (caching (applyAll handled (updBytes (dmLoc 0x10018) [0xFF, 0xFF]))))

theorem trapped_wf : trapped.wf :=
  wf_sup _ (wf_onGroup _ _ (wf_onCtl _ _ (wf_updAll (updBytes (dmLoc 0x10018) [0xFF, 0xFF]) handled handled_wf)))

def fTret : Fields := ff 0 0 0 0 0 true .none

abbrev tEnv : Env := en (.tret fTret) fTret trapped
abbrev tRun : State := running trapped (.tret fTret)
abbrev frameWords : List Word := (List.range 128).map (fun i => wd (tRun.load ((dmLoc 0x10000).plus (8 * i)) 8))

theorem test_meets_tret : Ex (.tret fTret) fTret trapped ∧ trapped.wf ∧ tEnv.g.inTrap = true ∧ tEnv.g.recruit = none ∧
    wfld (frameWords.getD 75 0) 15 0 = tEnv.g.nr ∧ wfld (frameWords.getD 75 0) 31 16 = tEnv.g.na ∧
    frameWords.getD 3 0 &&& gwMask tEnv.gw &&& ~~~tEnv.g.gone ≠ 0 :=
  ⟨ex_of (by decide), trapped_wf, by decide, by decide, by decide, by decide, by decide⟩

theorem test_meets_frame_read : Runs tEnv.readFrame tRun (.ok frameWords) tRun := fun log => ⟨log, by
  have h : reach { uid := tEnv.uid, who := tEnv.g.who, rctx := tEnv.t.rctx, user := false, lanes := tEnv.ex }
      (tEnv.s.csrOf tEnv.uid tEnv.home 3).toNat 1024 { rd := true, wr := false, x := false } { st := tRun, log := log } =
      (.ok (dmLoc 0x10000), { st := tRun, log := log }) := reach_at rfl (by decide) rfl (by decide)
  simp only [Env.readFrame, bind_run, h, getS_run, pure_run]⟩

def fFrame : Fields := ff 1 0 324 0 0 false .none
def fFrameU : Fields := ff 0 0 260 0 261 true .none
def fWrtfU : Fields := ff 0 0 260 261 0 true .none

/-- Two lanes at supervisor level. -/
abbrev handling : State := onPath (fun p => { p with act := 3 }) (sup handled)

abbrev frameXs : List (Nat × Nat) := [0, 1].map (fun l => (l, 0x10000 + 8 * l))
abbrev frameOs : List (Nat × Loc) := [0, 1].map (fun l => (l, dmLoc (0x10000 + 8 * l)))

/-- `rdtf` and `wrtf` by lane and once, at the frame page; `sfence` with nothing outstanding. -/
theorem test_meets_frame_accesses :
    Ex (.rdtf fFrame) fFrame handling ∧ Ex (.wrtf fFrame) fFrame handling ∧ Ex (.rdtf fFrameU) fFrameU handling ∧
    Ex (.wrtf fWrtfU) fWrtfU handling ∧ Ex (.sfence fYield) fYield machine ∧ (en (.sfence fYield) fYield machine).outstanding = false ∧
    (en (.sfence fYield) fYield machine).g.due = none :=
  ⟨ex_of (by decide), ex_of (by decide), ex_of (by decide), ex_of (by decide), ex_of (by decide), by decide, by decide⟩

theorem test_meets_frame_reads :
    (en (.rdtf fFrame) fFrame handling).Reaches frameXs { rd := true, wr := false, x := false } frameOs (running handling (.rdtf fFrame)) :=
  fun log => ⟨log, rfl⟩

theorem test_meets_frame_writes :
    (en (.wrtf fFrame) fFrame handling).Reaches frameXs { rd := false, wr := true, x := false } frameOs (running handling (.wrtf fFrame)) :=
  fun log => ⟨log, rfl⟩

/-- Lane 0 writes at NA and NR. -/
theorem test_meets_frame_writes_at_the_depths :
    let f := ff 1 75 324 0 0 false .none
    let e := en (.wrtf f) f handling
    Ex (.wrtf f) f handling ∧ (e.s.csrOf e.uid e.home 3).toNat + (8 * scfld f 8 0 + 8 * 0) % 4096 = 0x10258 ∧
      e.Reaches ([0, 1].map (fun l => (l, 0x10258 + 8 * l))) { rd := false, wr := true, x := false } ([0, 1].map (fun l => (l, dmLoc (0x10258 + 8 * l))))
        (running handling (.wrtf f)) :=
  ⟨ex_of (by decide), by decide, fun log => ⟨log, rfl⟩⟩

theorem test_meets_frame_reads_once :
    (en (.rdtf fFrameU) fFrameU handling).Reaches [(0, 0x10000)] { rd := true, wr := false, x := false } [(0, dmLoc 0x10000)]
      (running handling (.rdtf fFrameU)) := fun log => ⟨log, rfl⟩

theorem test_meets_frame_writes_once :
    (en (.wrtf fWrtfU) fWrtfU handling).Reaches [(0, 0x10000)] { rd := false, wr := true, x := false } [(0, dmLoc 0x10000)]
      (running handling (.wrtf fWrtfU)) := fun log => ⟨log, rfl⟩

/-- A wait that goes on, one that has been released, and a counter's that has been reached. -/
theorem test_meets_park_ends :
    (let s := onPath (fun p => { p with park := some parked }) machine
     s.ctl.stands path0 = true ∧ (s.pathOf path0).park = some parked ∧ parked.doom = none ∧ (s.ctl.team 0).phase = .running ∧
       s.parkMet path0 parked = false) ∧
    (let k : Park := { parked with kind := .barrier (tmLoc 0 0) 0 0, released := true }
     let s := onPath (fun p => { p with park := some k }) machine
     (s.pathOf path0).park = some k ∧ s.parkMet path0 k = true ∧ s.ctl.lends 0 0 = false) ∧
    (let k : Park := { parked with kind := .counter 0 0 }
     let s := onPath (fun p => { p with park := some k }) machine
     (s.pathOf path0).park = some k ∧ s.parkMet path0 k = true ∧ s.ctl.lends 0 0 = false) ∧
    (let k : Park := { parked with kind := .texel 0 0 0x10000 [] (some [({ vp := 0, wp := 0, pl := 0, code := 5, lane := 0, w := 32, sgn := false }, 1)]) }
     let s := onPath (fun p => { p with park := some k }) machine
     (s.pathOf path0).park = some k ∧ s.parkMet path0 k = true ∧ s.ctl.lends 0 0 = false) ∧
    (let k : Park := { parked with doom := some (mkTrap 0x1D 0 1) }
     let s := onPath (fun p => { p with park := some k }) machine
     (s.pathOf path0).park = some k ∧ s.ctl.lends 0 0 = false ∧ (s.pathOf path0).helper = none ∧ s.csrOf 0 0 2 = 0 ∧
       ∀ x ∈ (s.groupOf path0).live, x.pid ≠ 0 → s.midChain (s.ctl.team 0) x = false) ∧
    (let k : Park := { parked with doom := some (mkTrap 0x1D 0 1) }
     let s := onGroup (fun g => { g with paths := g.paths.map (fun p => { p with park := some k }) ++ g.paths.map (fun p => { other p with chain := some { head := 0x10000, pos := 1 } }) }) machine
     (s.pathOf path0).park = some k ∧ ∃ x ∈ (s.groupOf path0).live, x.pid ≠ 0 ∧ s.midChain (s.ctl.team 0) x = true) := by decide

/-- An encoding fault; privileged instructions at user level; full stacks without a spill area. -/
theorem test_meets_checks :
    (∃ r, stepFaults (.tret fTret) (en (.tret fTret) fTret machine) = [r]) ∧
    (let e := en (.csrw (fCsrw 2)) (fCsrw 2) machine
     (Instr.csrw (fCsrw 2)).fields = some (fCsrw 2) ∧ chainFaults (.csrw (fCsrw 2)) e = [] ∧ formFaults (.csrw (fCsrw 2)) e = [] ∧ e.pl = 0) ∧
    (let s := onGroup (fun g => { g with recon := List.replicate 16 (rent .ser) }) machine
     let e := en (.split fSplit) fSplit s
     Ex (.split fSplit) fSplit s ∧ 16 ≤ e.g.recon.length ∧
       ((running s (.split fSplit)).csrOf e.uid e.g.who.idx 5).toNat < e.g.dsp.toNat + 64 * (e.g.spilled.length + 1)) ∧
    (let s := onGroup (fun g => { g with ras := List.replicate 8 { pc := 0x10020, depth := 0 } }) machine
     let e := en (.call fCall) fCall s
     Ex (.call fCall) fCall s ∧ 8 ≤ e.g.ras.length ∧
       ((running s (.call fCall)).csrOf e.uid e.g.who.idx 5).toNat < e.g.dsp.toNat + 64 * (e.g.spilled.length + 1)) :=
  ⟨⟨_, rfl⟩, by decide, ⟨ex_of (by decide), by decide, by decide⟩, ex_of (by decide), by decide, by decide⟩

def fMonset : Fields := ff 0 0 0 260 0 true .none
def fRdmon (n : Nat) : Fields := ff n 0 0 0 261 true .none

/-- A monitor of a source. -/
def aMon (src : Nat) : Monitor :=
  { die := 0, m := 0, rctx := some 0, cfg := BitVec.ofNat 64 src, count := 0, min := 2 ^ 32 - 1, max := 0, bins := List.replicate 32 0, sampled := 0 }

/-- Monitors are granted, set and read; and two that sample. -/
theorem test_meets_monitors :
    (let s := onCtx (fun c => { c with mons := 1 }) machine
     Ex (.monset fMonset) fMonset s ∧ wfld ((en (.monset fMonset) fMonset s).usrc 260) 7 0 ≤ 4 ∧
       (s.ctl.ctx (en (.monset fMonset) fMonset s).t.rctx).mons.getLsbD (scfld fMonset 5 0) = true ∧
       Ex (.rdmon (fRdmon 0)) (fRdmon 0) s ∧ Ex (.rdmon (fRdmon 39)) (fRdmon 39) s) ∧
    (∀ src ∈ [7, 8], let s := onCtl (fun c => { c with cyc := 256, mons := [aMon src] }) machine
     s.ctl.mons.find? (fun x => x.die == 0 && x.m == 0) = some (aMon src) ∧ wfld (aMon src).cfg 7 0 = src ∧ s.ctl.cyc % 256 = 0 ∧
       (aMon src).sampled ≠ s.ctl.cyc / 256 ∧ (s.ctl.slews.getD 0 Slew.init).held.sum < 2 ^ 32 ∧ s.ctl.inbox 0 0 < 2 ^ 32) :=
  ⟨⟨ex_of (by decide), by decide, by decide, ex_of (by decide), ex_of (by decide)⟩, by decide⟩

/-- A core that has been idle for both thresholds; a park as old as both of the hang thresholds, and a young one. -/
theorem test_meets_idle_cores :
    (let s := onCtl (fun c => { c with cyc := 2 ^ 40 }) machine
     s.ctl.host.pstate = 0 ∧ s.ctl.idleFor 0 5 s.ctl.host.clockGate = true ∧ s.ctl.idleFor 0 5 s.ctl.host.powerGate = true ∧
       s.ctl.idleFor 0 0 s.ctl.host.powerGate = false) ∧
    (let s := onPath (fun p => { p with park := some parked }) (onCtl (fun c => { c with cyc := 2 ^ 40 }) machine)
     s.ctl.stands path0 = true ∧ (s.pathOf path0).park = some parked ∧ s.ctl.host.hangWarn * 1800000 ≤ s.ctl.cyc - parked.since ∧
       s.ctl.host.hangReport * 1800000 ≤ s.ctl.cyc - parked.since ∧ parked.warned = false ∧ parked.reported = false) ∧
    (let s := onPath (fun p => { p with park := some { parked with warned := true, reported := true } }) machine
     (s.pathOf path0).park = some { parked with warned := true, reported := true }) := by decide

/-- A mailbox that runs a command with its first argument. -/
def commanded (code : Nat) (a : Word) (s : State) : State :=
  onHost (fun h => { h with mailbox := { h.mailbox with busy := some code, ran := false, args := [a], buf := a } }) s

/-- s with these doublewords at the start of host memory, where the mailbox's buffer lies. -/
def mailing (ws : List Word) (s : State) : State := applyAll s (updBytes { sp := .hm, key := 0 } (ws.map (fun w => bytesOf w.toNat 8)).flatten)

/-- Commands on key slots that are free, loaded and bound; a descriptor that is right, and one that is not; a context that ends, whose
counters have room, and one that does not exist. -/
theorem test_meets_keys_and_contexts :
    (let s := commanded 1 7 machine
     s.ctl.runs 1 = true ∧ s.ctl.arg 0 = wd 7 ∧ s.ctl.loaded 7 = false ∧
       (onHost (fun h => { h with kslots := [(7, 0)] }) s).ctl.loaded 7 = true) ∧
    (let s := commanded 2 7 machine
     s.ctl.runs 2 = true ∧ s.ctl.arg 0 = wd 7 ∧ (∀ y ∈ s.ctl.ctxs, y.kslot ≠ 7) ∧ ∃ y ∈ s.ctl.ctxs, y.kslot = 0) ∧
    (let desc : List Word := [0, 0, 0, 0, 0x40000, 0x100000400, 0, 0, 0, 0, 0, 0, 0, 0, 0, 0]
     let s := commanded 0x10 0 (mailing desc (onHost (fun h => { h with kslots := [(0, 0)] }) machine))
     s.ctl.runs 0x10 = true ∧ s.mailed desc 16 = true ∧ descOk desc s.ctl.host.nresNow = true ∧
       s.ctl.loaded (ctxOf 0 desc).kslot = true ∧ s.ctl.recordRoom + 64 * (ctxOf 0 desc).barQuota ≤ s.ctl.host.recArea ∧
       ∀ y ∈ s.ctl.ctxs, y.rctx ≠ 1) ∧
    (let desc : List Word := List.replicate 16 (BitVec.ofNat 64 (2 ^ 64 - 1))
     let s := commanded 0x10 0 (mailing desc machine)
     s.ctl.runs 0x10 = true ∧ s.mailed desc 16 = true ∧ descOk desc s.ctl.host.nresNow = false) ∧
    (let s := commanded 0x11 0 machine
     s.ctl.runs 0x11 = true ∧ s.ctl.arg 0 = wd 0 ∧ s.ctl.ctxs.find? (fun y => y.rctx == 0) = some placeCtx ∧ (∀ y ∈ s.ctl.ctxs, y.rctx ≠ 1) ∧
       (s.ctl.pagesOf placeCtx).length < 2 ^ 63 ∧ (∀ g ∈ s.ctl.groups, g.major.toNat < 2 ^ 63) ∧ ∀ n ∈ s.ctl.tree, n.major.toNat < 2 ^ 63) := by
  decide

def rangeDesc : List Word := [0x11000, 0x10C00000001, 0x10100, 9, 0x10000, 0, 0, 0]

/-- Two mapped pages and a generator header; and these words in the buffer. -/
def declaring (ws : List Word) : State :=
  commanded 0x13 0 (mailing ws (applyAll tabled (updBytes (dmLoc 0x4088) [0x7B, 0x18, 1] ++ updBytes (dmLoc 0x1014A) [1])))

/-- Attributes of a device range: with clean lines, of a live tile that becomes unsealed, and of a virgin one that is sealed again. -/
theorem test_meets_attributes :
    (let s := onCtl (fun c => { c with tiles := [{ c.tile 64 with minor := 3, cipher := List.replicate 1024 7 }] }) (commanded 0x12 0 machine)
     s.ctl.runs 0x12 = true ∧ offOk 0x10000 = true ∧ (∀ x ∈ s.ctl.cached, x.dirty = false) ∧ (s.ctl.tile (0x10000 / 1024)).minor ≠ 0 ∧
       s.ctl.host.unsealed.contains (0x10000 / 65536) = false) ∧
    (let s := onHost (fun h => { h with unsealed := [1] }) (commanded 0x12 0 machine)
     s.ctl.runs 0x12 = true ∧ (∀ x ∈ s.ctl.cached, x.dirty = false) ∧ (s.ctl.tile (0x10000 / 1024)).minor = 0 ∧
       s.ctl.host.unsealed.contains (0x10000 / 65536) = true) := by decide

/-- A range that is declared, one that is not; a range that is removed, and one that is busy. -/
theorem test_meets_ranges :
    (∀ ws ∈ [rangeDesc, List.replicate 8 0],
      let s := declaring ws
      s.ctl.runs 0x13 = true ∧ s.ctl.ctxs.find? (fun x => x.rctx == 0) = some (s.ctl.ctx 0) ∧ s.mailed ws 8 = true) ∧
    (declaring rangeDesc).rangeStatus ((declaring rangeDesc).ctl.ctx 0) rangeDesc = 0 ∧
    (let s := declaring (List.replicate 8 0); s.rangeStatus (s.ctl.ctx 0) (List.replicate 8 0) ≠ 0) ∧
    (let s := commanded 0x13 0 (ranging machine)
     s.ctl.runs 0x13 = true ∧ s.ctl.ctxs.find? (fun x => x.rctx == 0) = some (s.ctl.ctx 0) ∧
       (s.ctl.ctx 0).ranges.find? (fun q => q.num == prange.num) = some prange ∧ s.rangeBusy 0 prange = false ∧
       (onCtl (fun c => { c with waits := [default] }) s).rangeBusy 0 prange = true) := by decide

/-- The header of a descriptor lies in the cache, or nowhere. -/
theorem test_meets_declared_range :
    Runs (readSealed 0 0x10100 128) (declaring rangeDesc) .ok (declaring rangeDesc) ∧
    ∃ h, h ≠ .wait ∧ Runs (readSealed 0 0 128) (declaring (List.replicate 8 0)) h (declaring (List.replicate 8 0)) :=
  ⟨fun log => ⟨log, readSealed_cached log (by decide)⟩, .ok, by decide, fun log => ⟨log, readSealed_cached log (by decide)⟩⟩

/-- A wait that is broken; no wait, one that has been met, and no team. -/
theorem test_meets_broken_waits :
    (let k : Park := { parked with reported := true }
     let s := commanded 0x20 0 (onPath (fun p => { p with park := some k }) machine)
     s.ctl.runs 0x20 = true ∧ s.ctl.hasTeam 0 = true ∧ ((s.ctl.team 0).party (.group 0)).broken = some (s.pathOf path0, k) ∧
       s.ctl.stands { team := 0, who := .group 0, pid := (s.pathOf path0).pid } = true ∧ (s.pathOf path0).park = some k ∧
       s.parkMet path0 k = false) ∧
    (let s := commanded 0x20 0 machine
     s.ctl.runs 0x20 = true ∧ s.ctl.hasTeam 0 = true ∧ ((s.ctl.team 0).party (.group 0)).broken = none ∧ s.ctl.hasTeam 1 = false) ∧
    (let k : Park := { parked with kind := .counter 0 0, reported := true }
     let s := commanded 0x20 0 (onPath (fun p => { p with park := some k }) machine)
     ((s.ctl.team 0).party (.group 0)).broken = some (s.pathOf path0, k) ∧ s.parkMet path0 k = true) := by decide

/-- A serviced team, and one that is not; a buffer; a command that has done its work, and an idle mailbox. -/
theorem test_meets_host_services :
    (let s := commanded 0x21 0 (onTeam (fun t => { t with phase := .serviced, service := some aService }) machine)
     s.ctl.runs 0x21 = true ∧ s.ctl.hasTeam 0 = true ∧ (s.ctl.team 0).phase = .serviced ∧ (s.ctl.team 0).service = some aService ∧
       s.ctl.stands { team := 0, who := aService.who, pid := aService.pid } = true ∧ ∃ x ∈ s.ctl.ctxs, x.rctx = (s.ctl.team 0).rctx) ∧
    (let s := commanded 0x21 0 machine
     s.ctl.runs 0x21 = true ∧ (s.ctl.team 0).phase ≠ .serviced) ∧
    (let s := commanded 0x30 0x1000 machine
     s.ctl.runs 0x30 = true ∧ s.ctl.host.mailbox.buf = wd 0x1000) ∧
    (let s := onHost (fun h => { h with mailbox := { h.mailbox with ran := true } }) (commanded 0x30 0x1000 machine)
     s.ctl.host.mailbox.busy ≠ none ∧ s.ctl.host.mailbox.ran = true) ∧
    machine.ctl.host.mailbox.busy = none := by decide

theorem test_meets_host_services_wf : (commanded 0x30 0x1000 machine).wf := wf_onCtl _ machine machine_wf

/-- A context with a submission in host memory: a record with its header at 0x10100. -/
def submitting (bs : List Byte) : State :=
  onCtx (fun c => { c with subBase := 0, cplBase := 0x2000, ringLog := 4, subDoor := 1 })
    (applyAll tabled (updBytes (dmLoc 0x1014A) [1] ++ updBytes (dmLoc 0x4081) [9] ++ updBytes { sp := .hm, key := 0 } bs ++ updBytes { sp := .hm, key := 0x24 } [1] ++
      updBytes { sp := .hm, key := 0x30 } (List.replicate 16 0xFF)))

theorem submitting_wf (bs : List Byte) : (submitting bs).wf :=
  wf_onCtx _ _ (wf_updAll (updBytes (dmLoc 0x1014A) [1] ++ updBytes (dmLoc 0x4081) [9] ++ updBytes { sp := .hm, key := 0 } bs ++ updBytes { sp := .hm, key := 0x24 } [1] ++
      updBytes { sp := .hm, key := 0x30 } (List.replicate 16 0xFF)) tabled tabled_wf)

abbrev ringWords (bs : List Byte) : List Word :=
  (List.range 8).map (fun i => wd ((submitting bs).load (Loc.plus { sp := .hm, key := 0 } (8 * i)) 8))

theorem test_meets_submission_refused :
    (submitting [1]).ctl.canTake ((submitting [1]).ctl.ctx 0) = true ∧
    Runs (submitRecord 0 (ringWords [1])) (submitting [1]) (.ok (recordStatus (ringWords [1]) [] 0, none)) (submitting [1]) ∧
    recordStatus (ringWords [1]) [] 0 ≠ 0 := ⟨by decide, fun log => ⟨log, rfl⟩, by decide⟩


abbrev sub1 : State := submitting [0, 1, 1]

abbrev subHdr : List Word := lineOf sub1 0x10100 ++ (lineOf sub1 0x10140 ++ [])

theorem submitBlocks_step {rctx va n : Nat} {l : Loc} {ws : List Word} {s : State} {log : List Upd}
    (h1 : deviceReach 0 rctx va { rd := true, wr := false, x := false } { st := s, log := log } = (.ok l, { st := s, log := log }))
    (h2 : submitBlocks rctx (va + 64) n { st := s, log := log } = (.ok ws, { st := s, log := log })) :
    submitBlocks rctx va (n + 1) { st := s, log := log } =
      (.ok ((List.range 8).map (fun i => wd (s.load (l.plus (8 * i)) 8)) ++ ws), { st := s, log := log }) := by
  simp only [submitBlocks, bind_run, h1, h2, getS_run, pure_run]

/-- A submission whose record is in order, with the state after its number is drawn. -/
theorem test_meets_submission :
    sub1.wf ∧ sub1.ctl.canTake (sub1.ctl.ctx 0) = true ∧ sub1.ctl.ctxs.find? (fun x => x.rctx == 0) = some (sub1.ctl.ctx 0) ∧
    ∃ (q : Rec) (s1 : State), s1.wf ∧ s1.ctl.ctxs = sub1.ctl.ctxs ∧ q.rctx = 0 ∧
      Runs (submitRecord 0 (ringWords [0, 1, 1])) sub1 (.ok (0, some q)) s1 := by
  refine ⟨submitting_wf _, by decide, by decide,
    recordOf sub1.ctl.nextId 0 (wfld ((ringWords [0, 1, 1]).getD 5 0) 3 0) (ringWords [0, 1, 1]) subHdr [] none none,
    { sub1 with ctl := { sub1.ctl with nextId := sub1.ctl.nextId + 1 } }, wf_ctl _ _ (submitting_wf _), rfl, rfl, fun log => ⟨.ctl { sub1.ctl with nextId := sub1.ctl.nextId + 1 } :: log, ?_⟩⟩
  have hb : submitBlocks 0 0x10100 2 { st := sub1, log := log } = (.ok subHdr, { st := sub1, log := log }) :=
    submitBlocks_step (line_at (s := sub1) (a := 0x10100) (by decide) log) (submitBlocks_step (line_at (s := sub1) (a := 0x10140) (by decide) log) rfl)
  have h0 : ((ringWords [0, 1, 1]).getD 0 0).toNat = 0x10100 := by decide
  have h1 : ((ringWords [0, 1, 1]).getD 1 0).toNat = 0 := by decide
  have h2 : (ringWords [0, 1, 1]).getD 2 0 = 0 := by decide
  have h3 : (ringWords [0, 1, 1]).getD 3 0 = 0 := by decide
  have h4 : recordStatus (ringWords [0, 1, 1]) subHdr (sub1.ctl.ctx 0).tbn = 0 := by decide
  have h5 : sub1.ctl.queueFull 0 = false := by decide
  have hz : submitBlocks 0 0 0 { st := sub1, log := log } = (.ok [], { st := sub1, log := log }) := rfl
  unfold submitRecord
  rw [h0, h1, h2, h3]
  generalize ringWords [0, 1, 1] = ws at *
  simp [bind_run, hb, hz, getC_run, h4, h5, submitJoin, freshId, map_run]
  rfl

def noFails : BringupFail := { dies := 0, links := 0, stks := 0, chans := 0, fabric := 0 }

/-- The mailbox asks for a power state from one from which it can be entered, and from one from which it cannot; STANDBY while a team
is not saved. -/
theorem test_meets_power_states :
    (∀ p ∈ ([(0, 1), (1, 0), (1, 2), (2, 1), (3, 0)] : List (Nat × Nat)),
      let s := onCtl (fun c => { c with teams := [] }) (onHost (fun h => { h with pstate := p.2 }) (commanded 0x40 (wd p.1) machine))
      s.ctl.runs 0x40 = true ∧ s.ctl.arg 0 = wd p.1 ∧ s.ctl.host.pstate = p.2 ∧ s.ctl.unsaved = false) ∧
    (let s := onHost (fun h => { h with pstate := 1 }) (commanded 0x40 2 machine)
     s.ctl.runs 0x40 = true ∧ s.ctl.arg 0 = wd 2 ∧ s.ctl.host.pstate = 1 ∧ s.ctl.unsaved = true) ∧
    (let s := commanded 0x40 2 machine
     s.ctl.runs 0x40 = true ∧ s.ctl.arg 0 = wd 2 ∧ ¬((2 = 0 ∧ s.ctl.host.pstate = 1) ∨ (2 = 1 ∧ (s.ctl.host.pstate = 0 ∨ s.ctl.host.pstate = 2)) ∨
       (2 = 2 ∧ s.ctl.host.pstate = 1))) := by decide

/-- A device that is off at a stage of its bring-up, which goes on or has stopped. -/
def raising (stage : Nat) (bringing : Bool) : State := onHost (fun h => { h with stage := stage, faild := if bringing then 0 else 1 }) State.reset

/-- Each stage of bring-up, with and without a failure; bring-up that has stopped; a device that was switched off; one that is ready. -/
theorem test_meets_bringup :
    (∀ n ∈ [2, 3, 4, 5], let h := (raising n true).ctl.host
      h.pstate = 3 ∧ h.devrdy = false ∧ h.bringing = true ∧ h.stage = n ∧ failsAt h.boots n noFails = (0, 0) ∧
        (failsAt h.boots n { noFails with dies := 1 }).1 ≠ 0 ∧ (failsAt h.boots n { noFails with stks := 2 }).2 ≠ 0) ∧
    (let h := (raising 6 true).ctl.host; h.pstate = 3 ∧ h.devrdy = false ∧ h.bringing = true ∧ h.stage = 6 ∧ h.meas.length = 16) ∧
    (let h := (raising 3 false).ctl.host; h.bringing = false ∧ h.stage < 7) ∧
    (let h := (raising 7 false).ctl.host; h.pstate = 3 ∧ h.devrdy = false ∧ 7 ≤ h.stage) ∧ machine.ctl.host.pstate ≠ 3 := by decide

/-- At the first stage what fails is open: no image fails, or one does. -/
theorem test_meets_the_first_stage : State.reset.ctl.host.stage = 1 ∧ State.reset.ctl.host.bringing = true ∧
    ((∀ d, d < 24 → d ∉ badFirmware 0) → failsAt 0 1 noFails = (0, 0)) ∧ (failsAt 0 1 { noFails with dies := 1 }).1 ≠ 0 := by
  refine ⟨by decide, by decide, fun h => ?_, fun h => ?_⟩
  · have hb : badFirmware 0 = [] := List.eq_nil_iff_forall_not_mem.mpr (fun d hd => h d (by simpa using List.mem_of_mem_filter hd) hd)
    simp [failsAt, failDies, badStacks, hb, noFails, failWord, wd]
  · have h1 : ((failDies 0 { noFails with dies := 1 }).getLsbD 0) = false := by
      simp only [failsAt, if_pos] at h
      rw [h]; rfl
    simp [failDies] at h1

/-- The window answers; a context with its doorbells; the fabric block in HOLD without a context and in RUN; the die-link map
in HOLD without a team and in RUN. -/
theorem test_meets_the_window :
    6 ≤ machine.ctl.host.stage ∧ machine.ctl.host.mailbox.busy = none ∧ machine.ctl.host.devrdy = true ∧ machine.ctl.host.pstate ≠ 2 ∧
    machine.ctl.ctxs.find? (fun x => x.rctx == 0) = some placeCtx ∧ machine.ctl.host.pstate ≠ 1 ∧
    (let s := onCtl (fun c => { c with teams := [], ctxs := [] }) (onHost (fun h => { h with pstate := 1 }) machine)
     s.ctl.host.pstate = 1 ∧ s.ctl.host.devrdy = true ∧ s.ctl.ctxs = [] ∧ s.ctl.teams = [] ∧ 6 ≤ s.ctl.host.stage) := by decide

/-- Device memory in the cache that decoder 0 covers under slot 0, in this power state, with these slots loaded. -/
def openHost (p : Nat) (keys : List Nat) : State :=
  onHost (fun h => { h with pstate := p, hdm := [(0x10000, 0x10000, 0)], kslots := keys.map (fun k => (k, 0)) }) (caching machine)

/-- A read and a write that are served; a device in STANDBY, and a slot that holds no key. -/
theorem test_meets_host_accesses :
    let s := openHost 0 [0]
    s.wf ∧ s.ctl.host.devrdy = true ∧ hostRange 0x10000 8 = true ∧ s.ctl.decoderSlot 0x10000 8 = some 0 ∧ s.ctl.host.pstate ≠ 2 ∧
    s.ctl.loaded 0 = true ∧ Runs (hostSeal 0 false (tilePieces 0x10000 8)) s .ok s ∧ Runs (hostSeal 0 true (tilePieces 0x10000 8)) s .ok s ∧
    (openHost 2 [0]).ctl.host.pstate = 2 ∧ (openHost 0 []).ctl.loaded 0 = false := by
  have ht : tilePieces 0x10000 8 = [(0x10000, 8)] := by decide
  refine ⟨wf_onCtl _ _ (wf_onCtl _ machine machine_wf), by decide, by decide, by decide, by decide, by decide, fun log => ⟨log, ?_⟩,
    fun log => ⟨log, ?_⟩, by decide, by decide⟩
  · rw [ht]
    simp [hostSeal, bind_run, sealAccess_cached (s := openHost 0 [0]) (pa := 0x10000) (slot := 0) (by decide), pure_run]
  · rw [ht]
    simp [hostSeal, bind_run, sealAccess_dirty (s := openHost 0 [0]) (pa := 0x10000) (slot := 0) (by decide) (by decide) (by decide), pure_run]

/-- A tile that is quarantined. -/
def failing : State := onCtl (fun c => { c with tiles := [{ c.tile 64 with quarantined := true }] }) (openHost 0 [0])

theorem test_meets_failing_host_accesses : failing.ctl.decoderSlot 0x10000 8 = some 0 ∧ failing.ctl.loaded 0 = true ∧
    ∀ w, Runs (hostSeal 0 w (tilePieces 0x10000 8)) failing (.fail 4) failing := by
  refine ⟨by decide, by decide, fun w log => ⟨log, ?_⟩⟩
  have h1 : failing.ctl.resealing 0x10000 = false := by decide
  have h2 : failing.ctl.recordPage (0x10000 / 65536) = false := by decide
  have h3 : (failing.ctl.tile (tileOf 0x10000)).quarantined = true := by decide
  rw [show tilePieces 0x10000 8 = [(0x10000, 8)] from by decide]
  simp [hostSeal, sealAccess, sealTry, bind_run, map_run, getC_run, onlyIf_run, h1, h2, h3, pure_run]

/-- A link that retrains, with a raster record that waits for it and without one, and a link that does not. -/
theorem test_meets_links : LinkId.boundary 3 ∉ machine.ctl.retrain ∧
    LinkId.boundary 3 ∈ (onCtl (fun c => { c with retrain := [.boundary 3] }) machine).ctl.retrain ∧
    (let c := (onCtl (fun c => { c with retrain := [.boundary 0] }) (streaming [{ aPrim with dies := [(1, 0)] }] machine)).ctl
     LinkId.boundary 0 ∈ c.retrain ∧ c.rasterWaits 0 0 = true ∧ c.rasterWaits 0 3 = false) := by decide

/-- The window answers thresholds from stage 6 on; NRES is taken at the end of stage 5. -/
theorem test_meets_thresholds : 6 ≤ machine.ctl.host.stage ∧ machine.ctl.host.hangWarn < 1001 ∧ 999 < machine.ctl.host.hangReport ∧
    (raising 5 true).ctl.host.bringing = true ∧ (raising 5 true).ctl.host.stage = 5 ∧ noFails.dies = 0 ∧ failWord noFails = 0 := by decide

/-- A path whose next instruction is in memory. -/
def issuing : State := onCtl (fun c => { c with agenda := [.issue path0 0 1] })
  (caching (place State.reset (encode (.nop (ff 0 0 0 0 0 false .none)))))

theorem test_meets_a_step :
    let c0 := issuing.ctl
    let s0 : State := { issuing with ctl := ({ c0 with agenda := [] } : Ctl).elapse 1 }
    issuing.ctl.agenda = .issue path0 0 1 :: [] ∧ s0.mayIssue path0 = true ∧
      FetchFinds s0 s0 path0 0x10000 0 8 (curOf (.nop (ff 0 0 0 0 0 false .none))).bits (dmLoc 0x10000) (s0.loadBytes (dmLoc 0x10000) 32) := by
  intro c0 s0
  have hc : s0.ctl.inCache (s0.ctl.ctx (s0.ctl.team path0.team).rctx).kslot 0x10000 = true := by decide
  have he : (s0.ctl.team path0.team).engine path0.who = .core 0 0 := by decide
  have hr : (s0.ctl.team path0.team).rctx = 0 := by decide
  have hp : (s0.pl (s0.ctl.team path0.team).uid (s0.ctl.homeOf path0 (s0.pathOf path0)) == 0) = true := by decide
  have hn : BitVec.toNat (65536 : Word) = 65536 := by decide
  have hm : s0.ctl.migrating 0 65536 = false := by decide
  have ht : ∀ log, Machine.translate ((s0.ctl.team path0.team).engine path0.who) (s0.ctl.team path0.team).rctx (BitVec.toNat (65536 : Word))
      (s0.pl (s0.ctl.team path0.team).uid (s0.ctl.homeOf path0 (s0.pathOf path0)) == 0) { rd := false, wr := false, x := true }
      { st := s0, log := log } = (.ok (dmLoc 65536), { st := s0, log := log }) := by
    intro log
    rw [he, hr, hp, hn]
    simp only [Machine.translate, translateNow, bind_run, getC_run, hm]
    rfl
  refine ⟨rfl, by decide, by decide, by decide, ⟨s0, fun log => ⟨log, ht log⟩, ?_⟩, by decide, by decide, by decide, by decide⟩
  rw [if_pos (show (dmLoc 65536).sp = .dm from rfl)]
  exact fun log => ⟨log, sealAccess_cached hc log⟩

/-- The path may not issue: its team is saved. -/
theorem test_meets_a_step_without_issue :
    let s := onTeam (fun t => { t with phase := .saved }) issuing
    s.ctl.agenda = .issue path0 0 1 :: [] ∧
      ({ s with ctl := ({ s.ctl with agenda := [] } : Ctl).elapse 1 } : State).mayIssue path0 = false := by decide

/-- A step of the device; in STANDBY, of a unit that is asleep and of one that is not. -/
theorem test_meets_a_device_step : fetched (.clockGate 0 0) = false ∧ machine.ctl.agenda = [] ∧ asleep (.clockGate 0 0) = true ∧
    (onHost (fun h => { h with pstate := 2 }) machine).ctl.host.pstate = 2 ∧ asleep .mailboxCommandComplete = false := by decide

/-- Bytes that decode, and one for each way of being rejected. -/
theorem test_meets_decoding : (Instr.add fAdd).wfb = true ∧ (Instr.add fAdd).fields.isSome = true ∧
    (match decode (encode (.add fAdd)) with | .ok (_, _) => true | .error _ => false) = true ∧
    (3 : Word).toNat % 4 = 3 ∧ 0x3C ≤ ((0x3C0 : Word).toNat / 16) % 64 ∧ 0x28 ≤ ((0x280 : Word).toNat / 16) % 64 := by decide

/-! ### The manual's worked examples -/

/-- "Why the chunk is rounded once" (05): 1 + (2^-24 + 2^-25) is rounded once, to 1 + 2^-23. -/
theorem test_example_chunk :
    chunkFloat 0x3F800000 [(.fin false 1 (-12), .fin false 1 (-12)), (.fin false 1 (-12), .fin false 1 (-13)), (.fin false 0 0, .fin false 0 0)] =
      (0x3F800001, flagNX) := by decide

/-- "Choosing a victim" (09): P4 leaves first; T does not rank above P4, and U not above T. -/
def tierPage (pg pri n : Nat) : Page := { pg := pg, rctx := some 0, pri := pri, n := n, pin := none, owner := none, fast := true }

def victims (ps : List Page) : State := onCtl (fun c => { c with pages := ps }) (onCtx (fun c => { c with stepc := 100 }) machine)

theorem test_example_victim :
    let p := [tierPage 17 2 140, tierPage 18 2 500, tierPage 19 1 105, tierPage 20 1 90, tierPage 21 6 101]
    (victims p).victim 0 = some (tierPage 20 1 90) ∧
    (victims (p.filter (· != tierPage 20 1 90) ++ [tierPage 22 1 130])).victim 0 = some (tierPage 22 1 130) ∧
    (victims []).ctl.below (tierPage 20 1 90) (tierPage 22 1 130) = true ∧ (victims []).ctl.below (tierPage 22 1 130) (tierPage 23 0 101) = false := by
  decide

/-- "An overlapping match counted into a barrier" (10). -/
theorem test_example_match :
    (lzDecode [0x32, 0x61, 0x62, 0x63, 0x02, 0x00, 0x10, 0x64] 8 10).1 = [0x61, 0x62, 0x63, 0x62, 0x63, 0x62, 0x63, 0x62, 0x63, 0x64] := by decide

/-- "One pass through the ramp" (20): the units held in the steps from cycle 0 with engine 2 at demand 16, then without demand. -/
def ramped (d : List Nat) : List Nat :=
  ((d.foldl (fun (a : Slew × List Nat) x =>
    let s := a.1.advance ((List.range 16).map (fun i => if i = 2 then x else 0)) 0
    (s, a.2 ++ [s.grant])) (Slew.init, []))).2

theorem test_example_ramp :
    ramped [16, 16, 16, 16, 16, 16, 16, 16, 16, 0, 0, 0, 0, 0] = [2, 4, 6, 8, 10, 12, 14, 16, 16, 16, 12, 8, 4, 0] ∧
    (ramped [16, 16, 16, 16, 16, 16, 16, 16, 16, 0, 0, 16, 16]).drop 9 = [16, 12, 14, 16] := by decide

/-- "One pixel row of a sheared triangle" (22): the views of pixels 0 to 3, front and back, and the depth of pixel 1 in view 0. -/
def sheared : RTile :=
  { rtile false .held with w := 64, h := 64, nv := 8, b := 0, tx := 0, ty := 0, cull := 0,
                           vs := [{ x := -256, y := 128, d := 0, z := 0x3E800000 }, { x := 768, y := 128, d := -128, z := 0x3F000000 },
                                  { x := -256, y := 1152, d := 0, z := 0x3F400000 }] }

theorem test_example_row :
    (List.range 4).map (fun p => intervalOf ((List.range 8).filter (fun v => sheared.cov p v 1))) = [0x400, 0x200, 0, 0x10000] ∧
    (List.range 4).map (fun p => intervalOf ((List.range 8).filter (fun v => sheared.cov p v (-1)))) = List.replicate 4 0x10000 ∧
    intervalMask 0x400 = 0x1F ∧ depthAt sheared.vs 1 0 0 = 0x3ED00000 := by decide

/-- "Two samplers, one shaded block" (23): the four texels are 2, 3, 10 and 11, and the result is 6.25. -/
theorem test_example_texel :
    (bilinear 64 64 704 256).map (fun t => t.1 + 8 * t.2.1) = [2, 3, 10, 11] ∧
    filterHalf (((bilinear 64 64 704 256).map (·.2.2)).zip [0x4000, 0x4200, 0x4900, 0x4980]) = 0x4640 := by decide

/-- "Four gathers in log2 mode" (28). -/
theorem test_example_gathers :
    let m := [0, 5, 200, 3].foldl Monitor.record (aMon 0)
    (m.count, m.min, m.max) = (4, 0, 200) ∧ (List.range 32).filter (fun b => m.bins.getD b 0 != 0) = [0, 2, 3, 8] := by decide

/-- "One header, admitted, refused and paired" (02). -/
theorem test_example_header :
    let hdr (w r1 : Word) : List Word := [w, 0, 0, 0, 0, 0, 0, 0, 0, 0x20107, 0, r1, 0, 0, 0, 0]
    hdrStatus (hdr 0x0000041100000400 0x6020F) 1 = 0 ∧ hdrStatus (hdr 0x0000041100000400 0xE021F) 1 = 3 ∧
      hdrStatus (hdr 0x0000041900000400 0xE021F) 1 = 0 := by decide

/-- "A filling line and a selvage store" (07): the record of the hit. -/
theorem test_example_hit : hitWord 1 0x400 = 0x400 := by decide

end Sys2Proof.Tests
end

section
/-! SUPPORT. The integer instructions of R67 (majors 0x02 to 0x05): each is the integer frame of R66 over the function that the
statements name for it. -/

namespace Sys2Proof.Machine

section IntegerFrame

variable {i : Instr} {f : Fields} {cur : Cur} {s : State}

/-- The integer frame is the frame of R18 at the width and the sign of MOD.T. -/
theorem registerOnly_of_intAlu {v : Env → Nat → Nat × Nat} (h : Executes i f cur s) (hs : s.wf)
    (hi : exec i s = issueOut i f (fun e => e.intAlu (v e)) s) :
    RegisterOnly i f cur s Env.iw (fun e => intSigned (mfld e.f 3 0)) v :=
  registerOnly_of_alu h hs Env.iw (fun e => intSigned (mfld e.f 3 0)) v hi

/-- An integer instruction without flags: only what its function gives in the state at issue counts. -/
theorem registerOnly_of_intAlu_noFlags {v : Env → Nat → Nat} {g : Nat → Nat} (h : Executes i f cur s) (hs : s.wf)
    (hi : exec i s = issueOut i f (fun e => e.intAlu (fun l => (v e l, 0))) s) (hv : ∀ l, v (envOf s cur f) l = g l) :
    RegisterOnly i f cur s Env.iw (fun e => intSigned (mfld e.f 3 0)) (fun _ l => (g l, 0)) :=
  (registerOnly_of_intAlu h hs hi).congr (fun l => by rw [hv]) (fun _ => rfl)

/-- The frame of the functions of the low w bits: that the model reduces the value mod 2^w first changes nothing. -/
theorem registerOnly_of_bitwise {v : Env → Nat → Nat} {g : Nat → Nat} (h : Executes i f cur s) (hs : s.wf)
    (hi : exec i s = issueOut i f (fun e => e.bitwise (v e)) s) (hv : ∀ l, v (envOf s cur f) l = g l) :
    RegisterOnly i f cur s Env.iw (fun e => intSigned (mfld e.f 3 0)) (fun _ l => (g l, 0)) :=
  (registerOnly_of_intAlu h hs hi).congr (fun l => by simp only [hv, Nat.mod_mod]) (fun _ => rfl)

end IntegerFrame

/-- The case distinction by which the model computes `abs`. -/
theorem abs_eq_ite_neg (a : Int) : |a| = if a < 0 then -a else a := by
  split
  · next ha => exact abs_of_neg ha
  · next ha => exact abs_of_nonneg (not_lt.1 ha)

/-- An instruction of `intRule` issues through the exact frame, with that function of its sources. -/
theorem exec_of_intRule {i : Instr} {f : Fields} {g : Int → Int → Int → Int} (hg : intRule i = some g)
    (hf : i.fields = some f) (s : State) :
    exec i s = issueOut i f (fun e => e.exact (fun l => g (e.ia l) (e.ib l) (e.ic l))) s := by
  cases i with
  | add f' | sub f' | mul f' | mad f' | neg f' =>
    cases hg; cases hf
    rfl
  | min f' =>
    cases hg; cases hf
    simp only [min_def_lt']
    rfl
  | max f' =>
    cases hg; cases hf
    simp only [max_def_lt]
    rfl
  | abs f' =>
    cases hg; cases hf
    simp only [abs_eq_ite_neg]
    rfl
  | _ => cases hg

/-- An instruction of `bitRule` is register-only with the rule's value and no flag. The model reduces most values mod 2^w
itself (that of `clz` too, where it writes a `match` for the rule's map of the highest set bit); the last four it leaves as
they are. -/
theorem registerOnly_of_bitRule {i : Instr} {f : Fields} {cur : Cur} {s : State} {g : Nat → Nat}
    (hg : ∀ l, bitRule (envOf s cur f) l i = some (g l)) (h : Executes i f cur s) (hs : s.wf) :
    RegisterOnly i f cur s Env.iw (fun e => intSigned (mfld e.f 3 0)) (fun _ l => (g l, 0)) := by
  have hf := h.fields_eq
  cases i with
  | and f' | or f' | xor f' | not f' | sel f' | mov f' | ldi f' | shl f' | shr f' | rot f' | bfi f' | popc f' | ctz f'
  | brev f' =>
    cases hf
    exact registerOnly_of_bitwise h hs rfl (fun l => Option.some.inj (hg l))
  | clz f' =>
    cases hf
    refine registerOnly_of_bitwise h hs rfl (fun l => Eq.trans ?_ (Option.some.inj (hg l)))
    cases (bitsIn ((envOf s cur f).na l) (envOf s cur f).iw).getLast? <;> rfl
  | mulhi f' | iota f' | sra f' | bfe f' =>
    cases hf
    exact registerOnly_of_intAlu_noFlags h hs rfl (fun l => Option.some.inj (hg l))
  | _ => cases hg 0

/-- Settles O7: each of the eight issues through the exact frame of R18. -/
theorem integerArithmeticWrapsOrClamps : Obligations.IntegerArithmeticWrapsOrClamps := by
  intro i f cur s g hg h hs
  exact registerOnly_of_intAlu h hs (exec_of_intRule hg h.fields_eq s)

/-- Settles O8, instruction by instruction in `registerOnly_of_bitRule`. -/
theorem integerBitFunctions : Obligations.IntegerBitFunctions := by
  intro i f cur s g hg h hs
  exact registerOnly_of_bitRule hg h hs

end Sys2Proof.Machine
end

section
/-! SUPPORT. The encoding of instructions (R40 to R42, R48, R49): the opcode table read in both directions, base words as packed
fields, bytes as numbers, and from these what `decode` answers of bytes and what it rejects. -/

namespace Sys2Proof

open Sys2Proof.Machine

/-! ### The opcode table -/

/-- The opcode and the fields of an instruction that words name are decoded to it (R48). -/
theorem ofOpcode_opcode (i : Instr) : Laws.Named.Statement i := by
  cases i with
  | atms op f => exact Laws.Named.atms op f
  | atg op f => exact Laws.Named.atg op f
  | redg op f => exact Laws.Named.redg op f
  | tryw f => exact Laws.Named.tryw f
  | trywC f => exact Laws.Named.trywC f
  | _ =>
    intro _ f hf
    cases hf <;> rfl

/-- i is the instruction with these fields that the opcode (mj, mn) names. -/
def Instr.Encodes (i : Instr) (mj mn : Nat) (f : Fields) : Prop :=
  i.fields = some f ∧ i.opcode = (mj, mn) ∧ i.opNamed = true

theorem ofMajor12_encodes {mn : BitVec 6} {f : Fields} {i : Instr} (h : ofMajor12 mn f = some i) :
    i.Encodes 0x12 mn.toNat f := by
  simp only [ofMajor12, Option.ite_none_right_eq_some, Option.some.injEq] at h
  obtain ⟨h, rfl⟩ := h
  exact ⟨rfl, rfl, by simpa [Instr.opNamed, BitVec.le_def] using h⟩

theorem ofMajor13_encodes {mn : BitVec 6} {f : Fields} {i : Instr} (h : ofMajor13 mn f = some i) :
    i.Encodes 0x13 mn.toNat f := by
  unfold ofMajor13 at h
  split at h
  case h_6 hm =>
    rw [hm]
    split at h
    · next hc => cases h; exact ⟨rfl, rfl, hc⟩
    · next hc => cases h; exact ⟨rfl, rfl, by simpa [Instr.opNamed] using hc⟩
  all_goals cases h <;> exact ⟨rfl, Prod.ext rfl (Eq.symm ‹_›), rfl⟩

theorem ofMajor17_encodes {mn : BitVec 6} {f : Fields} {i : Instr} (h : ofMajor17 mn f = some i) :
    i.Encodes 0x17 mn.toNat f := by
  unfold ofMajor17 at h
  split at h
  case h_1 hm => cases h; exact ⟨rfl, Prod.ext rfl hm.symm, rfl⟩
  case h_2 hm => cases h; exact ⟨rfl, Prod.ext rfl hm.symm, rfl⟩
  case h_3 =>
    split at h
    · next hg => cases h; exact ⟨rfl, rfl, by simpa [Instr.opNamed, BitVec.le_def] using hg⟩
    · split at h
      · next hr => cases h; exact ⟨rfl, rfl, by simpa [Instr.opNamed, BitVec.le_def] using hr⟩
      · cases h

/-- The decoder's table names no instruction but by its own opcode, with the fields it was given. -/
theorem ofOpcode_encodes {mj mn : BitVec 6} {f : Fields} {i : Instr} (h : Instr.ofOpcode mj mn f = some i) :
    i.Encodes mj.toNat mn.toNat f := by
  unfold Instr.ofOpcode at h
  split at h
  case h_19 hj => exact hj ▸ ofMajor12_encodes h
  case h_20 hj => exact hj ▸ ofMajor13_encodes h
  case h_24 hj => exact hj ▸ ofMajor17_encodes h
  case h_41 => cases h
  all_goals
    rename_i hj
    rw [hj]
    simp only [ofMajor00, ofMajor01, ofMajor02, ofMajor03, ofMajor04, ofMajor05, ofMajor06, ofMajor07, ofMajor08, ofMajor09,
      ofMajor0A, ofMajor0B, ofMajor0C, ofMajor0D, ofMajor0E, ofMajor0F, ofMajor10, ofMajor11, ofMajor14, ofMajor15, ofMajor16,
      ofMajor18, ofMajor19, ofMajor1A, ofMajor1B, ofMajor1C, ofMajor1D, ofMajor1E, ofMajor1F, ofMajor20, ofMajor21, ofMajor22,
      ofMajor23, ofMajor24, ofMajor25, ofMajor26, ofMajor27] at h
    split at h <;> cases h <;> exact ⟨rfl, Prod.ext rfl (Eq.symm ‹_›), rfl⟩

/-- Whether an opcode names an instruction does not depend on the fields. -/
theorem ofOpcode_isSome (mj mn : BitVec 6) (f g : Fields) :
    (Instr.ofOpcode mj mn f).isSome = (Instr.ofOpcode mj mn g).isSome := by
  unfold Instr.ofOpcode
  split
  case h_19 => unfold ofMajor12; split <;> rfl
  case h_20 =>
    unfold ofMajor13
    split
    case h_6 => split <;> split <;> rfl
    all_goals rfl
  case h_24 =>
    unfold ofMajor17
    split
    case h_3 =>
      split
      · rfl
      · split <;> rfl
    all_goals rfl
  case h_41 => rfl
  all_goals
    simp only [ofMajor00, ofMajor01, ofMajor02, ofMajor03, ofMajor04, ofMajor05, ofMajor06, ofMajor07, ofMajor08, ofMajor09,
      ofMajor0A, ofMajor0B, ofMajor0C, ofMajor0D, ofMajor0E, ofMajor0F, ofMajor10, ofMajor11, ofMajor14, ofMajor15, ofMajor16,
      ofMajor18, ofMajor19, ofMajor1A, ofMajor1B, ofMajor1C, ofMajor1D, ofMajor1E, ofMajor1F, ofMajor20, ofMajor21, ofMajor22,
      ofMajor23, ofMajor24, ofMajor25, ofMajor26, ofMajor27]
    split <;> rfl

/-- Majors from 0x28 on name nothing (R49). -/
theorem ofOpcode_eq_none {mj : BitVec 6} (h : 0x28 ≤ mj.toNat) (mn : BitVec 6) (f : Fields) : Instr.ofOpcode mj mn f = none := by
  unfold Instr.ofOpcode
  split
  case h_41 => rfl
  all_goals omega

/-! ### Base words -/

theorem toNat_append_eq {m n : Nat} (x : BitVec m) (y : BitVec n) : (x ++ y).toNat = x.toNat * 2 ^ n + y.toNat := by
  rw [BitVec.toNat_append, Nat.shiftLeft_eq, ← Nat.shiftLeft_eq, Nat.shiftLeft_add_eq_or_of_lt y.isLt]

theorem field_toNat (w : Word) (lo n : Nat) : (field w lo n).toNat = w.toNat / 2 ^ lo % 2 ^ n := by
  rw [field, BitVec.extractLsb'_toNat, Nat.shiftRight_eq_div_pow]

/-- A base word as a number: its fields at the places of R41. -/
theorem pack_toNat (mj mn : BitVec 6) (f : Fields) : (pack mj mn f).toNat =
    f.mod.toNat * 2 ^ 58 + f.sc.toNat * 2 ^ 49 + f.sb.toNat * 2 ^ 40 + f.sa.toNat * 2 ^ 31 + f.dst.toNat * 2 ^ 22 +
      f.ws.toNat * 2 ^ 21 + f.kn.toNat * 2 ^ 20 + f.km.toNat * 2 ^ 16 + mn.toNat * 2 ^ 10 + mj.toNat * 2 ^ 4 +
      f.u.toNat * 2 ^ 3 + f.ch.toNat * 2 ^ 2 + f.long.len.toNat := by
  simp only [pack, toNat_append_eq, BitVec.toNat_ofBool]
  omega

theorem getLsbD_eq_iff (w : Word) (i : Nat) (b : Bool) : w.getLsbD i = b ↔ w.toNat / 2 ^ i % 2 = b.toNat := by
  rw [BitVec.getLsbD, ← Nat.toNat_testBit]
  cases w.toNat.testBit i <;> cases b <;> decide

/-- The parts of a packed word are what was packed. -/
theorem fields_pack (mj mn : BitVec 6) (f : Fields) :
    field (pack mj mn f) 0 2 = f.long.len ∧ field (pack mj mn f) 4 6 = mj ∧ field (pack mj mn f) 10 6 = mn ∧
      unpack (pack mj mn f) f.long = f := by
  obtain ⟨mod, sc, sb, sa, dst, ws, kn, km, u, ch, long⟩ := f
  have hp := pack_toNat mj mn ⟨mod, sc, sb, sa, dst, ws, kn, km, u, ch, long⟩
  generalize pack mj mn ⟨mod, sc, sb, sa, dst, ws, kn, km, u, ch, long⟩ = w at hp ⊢
  have := mod.isLt; have := sc.isLt; have := sb.isLt; have := sa.isLt; have := dst.isLt; have := km.isLt
  have := mj.isLt; have := mn.isLt; have := long.len.isLt
  have := ws.toNat_lt; have := kn.toNat_lt; have := u.toNat_lt; have := ch.toNat_lt
  simp only [unpack, Fields.mk.injEq, and_true, BitVec.toNat_eq, field_toNat, getLsbD_eq_iff] at hp ⊢
  omega

theorem ofBool_getLsbD (w : Word) (i : Nat) : BitVec.ofBool (w.getLsbD i) = field w i 1 := by
  apply BitVec.eq_of_toNat_eq
  rw [field_toNat, BitVec.toNat_ofBool, ← (getLsbD_eq_iff w i _).1 rfl, pow_one]

theorem field_append_field (w : Word) {hi lo m n : Nat} (h : hi = lo + n) : field w hi m ++ field w lo n = field w lo (m + n) :=
  BitVec.extractLsb'_append_extractLsb'_eq_extractLsb' h

/-- A base word is its parts packed again. -/
theorem pack_unpack {w : Word} {long : Long} (h : long.len = field w 0 2) :
    pack (field w 4 6) (field w 10 6) (unpack w long) = w := by
  have hw : field w 0 64 = w := BitVec.extractLsb'_eq_self
  refine Eq.trans ?_ hw
  simp only [pack, unpack, h, ofBool_getLsbD, field_append_field]

/-! ### Bytes and numbers -/

@[simp] theorem length_leBytes (x n : Nat) : (leBytes x n).length = n := by
  induction n generalizing x with
  | zero => rfl
  | succ n ih => simp [leBytes, ih]

theorem leNat_leBytes (x n : Nat) : leNat (leBytes x n) = x % 256 ^ n := by
  induction n generalizing x with
  | zero => rw [pow_zero, Nat.mod_one]; rfl
  | succ n ih =>
    show (BitVec.ofNat 8 x).toNat + 256 * leNat (leBytes (x / 256) n) = x % 256 ^ (n + 1)
    rw [ih, BitVec.toNat_ofNat, Nat.pow_succ' (n := n), Nat.mod_mul]

theorem leBytes_leNat (bs : List Byte) : leBytes (leNat bs) bs.length = bs := by
  induction bs with
  | nil => rfl
  | cons b r ih =>
    have hb := b.isLt
    have hd : (b.toNat + 256 * leNat r) / 256 = leNat r := by omega
    have hm : BitVec.ofNat 8 (b.toNat + 256 * leNat r) = b := BitVec.eq_of_toNat_eq (by simp; omega)
    rw [List.length_cons, leNat, leBytes, hd, hm, ih]

theorem leNat_lt (bs : List Byte) : leNat bs < 256 ^ bs.length := by
  rw [← leBytes_leNat bs, leNat_leBytes, length_leBytes]
  exact Nat.mod_lt _ (Nat.pow_pos (by decide))

theorem ofNat_leNat_leBytes {x : Word} {n : Nat} (h : x.toNat < 256 ^ n) : BitVec.ofNat 64 (leNat (leBytes x.toNat n)) = x := by
  rw [leNat_leBytes, Nat.mod_eq_of_lt h, BitVec.ofNat_toNat, BitVec.setWidth_eq]

theorem toNat_ofNat_leNat {bs : List Byte} (h : bs.length ≤ 8) : (BitVec.ofNat 64 (leNat bs)).toNat = leNat bs := by
  rw [BitVec.toNat_ofNat]
  exact Nat.mod_eq_of_lt (lt_of_lt_of_le (leNat_lt bs) (Nat.pow_le_pow_right (by decide) h))

/-! ### The upper bits -/

/-- Bits [127:64] of a form, zero where it has none (R42). -/
def Long.upper : Long → Word
  | .none => 0
  | .imm32 x => x.setWidth 64
  | .ext x => x

theorem encodeWords_eq {i : Instr} {f : Fields} (h : i.fields = some f) :
    encodeWords i = some (pack (BitVec.ofNat 6 i.opcode.1) (BitVec.ofNat 6 i.opcode.2) f, f.long.upper) := by
  rw [encodeWords, h]
  cases hl : f.long <;> simp [Long.upper, hl]

theorem encode_eq {i : Instr} {f : Fields} (h : i.fields = some f) :
    encode i = leBytes (pack (BitVec.ofNat 6 i.opcode.1) (BitVec.ofNat 6 i.opcode.2) f).toNat 8 ++
      leBytes f.long.upper.toNat (lenBytes f.long.len - 8) := by
  rw [encode, encodeWords_eq h, h]

theorem longOf_upper (l : Long) : longOf l.len l.upper = some l := by
  cases l with
  | none => rfl
  | imm32 x => simp [Long.len, Long.upper, longOf]
  | ext x => rfl

theorem upper_lt (l : Long) : l.upper.toNat < 256 ^ (lenBytes l.len - 8) := by
  cases l with
  | none => decide
  | imm32 x =>
    have := x.isLt
    simp [Long.len, Long.upper, lenBytes]; omega
  | ext x =>
    have := x.isLt
    simp [Long.len, Long.upper, lenBytes]; omega

theorem len_eq_of_longOf {len : BitVec 2} {u : Word} {l : Long} (h : longOf len u = some l) : l.len = len := by
  unfold longOf at h
  split at h
  · next h0 => cases h; exact h0.symm
  · split at h
    · next h1 => cases h; exact h1.symm
    · split at h
      · next h2 => cases h; exact h2.symm
      · cases h

/-- What follows a base word holds the upper bits, where those are no more than the form has. -/
theorem upper_of_longOf {len : BitVec 2} {u : Word} {l : Long} (h : longOf len u = some l)
    (hu : u.toNat < 256 ^ (lenBytes len - 8)) : l.upper = u := by
  unfold longOf at h
  split at h
  · next h0 =>
    cases h
    subst h0
    exact (BitVec.eq_of_toNat_eq (by simp [lenBytes] at hu; simp [Long.upper, hu])).symm
  · split at h
    · next h1 =>
      cases h
      subst h1
      refine BitVec.eq_of_toNat_eq ?_
      simp [lenBytes] at hu
      simp [Long.upper]; omega
    · split at h
      · cases h; rfl
      · cases h

/-! ### Decoding -/

theorem decodeWords_ok_iff {w u : Word} {i : Instr} : decodeWords w u = .ok i ↔
    ∃ l, longOf (field w 0 2) u = some l ∧ Instr.ofOpcode (field w 4 6) (field w 10 6) (unpack w l) = some i := by
  unfold decodeWords
  cases longOf (field w 0 2) u with
  | none => simp
  | some l =>
    simp only [Option.some.injEq, exists_eq_left']
    cases Instr.ofOpcode (field w 4 6) (field w 10 6) (unpack w l) <;> simp

theorem decodeWords_pack {i : Instr} {f : Fields} (hf : i.fields = some f) (hn : i.opNamed = true) :
    decodeWords (pack (BitVec.ofNat 6 i.opcode.1) (BitVec.ofNat 6 i.opcode.2) f) f.long.upper = .ok i := by
  obtain ⟨h0, h4, h10, hup⟩ := fields_pack (BitVec.ofNat 6 i.opcode.1) (BitVec.ofNat 6 i.opcode.2) f
  refine decodeWords_ok_iff.2 ⟨f.long, ?_, ?_⟩
  · rw [h0, longOf_upper]
  · rw [h4, h10, hup]
    exact ofOpcode_opcode i hn f hf

theorem eight_le_lenBytes (len : BitVec 2) : 8 ≤ lenBytes len := by
  unfold lenBytes
  split
  · decide
  · split <;> decide

theorem lenBytes_le_sixteen (len : BitVec 2) : lenBytes len ≤ 16 := by
  unfold lenBytes
  split
  · decide
  · split <;> decide

/-- What `decode` reads of the bytes of a base word and the upper bits of its form. -/
theorem decode_words {w u : Word} {i : Instr} {n : Nat} (rest : List Byte) (hn : lenBytes (field w 0 2) = n)
    (hu : u.toNat < 256 ^ (n - 8)) (h : decodeWords w u = .ok i) :
    decode (leBytes w.toNat 8 ++ leBytes u.toNat (n - 8) ++ rest) = .ok (i, rest) := by
  have h8 : 8 ≤ n := hn ▸ eight_le_lenBytes (field w 0 2)
  have hw : BitVec.ofNat 64 (leNat (leBytes w.toNat 8)) = w := ofNat_leNat_leBytes w.isLt
  have hl : (leBytes w.toNat 8 ++ leBytes u.toNat (n - 8)).length = n := by
    rw [List.length_append, length_leBytes, length_leBytes]; omega
  have ht : (leBytes w.toNat 8 ++ leBytes u.toNat (n - 8) ++ rest).take 8 = leBytes w.toNat 8 := by simp
  have hd : ((leBytes w.toNat 8 ++ leBytes u.toNat (n - 8) ++ rest).drop 8).take (n - 8) = leBytes u.toNat (n - 8) := by simp
  have hr : (leBytes w.toNat 8 ++ leBytes u.toNat (n - 8) ++ rest).drop n = rest := List.drop_left' hl
  have hlen : n ≤ (leBytes w.toNat 8 ++ leBytes u.toNat (n - 8) ++ rest).length := by
    rw [List.length_append, hl]; exact Nat.le_add_right _ _
  simp only [decode, ht, hw, hn, hd, ofNat_leNat_leBytes hu, h, hr]
  rw [if_neg (by omega), if_neg (by omega)]

theorem encode_of_decodeWords {w u : Word} {i : Instr} (hu : u.toNat < 256 ^ (lenBytes (field w 0 2) - 8))
    (h : decodeWords w u = .ok i) :
    encode i = leBytes w.toNat 8 ++ leBytes u.toNat (lenBytes (field w 0 2) - 8) := by
  obtain ⟨l, hl, hi⟩ := decodeWords_ok_iff.1 h
  obtain ⟨hf, hop, -⟩ := ofOpcode_encodes hi
  have hlen := len_eq_of_longOf hl
  rw [encode_eq hf, hop]
  simp only [BitVec.ofNat_toNat, BitVec.setWidth_eq]
  rw [pack_unpack hlen]
  show leBytes w.toNat 8 ++ leBytes l.upper.toNat (lenBytes l.len - 8) = _
  rw [upper_of_longOf hl hu, hlen]

/-- Bytes that decode are those of a base word and of the upper bits of its form, and what follows them. -/
theorem decode_ok {bs rest : List Byte} {i : Instr} (h : decode bs = .ok (i, rest)) :
    ∃ w u : Word, u.toNat < 256 ^ (lenBytes (field w 0 2) - 8) ∧ decodeWords w u = .ok i ∧
      bs = leBytes w.toNat 8 ++ leBytes u.toNat (lenBytes (field w 0 2) - 8) ++ rest := by
  unfold decode at h
  split at h
  · cases h
  dsimp only at h
  split at h
  · cases h
  next h8 hlen =>
  generalize hn : lenBytes (field (BitVec.ofNat 64 (leNat (bs.take 8))) 0 2) = n at h hlen
  have hn16 : n ≤ 16 := hn ▸ lenBytes_le_sixteen _
  have hwl : (bs.take 8).length = 8 := by rw [List.length_take]; omega
  have hul : ((bs.drop 8).take (n - 8)).length = n - 8 := by rw [List.length_take, List.length_drop]; omega
  have hw := toNat_ofNat_leNat (bs := bs.take 8) (by omega)
  have hu := toNat_ofNat_leNat (bs := (bs.drop 8).take (n - 8)) (by omega)
  split at h
  · next j hj =>
    cases h
    refine ⟨_, _, ?_, hj, ?_⟩
    · rw [hn, hu]
      exact lt_of_lt_of_eq (leNat_lt _) (by rw [hul])
    · have hwb := leBytes_leNat (bs.take 8)
      have hub := leBytes_leNat ((bs.drop 8).take (n - 8))
      rw [hwl] at hwb
      rw [hul] at hub
      have h8n : 8 ≤ n := hn ▸ eight_le_lenBytes _
      have hr : bs.drop n = (bs.drop 8).drop (n - 8) := by rw [List.drop_drop, Nat.add_sub_cancel' h8n]
      rw [hn, hw, hu, hwb, hub, hr, List.append_assoc, List.take_append_drop, List.take_append_drop]
  · cases h

/-! ### Rejections -/

/-- The form that LEN and the upper bits give, where LEN is not 11. -/
theorem longOf_of_ne {len : BitVec 2} (u : Word) (h : len.toNat ≠ 3) :
    longOf len u = some (if len.toNat = 0 then .none else if len.toNat = 1 then .imm32 (u.setWidth 32) else .ext u) := by
  have hl : len = 0 ∨ len = 1 ∨ len = 2 := by bv_omega
  rcases hl with rfl | rfl | rfl <;> rfl

theorem decodeWords_error {w u : Word} {l : Long} (h : longOf (field w 0 2) u = some l)
    (ho : Instr.ofOpcode (field w 4 6) (field w 10 6) (unpack w l) = none) :
    decodeWords w u = .error (rejectOf (field w 4 6)) := by
  simp [decodeWords, h, ho]

theorem decodeWords_badLen {w : Word} (u : Word) (h : (field w 0 2).toNat = 3) : decodeWords w u = .error .badLen := by
  have h3 : field w 0 2 = 3 := BitVec.eq_of_toNat_eq h
  rw [decodeWords, h3]
  rfl

theorem unpack_toNat (w : Word) (l : Long) :
    (unpack w l).mod.toNat = w.toNat / 2 ^ 58 ∧ (unpack w l).sc.toNat = w.toNat / 2 ^ 49 % 512 ∧
      (unpack w l).sb.toNat = w.toNat / 2 ^ 40 % 512 ∧ (unpack w l).sa.toNat = w.toNat / 2 ^ 31 % 512 ∧
      (unpack w l).dst.toNat = w.toNat / 2 ^ 22 % 512 ∧ (unpack w l).km.toNat = w.toNat / 2 ^ 16 % 16 := by
  have hw := w.isLt
  simp only [unpack, field_toNat]
  omega

/-! ### The obligations -/

/-- Settles O3, by the words that bytes stand for and the fields that words stand for. -/
theorem decodeAndEncodeAgree : Obligations.DecodeAndEncodeAgree := by
  refine ⟨fun i rest hwf hf => ?_, fun i bs rest h => ?_⟩
  · obtain ⟨f, hf⟩ := Option.isSome_iff_exists.1 hf
    have hn : i.opNamed = true := (Bool.and_eq_true_iff.1 hwf).1
    have hlen := congrArg lenBytes (fields_pack (BitVec.ofNat 6 i.opcode.1) (BitVec.ofNat 6 i.opcode.2) f).1
    rw [encode_eq hf]
    exact decode_words rest hlen (upper_lt f.long) (decodeWords_pack hf hn)
  · obtain ⟨w, u, hu, hd, rfl⟩ := decode_ok h
    obtain ⟨l, -, hi⟩ := decodeWords_ok_iff.1 hd
    rw [encode_of_decodeWords hu hd, (ofOpcode_encodes hi).1]
    exact ⟨rfl, rfl⟩

/-- Settles O4: the rejections by the opcode alone, and the fields of what the opcode names. -/
theorem encodingsAreRejectedByName : Obligations.EncodingsAreRejectedByName := by
  intro w u mj mn
  have hlen : (field w 0 2).toNat = w.toNat % 4 := by rw [field_toNat, pow_zero, Nat.div_one]; rfl
  have hmj : (field w 4 6).toNat = mj := field_toNat w 4 6
  have hmn : (field w 10 6).toNat = mn := field_toNat w 10 6
  have hlong := fun h => longOf_of_ne (len := field w 0 2) u (hlen ▸ h)
  rw [hlen] at hlong
  generalize (if w.toNat % 4 = 0 then Long.none else if w.toNat % 4 = 1 then .imm32 (u.setWidth 32) else .ext u) = l at hlong ⊢
  refine ⟨fun h => decodeWords_badLen u (hlen.trans h), fun h hm => ?_, fun h hm hm' => ?_, fun h hm hn => ?_, fun h hm hn => ?_⟩
  · rw [decodeWords_error (hlong h) (ofOpcode_eq_none (by omega) _ _), rejectOf, hmj, if_pos hm]
  · rw [decodeWords_error (hlong h) (ofOpcode_eq_none (by omega) _ _), rejectOf, hmj, if_neg (by omega), if_pos hm]
  · obtain ⟨i, f, hf, hop, hnm⟩ := hn
    have hi := ofOpcode_opcode i hnm f hf
    rw [hop, ← hmj, ← hmn, BitVec.ofNat_toNat, BitVec.ofNat_toNat, BitVec.setWidth_eq, BitVec.setWidth_eq] at hi
    have hs := ofOpcode_isSome (field w 4 6) (field w 10 6) f (unpack w l)
    rw [hi] at hs
    obtain ⟨j, hj⟩ := Option.isSome_iff_exists.1 hs.symm
    obtain ⟨hjf, hjo, hjn⟩ := ofOpcode_encodes hj
    obtain ⟨hmod, hsc, hsb, hsa, hdst, hkm⟩ := unpack_toNat w l
    exact ⟨j, unpack w l, decodeWords_ok_iff.2 ⟨l, hlong h, hj⟩, by rw [hjo, hmj, hmn], hjn, hjf, hmod, hsc, hsb, hsa, hdst, rfl, rfl,
      hkm, rfl, rfl, rfl⟩
  · have ho : Instr.ofOpcode (field w 4 6) (field w 10 6) (unpack w l) = none := by
      refine Option.eq_none_iff_forall_ne_some.2 fun j hj => hn ?_
      obtain ⟨hjf, hjo, hjn⟩ := ofOpcode_encodes hj
      exact ⟨j, _, hjf, by rw [hjo, hmj, hmn], hjn⟩
    rw [decodeWords_error (hlong h) ho, rejectOf, hmj, if_neg (by omega), if_neg (by omega)]

/-- Settles O2: each word is decoded by evaluation. -/
theorem wordsDecode : Obligations.WordsDecode := by
  refine ⟨?_, ?_, ?_, ?_, ?_, ?_, ?_, ?_⟩ <;> decide

end Sys2Proof
end

section
/-! SUPPORT. What a part of a meaning keeps of the state while it records its updates, and what the teams show of a party and its
path after each kind of change. -/

namespace Sys2Proof.Machine

/-! ### What a part of a meaning keeps -/

/-- A run has recorded all that it has changed since s. -/
def Run.Tied (r : Run) (s : State) : Prop := applyAll s r.log.reverse = r.st

/-- From the run r a part of a meaning keeps what `view` shows of the state, and it records what it changes. -/
def KeepsAt {α β : Type} (view : State → β) (m : M α) (r : Run) : Prop :=
  view (m r).2.st = view r.st ∧ ∀ s, r.Tied s → (m r).2.Tied s

/-- A part of a meaning keeps what `view` shows of the state, whatever the state. -/
def Keeps {α β : Type} (view : State → β) (m : M α) : Prop := ∀ r, KeepsAt view m r

theorem runM_of_tied {m : M Unit} {s : State} (h : (m { st := s, log := [] }).2.Tied s) :
    runM m s = .next (m { st := s, log := [] }).2.st := by
  rw [runM_eq, h]

theorem runM_congr {m n : M Unit} {s : State} (h : m { st := s, log := [] } = n { st := s, log := [] }) : runM m s = runM n s := by
  rw [runM_eq, runM_eq, h]

section Rules

variable {α β γ : Type} {view : State → β} {r : Run}

theorem KeepsAt.pure (a : α) : KeepsAt view (Pure.pure a : M α) r := ⟨rfl, fun _ h => h⟩

theorem KeepsAt.bind {m : M α} {f : α → M γ} (h : KeepsAt view m r) (hf : KeepsAt view (f (m r).1) (m r).2) :
    KeepsAt view (m >>= f) r :=
  ⟨hf.1.trans h.1, fun s hs => hf.2 s (h.2 s hs)⟩

theorem KeepsAt.getC {f : Ctl → M γ} (h : KeepsAt view (f r.st.ctl) r) : KeepsAt view (getC >>= f) r := h

theorem KeepsAt.getS {f : State → M γ} (h : KeepsAt view (f r.st) r) : KeepsAt view (getS >>= f) r := h

theorem KeepsAt.setC {c : Ctl} (h : view { r.st with ctl := c } = view r.st) : KeepsAt view (setC c) r := by
  refine ⟨h, fun s hs => ?_⟩
  rw [setC_run, Run.Tied, List.reverse_cons, applyAll_append, hs]
  rfl

theorem KeepsAt.emits {us : List Upd} (h : view (applyAll r.st us) = view r.st) : KeepsAt view (emits us) r := by
  rw [KeepsAt, emits_run]
  refine ⟨h, fun s hs => ?_⟩
  rw [Run.Tied, List.reverse_append, List.reverse_reverse, applyAll_append, hs]

theorem KeepsAt.ite {c : Prop} [Decidable c] {m n : M α} (hm : KeepsAt view m r) (hn : KeepsAt view n r) :
    KeepsAt view (if c then m else n) r := by
  split
  · exact hm
  · exact hn

theorem Keeps.pure (a : α) : Keeps view (Pure.pure a : M α) := fun _ => .pure a

theorem Keeps.bind {m : M α} {f : α → M γ} (h : Keeps view m) (hf : ∀ a, Keeps view (f a)) : Keeps view (m >>= f) :=
  fun r => (h r).bind (hf _ _)

theorem Keeps.getC {f : Ctl → M γ} (h : ∀ c, Keeps view (f c)) : Keeps view (Machine.getC >>= f) := fun r => .getC (h _ r)

theorem Keeps.getS {f : State → M γ} (h : ∀ s, Keeps view (f s)) : Keeps view (Machine.getS >>= f) := fun r => .getS (h _ r)

theorem Keeps.modC {f : Ctl → Ctl} (h : ∀ s : State, view { s with ctl := f s.ctl } = view s) : Keeps view (modC f) :=
  fun r => .getC (.setC (h r.st))

theorem Keeps.ite {c : Prop} [Decidable c] {m n : M α} (hm : Keeps view m) (hn : Keeps view n) :
    Keeps view (if c then m else n) := fun r => .ite (hm r) (hn r)

theorem Keeps.onlyIf {c : Bool} {m : M Unit} (h : Keeps view m) : Keeps view (onlyIf c m) := .ite h (.pure ())

theorem Keeps.forEach {l : List α} {f : α → M Unit} (h : ∀ a, Keeps view (f a)) : Keeps view (forEach l f) := by
  induction l with
  | nil => exact .pure ()
  | cons a l ih => exact .bind (h a) fun _ => ih

end Rules

/-! ### A party and its path -/

/-- The party of a team, if it has it. -/
def Team.party? (t : Team) : Who → Option Group
  | .bobbin => t.bobbin
  | .group n => t.groups.find? (fun g => g.who == .group n)

theorem Team.party_eq (t : Team) (who : Who) : t.party who = (t.party? who).getD default := by
  cases who <;> rfl

/-- The teams hold the path p: its team is t, its party g. -/
structure Ctl.Shows (c : Ctl) (p : PathId) (t : Team) (g : Group) : Prop where
  team : c.teams.find? (fun t => t.uid == p.team) = some t
  party : t.party? p.who = some g
  who : g.who = p.who
  path : g.paths.any (fun q => q.pid == p.pid) = true

section Shows

variable {c d : Ctl} {p : PathId} {t : Team} {g : Group}

theorem find?_eq_some_getD {α : Type} {q : α → Bool} {l : List α} (h : l.any q = true) (d : α) :
    l.find? q = some ((l.find? q).getD d) := by
  obtain ⟨x, hx⟩ := Option.isSome_iff_exists.1 (List.find?_isSome.2 (List.any_eq_true.1 h))
  rw [hx]
  rfl

theorem Ctl.shows_of_stands (h : c.stands p = true) : c.Shows p (c.team p.team) ((c.team p.team).party p.who) := by
  simp only [Ctl.stands, Bool.and_eq_true, beq_iff_eq] at h
  obtain ⟨⟨⟨ht, hg⟩, hw⟩, hp⟩ := h
  refine ⟨find?_eq_some_getD ht default, ?_, hw, hp⟩
  obtain ⟨n, who, k⟩ := p
  cases who with
  | bobbin =>
    obtain ⟨b, hb⟩ := Option.isSome_iff_exists.1 hg
    simp only [Team.party?, Team.party, hb, Option.getD_some]
  | group m => exact find?_eq_some_getD hg default

theorem Ctl.Shows.team_eq (h : c.Shows p t g) : c.team p.team = t := by rw [Ctl.team, h.team]; rfl

theorem Ctl.Shows.party_eq (h : c.Shows p t g) : (c.team p.team).party p.who = g := by
  rw [h.team_eq, Team.party_eq, h.party]; rfl

theorem Ctl.Shows.uid_eq (h : c.Shows p t g) : t.uid = p.team := by
  simpa using List.find?_some h.team

theorem Ctl.Shows.congr (h : c.Shows p t g) (hd : d.teams = c.teams) : d.Shows p t g :=
  ⟨hd ▸ h.team, h.party, h.who, h.path⟩

/-- A list's first element with a property, after a change of the elements that have it which leaves it to them. -/
theorem find?_map_ite {α : Type} {q : α → Bool} {f : α → α} {l : List α} {a : α} (h : l.find? q = some a) (hf : ∀ a, q (f a) = q a) :
    (l.map (fun x => if q x then f x else x)).find? q = some (f a) := by
  have ha : q a = true := List.find?_some h
  have hq : (q ∘ fun x => if q x then f x else x) = q := by
    funext x
    simp only [Function.comp]
    split
    · exact hf x
    · rfl
  rw [List.find?_map, hq, h]
  simp [ha]

theorem Ctl.Shows.updTeam {g' : Group} (h : c.Shows p t g) {f : Team → Team} (hu : ∀ t, (f t).uid = t.uid)
    (hg : (f t).party? p.who = some g') (hw : g'.who = p.who) (hp : g'.paths.any (fun q => q.pid == p.pid) = true) :
    (c.updTeam p.team f).Shows p (f t) g' :=
  ⟨find?_map_ite h.team (fun t => by rw [hu]), hg, hw, hp⟩

theorem Team.party?_updParty {who : Who} {f : Group → Group} (h : t.party? who = some g) (hw : ∀ g, (f g).who = g.who) :
    (t.updParty who f).party? who = some (f g) := by
  cases who with
  | bobbin => exact congrArg (Option.map f) h
  | group n => exact find?_map_ite h (fun g => by rw [hw])

theorem Ctl.Shows.updParty (h : c.Shows p t g) {f : Group → Group} (hw : ∀ g, (f g).who = g.who)
    (hp : (f g).paths.any (fun q => q.pid == p.pid) = true) :
    (c.updTeam p.team (fun t => t.updParty p.who f)).Shows p (t.updParty p.who f) (f g) :=
  h.updTeam (fun t => by cases p.who <;> rfl) (Team.party?_updParty h.party hw) ((hw g).trans h.who) hp

theorem Group.any_updPath {q : Path → Path} (hq : ∀ x, (q x).pid = x.pid) (k n : Nat) :
    (g.updPath k q).paths.any (fun x => x.pid == n) = g.paths.any (fun x => x.pid == n) := by
  rw [Group.updPath, List.any_map]
  congr 1
  funext x
  simp only [Function.comp]
  split
  · rw [hq]
  · rfl

theorem Ctl.Shows.updPath (h : c.Shows p t g) {q : Path → Path} (hq : ∀ x, (q x).pid = x.pid) :
    (c.updTeam p.team (fun t => t.updParty p.who (fun g => g.updPath p.pid q))).Shows p
      (t.updParty p.who (fun g => g.updPath p.pid q)) (g.updPath p.pid q) :=
  h.updParty (fun _ => rfl) ((Group.any_updPath hq _ _).trans h.path)

theorem Ctl.Shows.leave (h : c.Shows p t g) {q : Path → Path} (hq : ∀ x, (q x).pid = x.pid) :
    (c.leave p q).Shows p (t.updParty p.who (fun g => { g.updPath p.pid q with lastPid := p.pid }))
      { g.updPath p.pid q with lastPid := p.pid } :=
  (h.updParty (f := fun g => { g.updPath p.pid q with lastPid := p.pid }) (fun _ => rfl)
    ((Group.any_updPath hq _ _).trans h.path)).congr rfl

/-- The path of a party after a change of it. -/
theorem Group.path_updPath {q : Path → Path} (hq : ∀ x, (q x).pid = x.pid) {k : Nat}
    (h : g.paths.any (fun x => x.pid == k) = true) : (g.updPath k q).path k = q (g.path k) := by
  obtain ⟨x, hx⟩ := Option.isSome_iff_exists.1 (List.find?_isSome.2 (List.any_eq_true.1 h))
  rw [Group.path, Group.path, hx, Group.updPath, find?_map_ite hx (fun y => by rw [hq])]
  rfl

/-- The path of a party after two changes of it. -/
theorem Group.path_updPath_updPath {q q2 : Path → Path} (hq : ∀ x, (q x).pid = x.pid) (hq2 : ∀ x, (q2 x).pid = x.pid) {k : Nat}
    (h : g.paths.any (fun x => x.pid == k) = true) : ((g.updPath k q).updPath k q2).path k = q2 (q (g.path k)) := by
  rw [Group.path_updPath hq2 ((Group.any_updPath hq k k).trans h), Group.path_updPath hq h]

theorem Ctl.Shows.groupOf {s : State} (h : s.ctl.Shows p t g) : s.groupOf p = g := h.party_eq

theorem Ctl.Shows.pathOf {s : State} (h : s.ctl.Shows p t g) : s.pathOf p = g.path p.pid := by
  rw [State.pathOf, h.party_eq]

end Shows
end Sys2Proof.Machine
end

section
/-! SUPPORT. Requests of device memory, translations and reads of a frame change no register and no team (R232 to R252). -/

namespace Sys2Proof.Machine

/-- Every register, and every team with its parties and paths. -/
def State.regsTeams (s : State) : (Sparse 32 × Sparse 32 × Sparse 32 × Sparse 64 × Sparse 64 × Sparse 64) × List Team :=
  ((s.v, s.vi, s.a, s.w, s.k, s.csr), s.ctl.teams)

/-- A part of a meaning changes no register and no team. -/
abbrev Quiet {α : Type} (m : M α) : Prop := Keeps State.regsTeams m

theorem Quiet.modC {f : Ctl → Ctl} (h : ∀ c, (f c).teams = c.teams) : Quiet (modC f) :=
  Keeps.modC fun s => by simp only [State.regsTeams, h]

theorem KeepsAt.setC_teams {c : Ctl} {r : Run} (h : c.teams = r.st.ctl.teams) : KeepsAt State.regsTeams (Machine.setC c) r :=
  .setC (by simp only [State.regsTeams, h])

theorem regsTeams_updBytes (l : Loc) (bs : List Byte) (s : State) : (applyAll s (updBytes l bs)).regsTeams = s.regsTeams := by
  induction bs generalizing s l with
  | nil => rfl
  | cons b bs ih =>
    rw [updBytes, applyAll_cons, ih]
    obtain ⟨sp, k⟩ := l
    cases sp <;> rfl

theorem quiet_storeN (l : Loc) (x n : Nat) : Quiet (storeN l x n) := fun _ => .emits (regsTeams_updBytes _ _ _)

theorem quiet_report (q : Report) : Quiet (report q) := Quiet.modC fun _ => rfl

theorem quiet_cleanTile (t : Nat) : Quiet (cleanTile t) := Quiet.modC fun _ => rfl

theorem quiet_dropLine (t : Nat) : Quiet (dropLine t) := Quiet.modC fun _ => rfl

theorem quiet_resealTiles (mine : Tile → Bool) : Quiet (resealTiles mine) := .getS fun _ => Quiet.modC fun _ => rfl

theorem quiet_quarantineFailing (g : Nat) : Quiet (quarantineFailing g) :=
  .getC fun _ => .forEach fun _ => .bind (Quiet.modC fun _ => rfl) fun _ => quiet_report _

theorem quiet_checkBelow (g : Nat) : Quiet (checkBelow g) := .getC fun _ => .forEach quiet_quarantineFailing

theorem Ctl.teams_setTile (c : Ctl) (x : Tile) : (c.setTile x).teams = c.teams := rfl

theorem Ctl.teams_setGroup (c : Ctl) (x : SealGroup) : (c.setGroup x).teams = c.teams := rfl

theorem Ctl.teams_writeCounters (c : Ctl) (g : Nat) : (c.writeCounters g).teams = c.teams := rfl

theorem quiet_writeback (t : Nat) : Quiet (writeback t) := by
  intro r
  refine .getC ?_
  split
  · exact .pure ()
  · refine .ite (quiet_cleanTile t r) (.ite ?_ (.ite ?_ (.ite ?_ ?_)))
    · exact Keeps.bind (quiet_dropLine t) (fun _ => quiet_report _) r
    · exact Keeps.bind (quiet_dropLine t) (fun _ => .bind (Quiet.modC fun c => c.teams_setTile _) fun _ => quiet_report _) r
    · exact .setC_teams (Ctl.teams_setGroup _ _)
    · exact Keeps.bind (quiet_checkBelow _) (fun _ => .bind (Quiet.modC fun c => (Ctl.teams_writeCounters _ _).trans (c.teams_setTile _))
        fun _ => .bind (quiet_resealTiles _) fun _ => quiet_cleanTile t) r

theorem quiet_fillTile (slot t : Nat) (write : Bool) : Quiet (fillTile slot t write) := by
  intro r
  have hfill : KeepsAt State.regsTeams (do setC (r.st.ctl.fill t slot write); return Sealed.ok) r :=
    .bind (.setC_teams rfl) (.pure _)
  exact .getC (.ite (.pure _) (.ite hfill (.ite (.pure _) (.ite hfill (.pure _)))))

theorem quiet_sealTry (slot pa : Nat) (write : Bool) : Quiet (sealTry slot pa write) := by
  refine .getC fun c => .ite (.pure _) (.ite (.pure _) (.ite (.pure _) ?_))
  split
  · refine .ite ?_ ?_
    · exact .bind (.onlyIf (Quiet.modC fun _ => rfl)) fun _ => .pure _
    · exact .bind (.onlyIf (quiet_writeback _)) fun _ => .getC fun d =>
        .ite (.pure _) (.bind (quiet_dropLine _) fun _ => quiet_fillTile _ _ _)
  · exact quiet_fillTile _ _ _

theorem quiet_sealAccess (slot pa : Nat) (write : Bool) : Quiet (sealAccess slot pa write) :=
  .bind (quiet_sealTry _ _ _) fun _ => .getC fun _ => .bind (.onlyIf (Quiet.modC fun _ => rfl)) fun _ => .pure _

theorem quiet_setAD (slot at_ e new : Nat) : Quiet (setAD slot at_ e new) := by
  refine .ite (.pure _) (.bind (quiet_sealAccess _ _ _) fun a => ?_)
  cases a with
  | ok => exact .bind (quiet_storeN _ _ _) fun _ => .pure _
  | fail sub => exact .pure _
  | wait => exact .pure _

theorem quiet_hostTranslate (rctx va : Nat) (write : Bool) : Quiet (hostTranslate rctx va write) := by
  intro r
  refine .getC ?_
  split
  · exact .pure _
  · dsimp only
    split
    · exact .pure _
    · exact .bind (.setC_teams rfl) (.pure _)

theorem quiet_leafAccess (rctx va e s : Nat) (n : Need) : Quiet (leafAccess rctx va e s n) :=
  .ite (quiet_hostTranslate _ _ _) (.ite (.pure _) (.pure _))

theorem quiet_sealWalk (slot : Nat) (s : State) (va lv tbl : Nat) : Quiet (sealWalk slot s va lv tbl) := by
  induction lv generalizing tbl with
  | zero => exact .pure _
  | succ lv ih =>
    refine .bind (quiet_sealAccess _ _ _) fun a => ?_
    cases a with
    | ok => exact .ite (.pure _) (ih _)
    | fail sub => exact .pure _
    | wait => exact .pure _

theorem quiet_sealedWalk (rctx va : Nat) : Quiet (sealedWalk rctx va) := by
  refine .getS fun s => .bind (quiet_sealWalk _ _ _ _ _) fun a => ?_
  cases a <;> exact .pure _

theorem quiet_walkAccess (eng : EngineId) (rctx va : Nat) (user : Bool) (n : Need) : Quiet (walkAccess eng rctx va user n) := by
  refine .bind (quiet_sealedWalk _ _) fun a => ?_
  split
  · exact .pure _
  · exact .pure _
  · split
    · exact .pure _
    · refine .getC fun c => .bind (quiet_setAD _ _ _ _) fun a => ?_
      cases a with
      | ok => exact .bind (Quiet.modC fun _ => rfl) fun _ => quiet_leafAccess _ _ _ _ _
      | fail sub => exact .pure _
      | wait => exact .pure _

theorem quiet_translateNow (eng : EngineId) (rctx va : Nat) (user : Bool) (n : Need) : Quiet (translateNow eng rctx va user n) := by
  refine .ite (.pure _) (.getC fun c => ?_)
  split
  · dsimp only
    split
    · exact .pure _
    · exact .ite (quiet_leafAccess _ _ _ _ _) (quiet_walkAccess _ _ _ _ _)
  · exact quiet_walkAccess _ _ _ _ _

theorem quiet_translate (eng : EngineId) (rctx va : Nat) (user : Bool) (n : Need) : Quiet (translate eng rctx va user n) :=
  .getC fun _ => .ite (.pure _) (quiet_translateNow _ _ _ _ _)

theorem quiet_frameReach (eng : EngineId) (rctx tfa : Nat) : Quiet (frameReach eng rctx tfa) := by
  refine .bind (quiet_translate _ _ _ _ _) fun x => ?_
  cases x with
  | ok l =>
    refine .ite (.pure _) (.getC fun c => .bind (quiet_sealAccess _ _ _) fun a => ?_)
    cases a <;> exact .pure _
  | fault c b => exact .pure _
  | wait => exact .pure _

theorem quiet_reach (a : Acc) (va n : Nat) (need : Need) : Quiet (reach a va n need) := by
  refine .getC fun c => .bind (quiet_translate _ _ _ _ _) fun x => ?_
  cases x with
  | ok l =>
    refine .getC fun d => .ite (.pure _) ?_
    split
    · refine .getS fun s => ?_
      split <;> exact .pure _
    · refine .bind (quiet_sealAccess _ _ _) fun a => ?_
      cases a <;> exact .pure _
  | fault c b => exact .pure _
  | wait => exact .pure _

theorem quiet_readFrame (e : Env) : Quiet e.readFrame := by
  refine .bind (quiet_reach _ _ _ _) fun x => ?_
  cases x with
  | ok l => exact .getS fun _ => .pure _
  | trap q => exact .pure _
  | wait => exact .pure _

end Sys2Proof.Machine
end

section
/-! SUPPORT. Demotion of a live pair's other path (R102): the control state alone changes, and of the group its paths and its
reconvergence stack. -/

namespace Sys2Proof.Machine

/-! ### Demotion (R102) -/

/-- Every store of bytes and of registers. -/
def State.stores (s : State) : State := { s with ctl := Ctl.init }

theorem sameStores_of_stores {s t : State} (h : t.stores = s.stores) : SameStores s t := by
  injection h with h1 h2 h3 h4 h5 h6 h7 h8 h9 h10 h11
  exact ⟨⟨h1, h2, h3, h4, h5⟩, h6, h7, h8, h9, h10, h11⟩

/-- A part of a meaning changes the control state only. -/
abbrev CtlOnly {α : Type} (m : M α) : Prop := Keeps State.stores m

theorem ctlOnly_modC (f : Ctl → Ctl) : CtlOnly (modC f) := Keeps.modC fun _ => rfl

theorem ctlOnly_endParks (uid : Nat) (ks : List Park) : CtlOnly (endParks uid ks) :=
  .getC fun _ => .forEach fun _ => ctlOnly_modC _

theorem ctlOnly_demote (uid : Nat) (who : Who) (pid : Nat) : CtlOnly (demote uid who pid) := by
  refine .bind (.getC fun _ => .pure _) fun g => ?_
  split
  · exact .pure _
  · next o _ =>
    refine .bind (ctlOnly_modC _) fun _ => .bind (ctlOnly_endParks _ _) fun _ => .bind (ctlOnly_modC _) fun _ => ?_
    cases o.helper with
    | none => exact .pure _
    | some id => exact ctlOnly_modC _

/-- The group when its live path o has become the pending arm of the top entry. -/
def Group.putAside (g : Group) (o : Path) : Group :=
  { g with
    paths := g.paths.filter (fun p => p.pid != o.pid)
    recon := match g.recon with
      | e :: r => { e with ppc := advPc o.pastWait.headPc, pmask := o.act, pfmt := o.fmt, ppark := o.doomed } :: r
      | [] => [] }

/-- The group after the demotion of a live pair's other path. -/
def Group.demote (g : Group) (pid : Nat) : Group := (g.live.find? (fun p => p.pid != pid)).elim g g.putAside

theorem Group.recon_demote (g : Group) (pid : Nat) : (g.demote pid).recon = g.demoted pid := by
  unfold Group.demote Group.demoted
  cases g.live.find? (fun p => p.pid != pid) with
  | none => rfl
  | some o => cases hr : g.recon <;> simp [Group.putAside, hr]

theorem Group.length_recon_demote (g : Group) (pid : Nat) : (g.demote pid).recon.length = g.recon.length := by
  unfold Group.demote
  cases g.live.find? (fun p => p.pid != pid) with
  | none => rfl
  | some o => cases hr : g.recon <;> simp [Group.putAside, hr]

/-- Demotion changes the paths and the reconvergence stack of the group, and nothing else. -/
theorem Group.demote_eq (g : Group) (pid : Nat) : g.demote pid = { g with paths := (g.demote pid).paths, recon := (g.demote pid).recon } := by
  unfold Group.demote
  cases g.live.find? (fun p => p.pid != pid) <;> rfl

/-- Among the paths that stay, the one that is asked for is the same. -/
theorem stays_and_pid {o : Path} {pid : Nat} (h : o.pid ≠ pid) (q : Path) :
    (q.pid != o.pid && q.pid == pid) = (q.pid == pid) := by
  by_cases hq : q.pid = pid
  · simp [hq, h.symm]
  · simp [hq]

theorem Group.path_putAside (g : Group) {o : Path} {pid : Nat} (h : o.pid ≠ pid) : (g.putAside o).path pid = g.path pid := by
  simp only [Group.path, Group.putAside, List.find?_filter, ← Bool.and_eq_true, Bool.decide_eq_true, stays_and_pid h]

theorem Group.any_putAside (g : Group) {o : Path} {pid : Nat} (h : o.pid ≠ pid) :
    (g.putAside o).paths.any (fun q => q.pid == pid) = g.paths.any (fun q => q.pid == pid) := by
  simp only [Group.putAside, List.any_filter, stays_and_pid h]

theorem Group.path_demote (g : Group) (pid : Nat) : (g.demote pid).path pid = g.path pid := by
  unfold Group.demote
  cases ho : g.live.find? (fun q => q.pid != pid) with
  | none => rfl
  | some o => exact g.path_putAside (by simpa using List.find?_some ho)

theorem quiet_recordMon (die : Nat) (rctx : Option Nat) (src v : Nat) : Quiet (recordMon die rctx src v) := Quiet.modC fun _ => rfl

theorem quiet_endParks (uid : Nat) (ks : List Park) : Quiet (endParks uid ks) :=
  .getC fun _ => .forEach fun _ => quiet_recordMon _ _ _ _

theorem quiet_dropWaiter (w : Waiter) : Quiet (dropWaiter w) := Quiet.modC fun _ => rfl

theorem quiet_modRecruit (id : Nat) (f : Recruit → Recruit) : Quiet (modRecruit id f) := Quiet.modC fun _ => rfl

theorem Quiet.shows {α : Type} {m : M α} (hm : Quiet m) {r : Run} {p : PathId} {t : Team} {g : Group} (h : r.st.ctl.Shows p t g) :
    (m r).2.st.ctl.Shows p t g :=
  h.congr (congrArg Prod.snd (hm r).1)

theorem getGroup_run (uid : Nat) (who : Who) (r : Run) : getGroup uid who r = ((r.st.ctl.team uid).party who, r) := rfl

theorem demote_shows {r : Run} {p : PathId} {t : Team} {g : Group} (h : r.st.ctl.Shows p t g) :
    ∃ t', (demote p.team p.who p.pid r).2.st.ctl.Shows p t' (g.demote p.pid) := by
  unfold demote Group.demote
  rw [bind_run, getGroup_run, h.party_eq]
  cases ho : g.live.find? (fun q => q.pid != p.pid) with
  | none => exact ⟨t, h⟩
  | some o =>
    have hne : o.pid ≠ p.pid := by simpa using List.find?_some ho
    have h2 := (quiet_endParks p.team (o.park.filter (fun k => k.doom.isNone)).toList).shows
      ((quiet_dropWaiter (.path { team := p.team, who := p.who, pid := o.pid })).shows h)
    have h3 := h2.updParty (f := fun g => g.putAside o) (fun _ => rfl) ((g.any_putAside hne).trans h.path)
    simp only [bind_run]
    refine ⟨_, Quiet.shows ?_ h3⟩
    split
    · exact quiet_modRecruit _ _
    · exact .pure _

end Sys2Proof.Machine
end

section
/-! SUPPORT. The checks of steps 5 to 7 of R50 and the room of the spill area (R113) stop an instruction before any effect. -/

namespace Sys2Proof.Machine

/-- Every instruction that words name issues, whatever it does. -/
theorem exec_issues {i : Instr} {f : Fields} (hf : i.fields = some f) : ∃ body, ∀ s, exec i s = issue i f body s := by
  cases i with
  | _ => cases hf <;> exact ⟨_, fun _ => rfl⟩

theorem attempt_trap {α : Type} {m : M (Got α)} {q : TrapReq} {r r1 : Run} (h : m r = (.trap q, r1)) :
    attempt m r = (.trap q, r) := by
  simp only [attempt, bind_run, get_run, h]
  rfl

section Checks

variable {i : Instr} {f : Fields} {cur : Cur} {s : State}

/-- An instruction of which steps 5 to 7 find one trap takes it. -/
theorem exec_of_stepFaults {q : TrapReq} (hc : s.ctl.cur = some cur) (hf : i.fields = some f)
    (h : stepFaults i (envOf s cur f) = [q]) : exec i s = runM (finish i (envOf s cur f) (.trap q)) s := by
  obtain ⟨body, hb⟩ := exec_issues hf
  rw [hb, issue, hc]
  refine runM_congr ?_
  rw [issueM, bind_run, getS_run]
  simp only [h]
  rfl

theorem stepFaults_of_priv (hc : chainFaults i (envOf s cur f) = []) (hf : formFaults i (envOf s cur f) = [])
    (hp : privFault i (envOf s cur f) = true) : stepFaults i (envOf s cur f) = [mkTrap 4 0 (envOf s cur f).p.act] := by
  simp [stepFaults, hc, hf, hp]

theorem sup_of_mem (h : i ∈ ([.pmap f, .tlbinv f, .tprobe f, .migr f, .tret f, .rdtf f, .wrtf f] : List Instr)) :
    (formOf i).sup = true := by
  simp only [List.mem_cons, List.not_mem_nil, or_false] at h
  rcases h with rfl | rfl | rfl | rfl | rfl | rfl | rfl
  case inr.inr.inr.inr.inr.inl => exact (apply_ite Form.sup _ _ _).trans (ite_self _)
  case inr.inr.inr.inr.inr.inr => exact (apply_ite Form.sup _ _ _).trans (ite_self _)
  all_goals rfl

/-- What is only for supervisor level (R61, R80, R239, R381). -/
theorem privFault_of_supervisor {e : Env} (hp : e.pl = 0)
    (h : i ∈ ([.pmap f, .tlbinv f, .tprobe f, .migr f, .tret f, .rdtf f, .wrtf f] : List Instr) ∨
      (i = .csrw f ∧ 2 ≤ f.sc.toNat ∧ f.sc.toNat ≤ 5) ∨ ((i = .rgeti f ∨ i = .rseti f) ∧ f.mod.getLsbD 5 = true)) :
    privFault i e = true := by
  unfold privFault
  rw [hp]
  rcases h with h | ⟨rfl, h2, h5⟩ | ⟨rfl | rfl, h⟩
  · rw [sup_of_mem h]
    rfl
  · simp [h2, h5]
  · simp [h]
  · simp [h]

end Checks

section Envs

variable {i : Instr} {f : Fields} {cur : Cur} {s : State}

theorem envOf_uid (h : s.ctl.stands cur.p = true) : (envOf s cur f).uid = cur.p.team := (Ctl.shows_of_stands h).uid_eq

theorem envOf_who (h : s.ctl.stands cur.p = true) : (envOf s cur f).g.who = cur.p.who := (Ctl.shows_of_stands h).who

theorem envOf_pid (h : s.ctl.stands cur.p = true) : (envOf s cur f).p.pid = cur.p.pid := by
  have hf := List.find?_some (find?_eq_some_getD (Ctl.shows_of_stands h).path default)
  exact beq_iff_eq.1 hf

end Envs

section Spills

variable {a : Acc} {r : Run} {p : PathId} {t : Team} {g : Group}

/-- A party whose spill area is full has no room for a record (R113). -/
theorem roomFor_full (h : r.st.ctl.Shows p t g) (hu : a.uid = p.team) (hw : a.who = p.who)
    (hf : (r.st.csrOf p.team p.who.idx 5).toNat < g.dsp.toNat + 64 * (g.spilled.length + 1)) :
    roomFor a r = (.trap (mkTrap 0x28 1 a.lanes), r) := by
  rw [roomFor, bind_run, getS_run, hu, hw, h.party_eq]
  exact congrFun (if_pos (Or.inr hf)) r

theorem pushRecon_full {n : REnt} (h : r.st.ctl.Shows p t g) (hu : a.uid = p.team) (hw : a.who = p.who)
    (hn : 16 ≤ g.recon.length) (hf : (r.st.csrOf p.team p.who.idx 5).toNat < g.dsp.toNat + 64 * (g.spilled.length + 1)) :
    pushRecon a n r = (.trap (mkTrap 0x28 1 a.lanes), r) := by
  rw [pushRecon, bind_run, getGroup_run, hu, hw, h.party_eq]
  simp only [if_neg (Nat.not_lt.2 hn), bind_run, roomFor_full h hu hw hf]
  rfl

theorem pushRas_full {n : RAEnt} (h : r.st.ctl.Shows p t g) (hu : a.uid = p.team) (hw : a.who = p.who)
    (hn : 8 ≤ g.ras.length) (hf : (r.st.csrOf p.team p.who.idx 5).toNat < g.dsp.toNat + 64 * (g.spilled.length + 1)) :
    pushRas a n r = (.trap (mkTrap 0x28 1 a.lanes), r) := by
  rw [pushRas, bind_run, getGroup_run, hu, hw, h.party_eq]
  simp only [if_neg (Nat.not_lt.2 hn), bind_run, roomFor_full h hu hw hf]
  rfl

end Spills

section Stacks

variable {f : Fields} {cur : Cur} {s : State}

/-- After its first part, the demotion, a `split` or `call` finds the two stacks as deep as they were, and no more room. -/
theorem demoted_full (hs : s.ctl.stands cur.p = true) (log : List Upd)
    (hf : (s.csrOf (envOf s cur f).uid (envOf s cur f).g.who.idx 5).toNat <
      (envOf s cur f).g.dsp.toNat + 64 * ((envOf s cur f).g.spilled.length + 1)) :
    ∃ t g, (demote cur.p.team cur.p.who cur.p.pid { st := s, log := log }).2.st.ctl.Shows cur.p t g ∧
      g.recon.length = (envOf s cur f).g.recon.length ∧ g.ras = (envOf s cur f).g.ras ∧
      ((demote cur.p.team cur.p.who cur.p.pid { st := s, log := log }).2.st.csrOf cur.p.team cur.p.who.idx 5).toNat <
        g.dsp.toNat + 64 * (g.spilled.length + 1) := by
  obtain ⟨t, h⟩ := demote_shows (r := { st := s, log := log }) (Ctl.shows_of_stands hs)
  have hc := (sameStores_of_stores (ctlOnly_demote cur.p.team cur.p.who cur.p.pid { st := s, log := log }).1).2.2.2.2.2.2
  refine ⟨t, _, h, Group.length_recon_demote _ _, ?_, ?_⟩
  · rw [Group.demote_eq]; rfl
  · rw [State.csrOf, hc, Group.demote_eq]
    rwa [envOf_uid hs, envOf_who hs] at hf

end Stacks

/-- The steps of a trap that an instruction's attempt ends in. -/
theorem exec_of_attempt_trap {α : Type} {i : Instr} {f : Fields} {cur : Cur} {s : State} {m : Env → M (Got α)} {r : Res} {q : TrapReq}
    {r1 : Run} (h : Executes i f cur s)
    (hi : exec i s = issue i f (fun e => do
      let x ← attempt (m e)
      return x.res r) s)
    (hm : m (envOf s cur f) { st := s, log := [] } = (.trap q, r1)) :
    exec i s = runM (finish i (envOf s cur f) (.trap q)) s := by
  rw [hi, issue_of_executes h]
  refine runM_congr ?_
  simp only [bind_run, attempt_trap hm]
  rfl

theorem split_full {f : Fields} {cur : Cur} {s : State} (h : Executes (.split f) f cur s) (hn : 16 ≤ (envOf s cur f).g.recon.length)
    (hf : (s.csrOf (envOf s cur f).uid (envOf s cur f).g.who.idx 5).toNat <
      (envOf s cur f).g.dsp.toNat + 64 * ((envOf s cur f).g.spilled.length + 1)) :
    exec (.split f) s = runM (finish (.split f) (envOf s cur f) (.trap (mkTrap 0x28 1 (envOf s cur f).p.act))) s := by
  obtain ⟨t, g, hg, hr, -, hf⟩ := demoted_full h.stands [] hf
  refine exec_of_attempt_trap h rfl ?_ (r1 := (demote cur.p.team cur.p.who cur.p.pid { st := s, log := [] }).2)
  rw [bind_run, envOf_uid h.stands, envOf_who h.stands, envOf_pid h.stands, bind_run, getGroup_run, bind_run,
    pushRecon_full (a := (envOf s cur f).acc) hg (envOf_uid h.stands) (envOf_who h.stands) (hr ▸ hn) hf]
  rfl

theorem call_full {f : Fields} {cur : Cur} {s : State} (h : Executes (.call f) f cur s) (hn : 8 ≤ (envOf s cur f).g.ras.length)
    (hf : (s.csrOf (envOf s cur f).uid (envOf s cur f).g.who.idx 5).toNat <
      (envOf s cur f).g.dsp.toNat + 64 * ((envOf s cur f).g.spilled.length + 1)) :
    exec (.call f) s = runM (finish (.call f) (envOf s cur f) (.trap (mkTrap 0x28 1 (envOf s cur f).p.act))) s := by
  obtain ⟨t, g, hg, -, hr, hf⟩ := demoted_full h.stands [] hf
  refine exec_of_attempt_trap h rfl ?_ (r1 := (demote cur.p.team cur.p.who cur.p.pid { st := s, log := [] }).2)
  rw [bind_run, envOf_uid h.stands, envOf_who h.stands, envOf_pid h.stands, bind_run, getGroup_run, bind_run,
    pushRas_full (a := (envOf s cur f).acc) hg (envOf_uid h.stands) (envOf_who h.stands) (hr ▸ hn) hf]
  rfl

/-- Settles O52: one trap of steps 5 to 7 is the whole of an instruction, and a record that finds no room ends the attempt. -/
theorem checksComeFirst : Obligations.ChecksComeFirst := by
  intro i f cur s e
  refine ⟨fun hc hi => ⟨fun q hq => exec_of_stepFaults hc hi hq, fun hch hfm hpl hsup => ?_⟩, fun h hst hf => ?_⟩
  · exact exec_of_stepFaults hc hi (stepFaults_of_priv hch hfm (privFault_of_supervisor hpl hsup))
  · rcases hst with ⟨rfl, hn⟩ | ⟨rfl, hn⟩
    · exact split_full h hn hf
    · exact call_full h hn hf

end Sys2Proof.Machine
end

section
/-! SUPPORT. Entering a trap (R376 to R380): what the frame's entries hold, and how the group stands at its handler, waits, or is
left to the host. -/

namespace Sys2Proof.Machine

/-! ### From the instruction to its trap -/

/-- A precise trap that takes no host page's refusal and no recorded fault with it. -/
def TrapReq.Precise (q : TrapReq) : Prop := ∃ c b m, q = mkTrap c b m ∧ c ≠ 9 ∧ c ≠ 0x12

/-- What stands at the executing place: an instruction that nothing stops, or a word that is no instruction. -/
def AtPlace (i : Instr) (f : Fields) (cur : Cur) (s : State) : Prop :=
  Executes i f cur s ∨ s.ctl.cur = some cur ∧ s.ctl.stands cur.p = true ∧ ∃ bits why, i = .reservedEncoding bits why ∧
    f = unpack (bits.setWidth 64) .none

theorem AtPlace.stands {i : Instr} {f : Fields} {cur : Cur} {s : State} (h : AtPlace i f cur s) : s.ctl.stands cur.p = true :=
  h.elim (·.stands) (·.2.1)

section Raise

variable {i : Instr} {f : Fields} {cur : Cur} {s : State} {q : TrapReq}

/-- A trap of `trapRule` is precise and reports nothing recorded. -/
theorem trapRule_precise {e : Env} (h : trapRule e i = some q) : q.Precise := by
  cases i with
  | trap f => cases h; exact ⟨_, _, _, rfl, by decide, by decide⟩
  | brkpt f => cases h; exact ⟨_, _, _, rfl, by decide, by decide⟩
  | reservedEncoding bits why => cases why <;> cases h <;> exact ⟨_, _, _, rfl, by decide, by decide⟩
  | _ => cases h

/-- `trap`, `brkpt` and a word that is no instruction raise their trap, and the path leaves its place. -/
theorem exec_of_trapRule (h : AtPlace i f cur s) (hq : trapRule (envOf s cur f) i = some q) :
    exec i s = runM (do raise cur.p cur q; modC (fun c => c.leave cur.p id)) s := by
  rcases h with h | ⟨hc, -, bits, why, rfl, rfl⟩
  · have hf := h.fields_eq
    cases i with
    | trap f => cases hf; cases hq; exact issue_of_executes h _
    | brkpt f => cases hf; cases hq; exact issue_of_executes h _
    | reservedEncoding bits why => cases hf
    | _ => cases hq
  · show execReservedEncoding bits why s = _
    rw [execReservedEncoding, hc]
    cases why <;> cases hq <;> rfl

/-- A trap outside helper code, with no trap pending for the pair's other path, is taken at once (R376, R386). -/
theorem raise_run {p : PathId} {r : Run} (hd : ∀ x ∈ (r.st.groupOf p).live, x.pid ≠ p.pid → x.doomed = none)
    (hh : (r.st.pathOf p).helper = none) (hc : q.cause ≠ 9) : raise p cur q r = takeTrap p cur q r := by
  have hfind : ((r.st.groupOf p).live.filter (fun x => x.pid != p.pid)).findSome? (·.doomed) = none := by
    rw [List.findSome?_eq_none_iff]
    intro x hx
    obtain ⟨hx, hne⟩ := List.mem_filter.1 hx
    exact hd x hx (by simpa using hne)
  have hon : raiseOn p cur q r = takeTrap p cur q r := by
    rw [raiseOn, bind_run, onlyIf_run, if_neg (by simp [hc]), bind_run, getC_run]
    show (match (r.st.pathOf p).helper with
      | none => takeTrap p cur q
      | some id => _) r = _
    rw [hh]
  rw [raise, bind_run, getGroup_run]
  show (match (if (r.st.pathOf p).doomed.isSome then none
      else ((r.st.groupOf p).live.filter (fun x : Path => x.pid != p.pid)).findSome? Path.doomed) with
    | some k => _
    | none => raiseOn p cur q) r = _
  rw [hfind, ite_self]
  exact hon

end Raise

/-! ### Where a trap goes -/

/-- What a trap does at its handler once the frame has its place l (R376). -/
def enterHandler (s : State) (p : PathId) (cur : Cur) (q : TrapReq) (l : Loc) : M Unit := do
  let t := s.ctl.team p.team
  let x := s.pathOf p
  let g ← getGroup p.team p.who
  frameEntries p t (s.ctl.ctx t.rctx).kslot l (s.csrOf p.team p.who.idx 3).toNat
    (frameWords cur q (trapHead x cur q) x.act x.fmt (s.gstAt t g x) g.na g.nr)
  let act := q.lanes &&& x.act
  modPath p (fun y => { y with
    act := if act = 0 then y.act else act, fmt := 0, pc := advPc (s.csrOf p.team p.who.idx 2), chain := none, lat := [], park := none,
    age := none, prog := none })
  modGroup p.team p.who (fun g => { g with inTrap := true, held := if act = 0 then 0 else x.act &&& ~~~act })
  orGst p.team p.who.idx 0x1000

section TakeTrap

variable {p : PathId} {cur : Cur} {q : TrapReq} {r r1 : Run}

theorem dropReport_run (hi : q.imp = false) (hc : q.cause ≠ 0x12) : dropReport p q r = ((), r) := by
  rw [dropReport, bind_run, onlyIf_run, hi]
  simp [onlyIf_run, hc]

theorem takeTrap_host (hi : q.imp = false) (hc : q.cause ≠ 0x12)
    (h : p.who = .bobbin ∨ (r.st.groupOf p).inTrap = true ∨ r.st.csrOf p.team p.who.idx 2 = 0) :
    takeTrap p cur q r =
      hostService p cur q (trapHead (r.st.pathOf p) cur q) (r.st.groupOf p).inTrap (demote p.team p.who p.pid r).2 := by
  have hb : ((r.st.groupOf p).inTrap || r.st.csrOf p.team p.who.idx 2 == 0 || p.who == Who.bobbin) = true := by
    rcases h with h | h | h <;> simp [h]
  rw [takeTrap, bind_run, getS_run, bind_run]
  show (if ((r.st.groupOf p).inTrap || r.st.csrOf p.team p.who.idx 2 == 0 || p.who == Who.bobbin) = true then _ else _ : M Unit) _ = _
  rw [if_pos hb, bind_run, dropReport_run hi hc]
  rfl

/-- Where the frame of a trap at a handler is to be written: what is asked once the pair's other path has been put aside. -/
def frameOf (s : State) (p : PathId) : M Tr :=
  frameReach ((s.ctl.team p.team).engine p.who) (s.ctl.team p.team).rctx (s.csrOf p.team p.who.idx 3).toNat

section Handler

variable (hb : p.who ≠ .bobbin) (ht : (r.st.groupOf p).inTrap = false) (hv : r.st.csrOf p.team p.who.idx 2 ≠ 0)
include hb ht hv

/-- A trap of a group outside a trap, with a handler, asks for the place of its frame. -/
theorem takeTrap_handler : takeTrap p cur q r = (do
      match ← frameOf r.st p with
      | .wait => do
        helperAgain p
        modPath p (fun x => { x with pc := cur.pc, stalled := false })
      | .fault _ _ => do
        dropReport p q
        hostService p cur q (trapHead (r.st.pathOf p) cur q) false
      | .ok l => do
        dropReport p q
        enterHandler r.st p cur q l) (demote p.team p.who p.pid r).2 := by
  have hc : ((r.st.groupOf p).inTrap || r.st.csrOf p.team p.who.idx 2 == 0 || p.who == Who.bobbin) = false := by
    rw [ht, beq_eq_false_iff_ne.2 hv, beq_eq_false_iff_ne.2 hb]
    rfl
  rw [takeTrap, bind_run, getS_run, bind_run]
  show (if ((r.st.groupOf p).inTrap || r.st.csrOf p.team p.who.idx 2 == 0 || p.who == Who.bobbin) = true then _ else _ : M Unit) _ = _
  rw [if_neg (by rw [hc]; decide)]
  rfl

theorem takeTrap_waits (h : frameOf r.st p (demote p.team p.who p.pid r).2 = (.wait, r1)) :
    takeTrap p cur q r = (do helperAgain p; modPath p (fun x => { x with pc := cur.pc, stalled := false })) r1 := by
  rw [takeTrap_handler hb ht hv, bind_run, h]

theorem takeTrap_faults {c b : Nat} (hi : q.imp = false) (hc : q.cause ≠ 0x12)
    (h : frameOf r.st p (demote p.team p.who p.pid r).2 = (.fault c b, r1)) :
    takeTrap p cur q r = hostService p cur q (trapHead (r.st.pathOf p) cur q) false r1 := by
  rw [takeTrap_handler hb ht hv, bind_run, h]
  simp only
  rw [bind_run, dropReport_run hi hc]

theorem takeTrap_enters {l : Loc} (hi : q.imp = false) (hc : q.cause ≠ 0x12)
    (h : frameOf r.st p (demote p.team p.who p.pid r).2 = (.ok l, r1)) :
    takeTrap p cur q r = enterHandler r.st p cur q l r1 := by
  rw [takeTrap_handler hb ht hv, bind_run, h]
  simp only
  rw [bind_run, dropReport_run hi hc]

end Handler

end TakeTrap

/-! ### The host's service -/

theorem ctlOnly_modPath (p : PathId) (f : Path → Path) : CtlOnly (modPath p f) := ctlOnly_modC _

theorem ctlOnly_helperAgain (p : PathId) : CtlOnly (helperAgain p) := by
  refine .getC fun c => ?_
  split
  · exact .bind (ctlOnly_modPath _ _) fun _ => ctlOnly_modC _
  · exact .pure _

theorem ctlOnly_hostService (p : PathId) (cur : Cur) (q : TrapReq) (head : Word) (double : Bool) :
    CtlOnly (hostService p cur q head double) :=
  .bind (ctlOnly_modPath _ _) fun _ => .bind (.onlyIf (ctlOnly_helperAgain p)) fun _ => ctlOnly_modC _

section Service

variable {r : Run} {p : PathId} {cur : Cur} {q : TrapReq} {t : Team} {g : Group}

theorem modPath_shows (h : r.st.ctl.Shows p t g) {f : Path → Path} (hf : ∀ x, (f x).pid = x.pid) :
    ∃ t', (modPath p f r).2.st.ctl.Shows p t' (g.updPath p.pid f) := ⟨_, h.updPath hf⟩

/-- Helper 0 goes on in helper mode; the group keeps its stack and its state. -/
theorem helperAgain_shows (h : r.st.ctl.Shows p t g) :
    ∃ t' g', (helperAgain p r).2.st.ctl.Shows p t' g' ∧ g'.recon = g.recon ∧ g'.inTrap = g.inTrap := by
  unfold helperAgain
  rw [bind_run, getC_run]
  dsimp only
  cases ((r.st.ctl.team p.team).party p.who).recruit.bind (fun id => r.st.ctl.recruits.find? (fun x => x.id == id && x.trapped)) with
  | some x' =>
    obtain ⟨t', h'⟩ := modPath_shows h (f := fun x => { x with helper := some x'.id, hk := x'.hk }) (fun _ => rfl)
    exact ⟨t', _, (quiet_modRecruit _ _).shows h', rfl, rfl⟩
  | none => exact ⟨t, g, h, rfl, rfl⟩

/-- After the service has begun the group keeps its stack, and its team is to be saved with its report (R379). -/
theorem hostService_shows (h : r.st.ctl.Shows p t g) (hq : q.step1 = false) (head : Word) (double : Bool) :
    ∃ t' g', (hostService p cur q head double r).2.st.ctl.Shows p t' g' ∧ g'.recon = g.recon ∧ t'.phase = .saving ∧
      t'.service = some { who := p.who, pid := p.pid, cause := q.cause, sub := q.sub, pc := head, npc := cur.npc, insn := cur.bits,
                          double := double } := by
  unfold hostService
  rw [bind_run, bind_run, hq]
  obtain ⟨t1, h1⟩ := modPath_shows h (f := fun x => { x with pc := head, chain := none, lat := [], park := none, age := none, prog := none })
    (fun _ => rfl)
  obtain ⟨t2, g2, h2, hr⟩ : ∃ t2 g2, (onlyIf (!double) (helperAgain p) (modPath p (fun x =>
      { x with pc := head, chain := none, lat := [], park := none, age := none, prog := none }) r).2).2.st.ctl.Shows p t2 g2 ∧
      g2.recon = g.recon := by
    rw [onlyIf_run]
    split
    · obtain ⟨t2, g2, h2, hr, -⟩ := helperAgain_shows h1
      exact ⟨t2, g2, h2, hr⟩
    · exact ⟨t1, _, h1, rfl⟩
  exact ⟨_, g2, h2.updTeam (f := fun t => { t with phase := .saving, service := some _ }) (fun _ => rfl) h2.party h2.who h2.path, hr,
    rfl, rfl⟩

end Service

theorem Team.phase_updParty (t : Team) (who : Who) (f : Group → Group) : (t.updParty who f).phase = t.phase := by
  cases who <;> rfl

theorem Team.service_updParty (t : Team) (who : Who) (f : Group → Group) : (t.updParty who f).service = t.service := by
  cases who <;> rfl

/-- The path leaves its place. -/
abbrev leaves (p : PathId) : M Unit := modC (fun c => c.leave p id)

section Ends

variable {s : State} {cur : Cur} {f : Fields} {q : TrapReq} {r1 : Run} {t1 : Team}

/-- What follows a part of a meaning that has recorded its changes is the rest of its step. -/
theorem runM_of_run {m n : M Unit} {β : Type} {view : State → β} (h : m { st := s, log := [] } = n r1) (ht : r1.Tied s)
    (hn : KeepsAt view n r1) : runM m s = .next (n r1).2.st := by
  rw [← h]
  exact runM_of_tied (by rw [h]; exact hn.2 s ht)

theorem serviced_of_shows {s1 u : State} {t2 : Team} {g2 : Group} (hs : s.ctl.stands cur.p = true) (hst : SameStores s1 u)
    (h : u.ctl.Shows cur.p t2 g2) (hrec : g2.recon = (s.groupOf cur.p).demoted cur.p.pid) (hph : t2.phase = .saving)
    (hsv : t2.service = some { who := cur.p.who, pid := cur.p.pid, cause := q.cause, sub := q.sub,
                                 pc := trapHead (s.pathOf cur.p) cur q, npc := cur.npc, insn := cur.bits,
                                 double := (s.groupOf cur.p).inTrap }) :
    Serviced s1 u (envOf s cur f) q := by
  refine ⟨hst, ?_, ?_, ?_⟩
  · rw [envOf_pid hs]
    exact (congrArg Group.recon h.groupOf).trans hrec
  · rw [envOf_uid hs, h.team_eq, hph]
  · rw [envOf_uid hs, envOf_who hs, envOf_pid hs, h.team_eq, hsv]
    rfl

/-- A trap that goes to the host, from the state r1 after the demotion. -/
theorem hostService_serviced (hs : s.ctl.stands cur.p = true) (hq : q.step1 = false)
    (h : r1.st.ctl.Shows cur.p t1 ((s.groupOf cur.p).demote cur.p.pid)) :
    Serviced r1.st ((do
      hostService cur.p cur q (trapHead (s.pathOf cur.p) cur q) (s.groupOf cur.p).inTrap
      leaves cur.p) r1).2.st (envOf s cur f) q := by
  have hst := (ctlOnly_hostService cur.p cur q (trapHead (s.pathOf cur.p) cur q) (s.groupOf cur.p).inTrap r1).1
  obtain ⟨t2, g2, h2, hrec, hph, hsv⟩ := hostService_shows (cur := cur) h hq (trapHead (s.pathOf cur.p) cur q) (s.groupOf cur.p).inTrap
  rw [bind_run]
  generalize hostService cur.p cur q (trapHead (s.pathOf cur.p) cur q) (s.groupOf cur.p).inTrap r1 = r2 at hst h2 ⊢
  rw [leaves, modC_run]
  exact serviced_of_shows (u := { r2.2.st with ctl := r2.2.st.ctl.leave cur.p id }) hs (sameStores_of_stores hst)
    (h2.leave (q := id) (fun _ => rfl)) (hrec.trans (Group.recon_demote _ _)) ((Team.phase_updParty _ _ _).trans hph) ((Team.service_updParty _ _ _).trans hsv)

end Ends

/-! ### The frame -/

/-- The state with more entries in the pending queues, and another number to be given out next. -/
def State.appended (s : State) (n : Nat) (new : List Entry) : State :=
  { s with ctl := { s.ctl with nextId := n, entries := s.ctl.entries ++ new } }

/-- A loop each of whose rounds appends one entry appends them in order. -/
theorem forEach_appends {α : Type} {f : α → M Unit} {P : α → Entry → Prop}
    (hf : ∀ a r, ∃ n x, (f a r).2.st = r.st.appended n [x] ∧ P a x) (l : List α) (r : Run) :
    ∃ n new, (forEach l f r).2.st = r.st.appended n new ∧ List.Forall₂ P l new := by
  induction l generalizing r with
  | nil => exact ⟨r.st.ctl.nextId, [], by simp [forEach, pure_run, State.appended], .nil⟩
  | cons a l ih =>
    obtain ⟨n, x, hx, hp⟩ := hf a r
    obtain ⟨m, new, hm, hq⟩ := ih (f a r).2
    refine ⟨m, x :: new, ?_, .cons hp hq⟩
    rw [forEach, bind_run, hm, hx]
    simp [State.appended]

/-- The i-th entry of a frame: a write of line i of its page, of a party of a team (R376, R378). -/
def FrameEntry (p : PathId) (l : Loc) (ws : List Word) (i : Nat) (x : Entry) : Prop :=
  x.act = .write ∧ x.team = p.team ∧ x.who = p.who ∧ x.stage = .pend ∧
    x.els.map (fun y => (y.loc, y.n, y.data)) = (List.range 8).map (fun k => (l.plus (64 * i + 8 * k), 8, ws.getD (8 * i + k) 0))

theorem frameEntries_appends (p : PathId) (t : Team) (kslot : Nat) (l : Loc) (va : Nat) (ws : List Word) (r : Run) :
    ∃ n new, (frameEntries p t kslot l va ws r).2.st = r.st.appended n new ∧ List.Forall₂ (FrameEntry p l ws) (List.range 16) new := by
  unfold frameEntries
  rw [bind_run]
  show ∃ n new, _ = (freshId r).2.st.appended n new ∧ _
  refine forEach_appends (fun i r => ?_) (List.range 16) (freshId r).2
  refine ⟨_, _, rfl, rfl, rfl, rfl, rfl, ?_⟩
  simp only [List.map_map]
  rfl

/-! ### The words of the frame (R377) -/

/-- The frame of a precise trap without addresses. -/
theorem frameWords_mkTrap (cur : Cur) (c b : Nat) (m head act fmt gst : Word) (na nr : Nat) :
    frameWords cur (mkTrap c b m) head act fmt gst na nr =
      [head, wd (c % 256 + b % 256 * 256), m, act, wd (cur.bits.toNat % 2 ^ 64), wd (cur.bits.toNat / 2 ^ 64), fmt, gst] ++
        (List.replicate 64 0 ++ ([cur.npc, 0, 0, wd (na % 65536 * 65536 + nr % 65536)] ++ List.replicate 52 0)) := by
  have ha : (List.range 64).map (fun l => ((([] : List (Nat × Word)).find? (fun x => x.1 == l)).map (·.2)).getD 0) =
      List.replicate 64 (0 : Word) := List.map_const
  simp only [frameWords, mkTrap, ha, List.append_assoc, Bool.false_eq_true, if_false, Nat.zero_mod, Nat.zero_mul, Nat.add_zero,
    Nat.reducePow]

theorem frameRule_of_ne {s : State} {e : Env} {q : TrapReq} {k : Nat} (h : 8 ≤ k) (h1 : k ≠ 72) (h2 : k ≠ 75) :
    frameRule s e q k = 0 := by
  simp only [frameRule, h1, h2, if_false]
  split_ifs <;> omega

/-- The first eight doublewords, the 64 of the addresses, the four after them, and the rest of the frame. -/
theorem frameWords_getD {c b : Nat} {m : Word} {s : State} {e : Env} {k : Nat} :
    (frameWords e.cur (mkTrap c b m) (trapHead e.p e.cur (mkTrap c b m)) e.p.act e.p.fmt (s.gstAt e.t e.g e.p) e.g.na e.g.nr).getD k 0 =
      wd (frameRule s e (mkTrap c b m) k) := by
  rw [frameWords_mkTrap]
  rcases Nat.lt_or_ge k 8 with h | h
  · rw [List.getD_append _ _ _ _ h]
    interval_cases k <;> simp [frameRule, mkTrap, wd]
  rw [List.getD_append_right _ _ _ _ h]
  rcases Nat.lt_or_ge k 72 with h2 | h2
  · rw [List.getD_append _ _ _ _ (by simp; omega), frameRule_of_ne h (by omega) (by omega), List.getD_replicate _ (by simp; omega)]
    rfl
  rw [List.getD_append_right _ _ _ _ (by simp; omega)]
  rcases Nat.lt_or_ge k 76 with h3 | h3
  · interval_cases k <;> simp [frameRule, wd]
  · rw [List.getD_append_right _ _ _ _ (by simp; omega), frameRule_of_ne h (by omega) (by omega),
      List.getD_eq_getElem?_getD, List.getElem?_replicate]
    split <;> rfl

/-! ### At the handler (R376) -/

/-- How the path stands at its handler. -/
def Path.toHandler (x : Path) (lanes tvec : Word) : Path :=
  { x with act := lanes, fmt := 0, pc := advPc tvec, chain := none, lat := [], park := none, age := none, prog := none }

/-- How the group stands at its handler. -/
def Group.toHandler (g : Group) (pid : Nat) (lanes held tvec : Word) : Group :=
  { g.updPath pid (fun x => x.toHandler lanes tvec) with inTrap := true, held := held }

/-- The path goes on at its handler, its group at supervisor level. -/
def atHandler (p : PathId) (lanes held tvec : Word) : M Unit := do
  modPath p (fun x => x.toHandler lanes tvec)
  modGroup p.team p.who (fun g => { g with inTrap := true, held := held })
  orGst p.team p.who.idx 0x1000

section Handler

variable {s : State} {p : PathId} {cur : Cur} {q : TrapReq} {r : Run} {t : Team} {g : Group} {l : Loc}

theorem enterHandler_eq (h : q.lanes &&& (s.pathOf p).act ≠ 0) : enterHandler s p cur q l = (do
      let g ← getGroup p.team p.who
      frameEntries p (s.ctl.team p.team) (s.ctl.ctx (s.ctl.team p.team).rctx).kslot l (s.csrOf p.team p.who.idx 3).toNat
        (frameWords cur q (trapHead (s.pathOf p) cur q) (s.pathOf p).act (s.pathOf p).fmt
          (s.gstAt (s.ctl.team p.team) g (s.pathOf p)) g.na g.nr)
      atHandler p (q.lanes &&& (s.pathOf p).act) ((s.pathOf p).act &&& ~~~(q.lanes &&& (s.pathOf p).act)) (s.csrOf p.team p.who.idx 2)) := by
  simp only [enterHandler, if_neg h]
  rfl

/-- Setting bits of a party's `gst` where the registers are those of s. -/
theorem orGst_run {n : Nat} (hc : r.st.csr = s.csr) (hw : s.wf) (uid m : Nat) :
    ∃ c, (orGst uid n m r).2.st = { r.st with csr := c } ∧
      c.get (csrKey uid n 0) = s.csrOf uid n 0 ||| (wd m &&& csrLayout 0) ∧
      ∀ key, key ≠ csrKey uid n 0 → c.get key = s.csr.get key := by
  obtain ⟨c, hc', h0, hk⟩ := updGst_apply s r.st uid n m hc hw.2.1.2.2.2.2.2 hw.2.2
  have hu : updGst r.st uid n m = updGst s uid n m := by rw [updGst, updGst, State.csrOf, State.csrOf, hc]
  refine ⟨c, ?_, h0, hk⟩
  rw [orGst, bind_run, getS_run]
  simp only [emits_run, hu, hc']

/-- The part of `atHandler` before `gst` changes the control state only, and no entry. -/
theorem toHandler_run (h : r.st.ctl.Shows p t g) (lanes held tvec : Word) :
    ∃ d t', (modGroup p.team p.who (fun g => { g with inTrap := true, held := held })
        (modPath p (fun x => x.toHandler lanes tvec) r).2).2.st = { r.st with ctl := d } ∧ d.entries = r.st.ctl.entries ∧
      d.Shows p t' (g.toHandler p.pid lanes held tvec) := by
  have h1 := h.updPath (q := fun x => x.toHandler lanes tvec) (fun _ => rfl)
  exact ⟨_, _, rfl, rfl, h1.updParty (f := fun g => { g with inTrap := true, held := held }) (fun _ => rfl) h1.path⟩

/-- Going on at the handler changes `gst` by its PL and of the control state no entry. -/
theorem atHandler_run (h : r.st.ctl.Shows p t g) (hc : r.st.csr = s.csr) (hw : s.wf) (lanes held tvec : Word) :
    ∃ c d t', (leaves p (atHandler p lanes held tvec r).2).2.st = { r.st with csr := c, ctl := d } ∧
      d.entries = r.st.ctl.entries ∧
      d.Shows p t' { (g.toHandler p.pid lanes held tvec).updPath p.pid id with lastPid := p.pid } ∧
      c.get (csrKey p.team p.who.idx 0) = s.csrOf p.team p.who.idx 0 ||| 0x1000 ∧
      ∀ key, key ≠ csrKey p.team p.who.idx 0 → c.get key = s.csr.get key := by
  obtain ⟨d, t', hd, he, hs⟩ := toHandler_run h lanes held tvec
  rw [atHandler, bind_run, bind_run]
  generalize (modGroup p.team p.who (fun g => { g with inTrap := true, held := held })
        (modPath p (fun x => x.toHandler lanes tvec) r).2).2 = r2 at hd ⊢
  have hc2 : r2.st.csr = s.csr := by rw [hd]; exact hc
  obtain ⟨c, hr, h0, hk⟩ := orGst_run (n := p.who.idx) hc2 hw p.team 0x1000
  generalize (orGst p.team p.who.idx 0x1000 r2).2 = r3 at hr ⊢
  refine ⟨c, d.leave p id, _, ?_, he, hs.leave (q := id) (fun _ => rfl), h0, hk⟩
  rw [leaves, modC_run]
  simp only [hr, hd]

/-- How the path and its group stand once the path has left its place at the handler. -/
theorem toHandler_left (h : g.paths.any (fun x => x.pid == p.pid) = true) (lanes held tvec : Word) :
    ({ (g.toHandler p.pid lanes held tvec).updPath p.pid id with lastPid := p.pid } : Group).path p.pid =
      (g.path p.pid).toHandler lanes tvec :=
  Group.path_updPath_updPath (q := fun x => x.toHandler lanes tvec) (q2 := id) (fun _ => rfl) (fun _ => rfl) h

end Handler

section Enter

variable {s : State} {cur : Cur} {f : Fields} {q : TrapReq} {r : Run} {t : Team} {l : Loc}

theorem gstAt_demote (s : State) (t : Team) (g : Group) (pid : Nat) (x : Path) : s.gstAt t (g.demote pid) x = s.gstAt t g x := by
  have h : (g.demote pid).who = g.who ∧ (g.demote pid).recruit = g.recruit := by
    rw [Group.demote_eq]
    exact ⟨rfl, rfl⟩
  rw [State.gstAt, State.gstAt, h.1, h.2]

theorem nr_demote (g : Group) (pid : Nat) : (g.demote pid).nr = g.nr := by
  have h : (g.demote pid).spilled = g.spilled := by rw [Group.demote_eq]
  rw [Group.nr, Group.nr, Group.length_recon_demote, h]

theorem na_demote (g : Group) (pid : Nat) : (g.demote pid).na = g.na := by
  have h : (g.demote pid).spilled = g.spilled ∧ (g.demote pid).ras = g.ras := by
    rw [Group.demote_eq]
    exact ⟨rfl, rfl⟩
  rw [Group.na, Group.na, h.1, h.2]

/-- The entries of a frame hold the doublewords of R377. -/
theorem frameEntry_holds {ws : List Word} {e : Env} {new : List Entry} {p : PathId}
    (hws : ∀ k, ws.getD k 0 = wd (frameRule s e q k)) (hf : List.Forall₂ (FrameEntry p l ws) (List.range 16) new) :
    new.length = 16 ∧ ∀ i x, new[i]? = some x → x.act = .write ∧ x.team = p.team ∧ x.who = p.who ∧ x.stage = .pend ∧
      x.els.map (fun y => (y.loc, y.n, y.data)) =
        (List.range 8).map (fun k => (l.plus (64 * i + 8 * k), 8, wd (frameRule s e q (8 * i + k)))) := by
  refine ⟨hf.length_eq.symm.trans List.length_range, fun i x hx => ?_⟩
  obtain ⟨hi, rfl⟩ := List.getElem?_eq_some_iff.1 hx
  have h := List.Forall₂.get hf (i := i) (by rw [hf.length_eq]; exact hi) hi
  rw [List.get_eq_getElem, List.getElem_range, List.get_eq_getElem] at h
  obtain ⟨ha, ht, hwho, hp, he⟩ := h
  refine ⟨ha, ht, hwho, hp, he.trans ?_⟩
  simp only [hws]

theorem enterHandler_entered (hs : s.ctl.stands cur.p = true) (hw : s.wf) {c b : Nat} {m : Word} (hq : q = mkTrap c b m)
    (ha : q.lanes &&& (s.pathOf cur.p).act ≠ 0) (hr : SameRegs s r.st) (h : r.st.ctl.Shows cur.p t ((s.groupOf cur.p).demote cur.p.pid)) :
    Entered s r.st (leaves cur.p (enterHandler s cur.p cur q l r).2).2.st (envOf s cur f) q l := by
  obtain ⟨hv, hvi, hra, hrw, hk, hcsr⟩ := hr
  rw [enterHandler_eq ha, bind_run, getGroup_run, bind_run, h.party_eq]
  dsimp only
  generalize hws : frameWords cur q (trapHead (s.pathOf cur.p) cur q) (s.pathOf cur.p).act (s.pathOf cur.p).fmt
    (s.gstAt (s.ctl.team cur.p.team) ((s.groupOf cur.p).demote cur.p.pid) (s.pathOf cur.p)) _ _ = ws
  have hd : ∀ k, ws.getD k 0 = wd (frameRule s (envOf s cur f) q k) := by
    intro k
    rw [← hws, hq, gstAt_demote, nr_demote, na_demote]
    exact frameWords_getD (e := envOf s cur f)
  obtain ⟨n, new, hn, hf⟩ := frameEntries_appends cur.p (s.ctl.team cur.p.team) (s.ctl.ctx (s.ctl.team cur.p.team).rctx).kslot l
    (s.csrOf cur.p.team cur.p.who.idx 3).toNat ws r
  generalize (frameEntries cur.p (s.ctl.team cur.p.team) (s.ctl.ctx (s.ctl.team cur.p.team).rctx).kslot l
    (s.csrOf cur.p.team cur.p.who.idx 3).toNat ws r).2 = r2 at hn ⊢
  have h2 : r2.st.ctl.Shows cur.p t ((s.groupOf cur.p).demote cur.p.pid) := by rw [hn]; exact h.congr rfl
  have hc2 : r2.st.csr = s.csr := by rw [hn]; exact hcsr
  obtain ⟨c', d, t', hst, he, hsh, h0, hkey⟩ := atHandler_run h2 hc2 hw (q.lanes &&& (s.pathOf cur.p).act)
    ((s.pathOf cur.p).act &&& ~~~(q.lanes &&& (s.pathOf cur.p).act)) (s.csrOf cur.p.team cur.p.who.idx 2)
  obtain ⟨hl, hent⟩ := frameEntry_holds hd hf
  have hpath : ∀ u : State, u.ctl = d → u.pathOf cur.p =
      (s.pathOf cur.p).toHandler (q.lanes &&& (s.pathOf cur.p).act) (s.csrOf cur.p.team cur.p.who.idx 2) := by
    intro u hu
    rw [(hu ▸ hsh : u.ctl.Shows _ _ _).pathOf, toHandler_left h.path, Group.path_demote]
    rfl
  have hgroup : ∀ u : State, u.ctl = d → u.groupOf cur.p =
      { (((s.groupOf cur.p).demote cur.p.pid).toHandler cur.p.pid (q.lanes &&& (s.pathOf cur.p).act)
          ((s.pathOf cur.p).act &&& ~~~(q.lanes &&& (s.pathOf cur.p).act)) (s.csrOf cur.p.team cur.p.who.idx 2)).updPath cur.p.pid id
        with lastPid := cur.p.pid } := fun u hu => (hu ▸ hsh : u.ctl.Shows _ _ _).groupOf
  have hpid := envOf_pid (f := f) hs
  have hcp : (envOf s cur f).cur.p = cur.p := rfl
  rw [hst, Entered, envOf_uid hs, envOf_who hs, hcp, hpath _ rfl, hgroup _ rfl]
  simp only [hn]
  refine ⟨⟨rfl, rfl, rfl, rfl, rfl⟩, hv, hvi, hra, hrw, hk, h0, hkey, rfl, rfl, rfl, rfl, rfl, ?_, rfl, rfl, new, ?_, hl, ?_⟩
  · rw [hpid]; exact Group.recon_demote _ _
  · rw [he, hn]; rfl
  · exact hent

end Enter

/-! ### A trap is taken (R376, R379) -/

/-- A part of a meaning records what it changes. -/
abbrev Records {α : Type} (m : M α) : Prop := Keeps (fun _ => ()) m

theorem records_modC (f : Ctl → Ctl) : Records (modC f) := .modC fun _ => rfl

theorem records_freshId : Records freshId := .getC fun _ => .bind (fun _ => .setC rfl) fun _ => .pure _

theorem records_orGst (uid n m : Nat) : Records (orGst uid n m) := .getS fun _ _ => .emits rfl

theorem records_frameEntries (p : PathId) (t : Team) (kslot : Nat) (l : Loc) (va : Nat) (ws : List Word) :
    Records (frameEntries p t kslot l va ws) :=
  .bind records_freshId fun _ => .forEach fun _ => .bind records_freshId fun _ => .getC fun _ => records_modC _

theorem records_getGroup (uid : Nat) (who : Who) : Records (getGroup uid who) := .getC fun _ => .pure _

theorem records_atHandler (p : PathId) (lanes held tvec : Word) : Records (atHandler p lanes held tvec) :=
  .bind (records_modC _) fun _ => .bind (records_modC _) fun _ => records_orGst _ _ _

theorem records_enterHandler {s : State} {p : PathId} {cur : Cur} {q : TrapReq} {l : Loc} (h : q.lanes &&& (s.pathOf p).act ≠ 0) :
    Records (enterHandler s p cur q l) := by
  rw [enterHandler_eq h]
  exact .bind (records_getGroup _ _) fun _ => .bind (records_frameEntries _ _ _ _ _ _) fun _ => records_atHandler _ _ _ _

theorem CtlOnly.records {α : Type} {m : M α} (h : CtlOnly m) : Records m := fun r => ⟨rfl, (h r).2⟩

theorem sameRegs_of_regsTeams {s t : State} (h : t.regsTeams = s.regsTeams) : SameRegs s t := by
  simp only [State.regsTeams, Prod.mk.injEq] at h
  exact h.1

theorem SameRegs.trans {s t u : State} (h : SameRegs s t) (h2 : SameRegs t u) : SameRegs s u := by
  obtain ⟨a, b, c, d, e, f⟩ := h
  obtain ⟨a2, b2, c2, d2, e2, f2⟩ := h2
  exact ⟨a2.trans a, b2.trans b, c2.trans c, d2.trans d, e2.trans e, f2.trans f⟩

theorem SameStores.trans {s t u : State} (h : SameStores s t) (h2 : SameStores t u) : SameStores s u := by
  obtain ⟨⟨a, b, c, d, e⟩, hr⟩ := h
  obtain ⟨⟨a2, b2, c2, d2, e2⟩, hr2⟩ := h2
  exact ⟨⟨a2.trans a, b2.trans b, c2.trans c, d2.trans d, e2.trans e⟩, hr.trans hr2⟩

theorem Serviced.of_sameStores {s t u : State} {e : Env} {q : TrapReq} (h : Serviced t u e q) (hs : SameStores s t) : Serviced s u e q :=
  ⟨hs.trans h.1, h.2⟩

section Frame

variable {s s0 s1 : State} {p : PathId} {x : Tr}

/-- Demotion, and the question where the frame goes, leave the registers, and the group but for its demotion. -/
theorem frameOf_run (hs : s.ctl.stands p = true) (hd : Runs (demote p.team p.who p.pid) s () s0) (hf : Runs (frameOf s p) s0 x s1) :
    ∃ r1 t, frameOf s p (demote p.team p.who p.pid { st := s, log := [] }).2 = (x, r1) ∧ r1.st = s1 ∧ r1.Tied s ∧ SameRegs s r1.st ∧
      r1.st.ctl.Shows p t ((s.groupOf p).demote p.pid) := by
  obtain ⟨log0, h0⟩ := hd []
  obtain ⟨log1, h1⟩ := hf log0
  have hk := ctlOnly_demote p.team p.who p.pid { st := s, log := [] }
  have hq : KeepsAt State.regsTeams (frameOf s p) { st := s0, log := log0 } := quiet_frameReach _ _ _ _
  obtain ⟨t, h⟩ := demote_shows (r := { st := s, log := [] }) (Ctl.shows_of_stands hs)
  rw [KeepsAt, h0] at hk
  rw [KeepsAt, h1] at hq
  rw [h0] at h ⊢
  obtain ⟨hk, hkt⟩ := hk
  obtain ⟨hq, hqt⟩ := hq
  refine ⟨_, t, h1, rfl, hqt s (hkt s rfl), ?_, h.congr (congrArg Prod.snd hq)⟩
  exact (sameStores_of_stores hk).2.trans (sameRegs_of_regsTeams hq)

end Frame

section Taken

variable {i : Instr} {f : Fields} {cur : Cur} {s s0 s1 : State} {q : TrapReq}

/-- What the instruction of a trap that is taken does, from its place to its leaving it. -/
theorem exec_takes (h : AtPlace i f cur s) (hq : trapRule (envOf s cur f) i = some q) (hh : (envOf s cur f).p.helper = none)
    (hd : ∀ x ∈ (envOf s cur f).g.live, x.pid ≠ (envOf s cur f).p.pid → x.doomed = none) :
    exec i s = runM (do takeTrap cur.p cur q; leaves cur.p) s := by
  have hs := h.stands
  obtain ⟨c, b, m, hqe, hc, -⟩ := trapRule_precise hq
  refine (exec_of_trapRule h hq).trans (runM_congr ?_)
  have hr : raise cur.p cur q { st := s, log := [] } = takeTrap cur.p cur q { st := s, log := [] } :=
    raise_run (fun x hx hne => hd x hx (by rwa [envOf_pid hs])) hh (by rw [hqe]; exact hc)
  rw [bind_run, bind_run, hr]

/-- A trap that goes to the host (R379, R380). -/
theorem exec_serviced (hs : s.ctl.stands cur.p = true) (he : exec i s = runM (do takeTrap cur.p cur q; leaves cur.p) s)
    (hq : q.Precise)
    (h : cur.p.who = .bobbin ∨ (s.groupOf cur.p).inTrap = true ∨ s.csrOf cur.p.team cur.p.who.idx 2 = 0) :
    ∃ t, exec i s = .next t ∧ Serviced s t (envOf s cur f) q := by
  obtain ⟨c, b, m, rfl, -, hc⟩ := hq
  obtain ⟨t, hsh⟩ := demote_shows (r := { st := s, log := [] }) (Ctl.shows_of_stands hs)
  have hk := ctlOnly_demote cur.p.team cur.p.who cur.p.pid { st := s, log := [] }
  have hrun := takeTrap_host (p := cur.p) (cur := cur) (r := { st := s, log := [] }) (q := mkTrap c b m) rfl hc h
  refine ⟨_, he.trans (runM_of_run (view := State.stores) (r1 := (demote cur.p.team cur.p.who cur.p.pid { st := s, log := [] }).2)
    (n := do hostService cur.p cur (mkTrap c b m) (trapHead (s.pathOf cur.p) cur (mkTrap c b m)) (s.groupOf cur.p).inTrap; leaves cur.p)
    ?_ (hk.2 s rfl) ?_), ?_⟩
  · rw [bind_run, hrun]; rfl
  · exact Keeps.bind (ctlOnly_hostService _ _ _ _ _) (fun _ => ctlOnly_modC _) _
  · exact (hostService_serviced hs rfl hsh).of_sameStores (sameStores_of_stores hk.1)

/-- A trap of a group outside a trap, with a handler: what becomes of it once it is known where the frame goes. -/
theorem exec_handler {x : Tr} (hs : s.ctl.stands cur.p = true) (he : exec i s = runM (do takeTrap cur.p cur q; leaves cur.p) s)
    (hd : Runs (demote cur.p.team cur.p.who cur.p.pid) s () s0) (hf : Runs (frameOf s cur.p) s0 x s1)
    {n : M Unit} (hn : Records n)
    (h : ∀ r1, frameOf s cur.p (demote cur.p.team cur.p.who cur.p.pid { st := s, log := [] }).2 = (x, r1) →
      takeTrap cur.p cur q { st := s, log := [] } = n r1) :
    ∃ r1 t, exec i s = .next (leaves cur.p (n r1).2).2.st ∧ r1.st = s1 ∧ SameRegs s r1.st ∧
      r1.st.ctl.Shows cur.p t ((s.groupOf cur.p).demote cur.p.pid) := by
  obtain ⟨r1, t, hr, h1, ht, hreg, hsh⟩ := frameOf_run hs hd hf
  have hrun := runM_of_run (n := do n; leaves cur.p) (view := fun _ => ()) (r1 := r1) (m := do takeTrap cur.p cur q; leaves cur.p)
    ?_ ht (Keeps.bind hn (fun _ => records_modC _) r1)
  · exact ⟨r1, t, he.trans hrun, h1, hreg, hsh⟩
  rw [bind_run, h r1 hr]
  rfl

end Taken

/-- A trap that waits for its frame: helper 0 is in helper mode again, and the path stands at its instruction. -/
def trapWaits (p : PathId) (cur : Cur) : M Unit := do
  helperAgain p
  modPath p (fun x => { x with pc := cur.pc, stalled := false })

theorem ctlOnly_trapWaits (p : PathId) (cur : Cur) : CtlOnly (trapWaits p cur) :=
  .bind (ctlOnly_helperAgain p) fun _ => ctlOnly_modPath _ _

/-- A path stands at a PC, its group outside a trap. -/
theorem trapWaits_left {r : Run} {p : PathId} {cur : Cur} {t : Team} {g : Group} (h : r.st.ctl.Shows p t g) (hg : g.inTrap = false) :
    SameStores r.st (leaves p (trapWaits p cur r).2).2.st ∧ ((leaves p (trapWaits p cur r).2).2.st.pathOf p).pc = cur.pc ∧
      ((leaves p (trapWaits p cur r).2).2.st.groupOf p).inTrap = false := by
  have hst := (Keeps.bind (ctlOnly_trapWaits p cur) (fun _ => ctlOnly_modC (fun c => c.leave p id)) r).1
  obtain ⟨t2, g2, h2, -, hi⟩ := helperAgain_shows h
  have h4 := (h2.updPath (q := fun x => { x with pc := cur.pc, stalled := false }) (fun _ => rfl)).leave (q := id) (fun _ => rfl)
  have h5 : (leaves p (trapWaits p cur r).2).2.st.ctl.Shows p _ _ := h4
  rw [h5.pathOf, h5.groupOf]
  have hpath := Group.path_updPath_updPath (q := fun x => { x with pc := cur.pc, stalled := false }) (q2 := id) (fun _ => rfl)
    (fun _ => rfl) h2.path
  exact ⟨sameStores_of_stores hst, congrArg Path.pc hpath, hi.trans hg⟩

section Taken

variable {i : Instr} {f : Fields} {cur : Cur} {s s0 s1 : State} {q : TrapReq}

section AtHandler

variable (hs : s.ctl.stands cur.p = true) (he : exec i s = runM (do takeTrap cur.p cur q; leaves cur.p) s)
  (hb : cur.p.who ≠ .bobbin) (ht : (s.groupOf cur.p).inTrap = false)
  (hv : s.csrOf cur.p.team cur.p.who.idx 2 ≠ 0) (hd : Runs (demote cur.p.team cur.p.who cur.p.pid) s () s0)
include hs he hb ht hv hd

theorem exec_enters {l : Loc} (hq : q.Precise) (hw : s.wf) (ha : q.lanes &&& (s.pathOf cur.p).act ≠ 0)
    (hf : Runs (frameOf s cur.p) s0 (.ok l) s1) :
    ∃ t, exec i s = .next t ∧ Entered s s1 t (envOf s cur f) q l := by
  obtain ⟨c, b, m, rfl, -, hc⟩ := hq
  obtain ⟨r1, t, h, h1, hreg, hsh⟩ := exec_handler hs he hd hf (records_enterHandler (s := s) (l := l) ha)
    (fun r1 hr => takeTrap_enters hb ht hv rfl hc hr)
  exact ⟨_, h, h1 ▸ enterHandler_entered hs hw rfl ha hreg hsh⟩

theorem exec_waits (hf : Runs (frameOf s cur.p) s0 .wait s1) :
    ∃ t, exec i s = .next t ∧ SameStores s1 t ∧ (t.pathOf cur.p).pc = cur.pc ∧ (t.groupOf cur.p).inTrap = false := by
  obtain ⟨r1, t, h, h1, -, hsh⟩ := exec_handler hs he hd hf (ctlOnly_trapWaits cur.p cur).records
    (fun r1 hr => takeTrap_waits hb ht hv hr)
  have hi : ((s.groupOf cur.p).demote cur.p.pid).inTrap = false := by rw [Group.demote_eq]; exact ht
  exact ⟨_, h, h1 ▸ trapWaits_left hsh hi⟩

theorem exec_faults {c b : Nat} (hq : q.Precise) (hf : Runs (frameOf s cur.p) s0 (.fault c b) s1) :
    ∃ t, exec i s = .next t ∧ Serviced s1 t (envOf s cur f) q := by
  obtain ⟨c', b', m, rfl, -, hc⟩ := hq
  obtain ⟨r1, t, h, h1, -, hsh⟩ := exec_handler hs he hd hf
    (ctlOnly_hostService cur.p cur (mkTrap c' b' m) (trapHead (s.pathOf cur.p) cur (mkTrap c' b' m)) false).records
    (fun r1 hr => takeTrap_faults hb ht hv rfl hc hr)
  have hsv := hostService_serviced (f := f) hs (q := mkTrap c' b' m) rfl hsh
  rw [ht] at hsv
  exact ⟨_, h, h1 ▸ hsv⟩

end AtHandler
end Taken

/-- Traps are taken at the handler, wait, or go to the host. -/
theorem trapsAreTaken : Claims.TrapsAreTaken := by
  intro i f cur s q hw h e hq hh ha hl
  have hs := AtPlace.stands h
  have he := exec_takes h hq hh hl
  have hp := trapRule_precise hq
  have hu : e.uid = cur.p.team := envOf_uid hs
  have hwho : e.g.who = cur.p.who := envOf_who hs
  have hpid : e.p.pid = cur.p.pid := envOf_pid hs
  have hbob : e.bob = (cur.p.who == .bobbin) := by rw [Env.bob, hwho]
  rw [hu, hwho, hpid, hbob]
  refine ⟨fun s0 hb ht hv hd => ?_, fun hc => exec_serviced hs he hp ?_⟩
  · have hb : cur.p.who ≠ .bobbin := by simpa using hb
    exact ⟨fun s1 l hf => exec_enters hs he hb ht hv hd hp hw ha hf, fun s1 hf => exec_waits hs he hb ht hv hd hf,
      fun s1 c b hf => exec_faults hs he hb ht hv hd hp hf⟩
  · exact hc.imp_left eq_of_beq

end Sys2Proof.Machine
end

section
/-! SUPPORT. Returning from a trap (R382). -/

namespace Sys2Proof.Machine

/-! ### Returning from a trap (R382) -/

/-- `gst` after a return: at user level, with the flags of the frame. -/
def Env.frameGst (e : Env) (fr : List Word) : Word := (e.s.csrOf e.uid e.home 0 &&& ~~~(0x307F : Word)) ||| (fr.getD 7 0 &&& 0x7F)

/-- The path as its frame holds it. -/
def Path.ofFrame (x : Path) (act : Word) (nx : Bool) (fr : List Word) : Path :=
  { x with pc := if nx then fr.getD 72 0 else fr.getD 0 0, act := act, fmt := fmtAll x.fmt.toNat (fr.getD 6 0).toNat,
           helper := none, hk := [] }

/-- The path goes on as its frame says, its group out of its trap. -/
def Env.restore (e : Env) (nx : Bool) (fr : List Word) : M Unit := do
  emit (.csr (csrKey e.uid e.home 0) (e.frameGst fr))
  modGroup e.uid e.g.who (fun g => { g with inTrap := false, held := 0 })
  modPath e.cur.p (fun x => x.ofFrame (e.tretLanes (fr.getD 3 0) none) nx fr)

/-- The path starts a chain at a PC that its instruction has given it. -/
def Path.jumped (x : Path) : Path := { x with chain := none, lat := [], stalled := false, age := none }

section Return

variable {e : Env} {fr : List Word} {r : Run} {t : Team} {g : Group}

/-- What a `tret` does outside helper code, where a lane goes on. -/
theorem tretTo_eq (nx : Bool) (hr : e.g.recruit = none) (ha : e.tretLanes (fr.getD 3 0) none ≠ 0) : e.tretTo nx fr = (do
      e.restore nx fr
      return .ok ()) := by
  rw [Env.tretTo]
  simp only [hr]
  rw [if_neg ha]
  rfl

/-- The bits of a `gst` after a return are none of the reserved ones (R62). -/
theorem frameGst_layout (h : e.s.csrWf) : e.frameGst fr &&& csrLayout 0 = e.frameGst fr := by
  have h0 : e.s.csrOf e.uid e.home 0 &&& csrLayout 0 = e.s.csrOf e.uid e.home 0 := by
    have hk := h (csrKey e.uid e.home 0)
    rw [show csrKey e.uid e.home 0 % 8 = 0 by unfold csrKey; omega] at hk
    exact and_of_and_not hk
  have h7 : (0x7F : Word) &&& csrLayout 0 = 0x7F := by decide
  rw [Env.frameGst, and_or_right, BitVec.and_assoc, BitVec.and_comm (~~~_), ← BitVec.and_assoc, h0, BitVec.and_assoc, h7]

theorem records_restore (nx : Bool) : Records (e.restore nx fr) :=
  .bind (fun _ => .emits (us := [_]) rfl) fun _ => .bind (records_modC _) fun _ => records_modC _

theorem restore_run (nx : Bool) (hu : e.uid = e.cur.p.team) (hwho : e.g.who = e.cur.p.who)
    (h : r.st.ctl.Shows e.cur.p t g) (hw : e.s.wf) (hc : r.st.csr = e.s.csr) :
    ∃ c d t', (modC (fun c => c.leave e.cur.p Path.jumped) (e.restore nx fr r).2).2.st = { r.st with csr := c, ctl := d } ∧
      d.Shows e.cur.p t' { (({ g with inTrap := false, held := 0 }).updPath e.cur.p.pid
        (fun x => x.ofFrame (e.tretLanes (fr.getD 3 0) none) nx fr)).updPath e.cur.p.pid Path.jumped with lastPid := e.cur.p.pid } ∧
      c.get (csrKey e.uid e.home 0) = e.frameGst fr ∧ ∀ key, key ≠ csrKey e.uid e.home 0 → c.get key = e.s.csr.get key := by
  have h1 := h.updParty (f := fun g => { g with inTrap := false, held := 0 }) (fun _ => rfl) h.path
  have h2 := h1.updPath (q := fun x => x.ofFrame (e.tretLanes (fr.getD 3 0) none) nx fr) (fun _ => rfl)
  have h3 := h2.leave (q := Path.jumped) (fun _ => rfl)
  refine ⟨r.st.csr.set (csrKey e.uid e.home 0) (e.frameGst fr &&& csrLayout (csrKey e.uid e.home 0 % 8)), _, _, ?_, h3, ?_, ?_⟩
  · rw [Env.restore, hu, hwho]
    rfl
  · rw [hc, Sparse.get_set_self _ _ _ hw.2.1.2.2.2.2.2, show csrKey e.uid e.home 0 % 8 = 0 by unfold csrKey; omega,
      frameGst_layout hw.2.2]
  · intro key hk
    rw [hc, Sparse.get_set_ne _ _ _ _ hk]

end Return

section Tret

variable {f : Fields} {cur : Cur} {s s1 : State} {fr : List Word} {r1 : Run}

/-- A `tret` in a trap, with its frame read, goes on as the frame says. -/
theorem exec_tret (h : Executes (.tret f) f cur s) (hi : (envOf s cur f).g.inTrap = true) (hr : (envOf s cur f).g.recruit = none)
    (hf : (envOf s cur f).readFrame { st := s, log := [] } = (.ok fr, r1)) (ht : r1.Tied s)
    (hn : wfld (fr.getD 75 0) 15 0 = (envOf s cur f).g.nr) (hna : wfld (fr.getD 75 0) 31 16 = (envOf s cur f).g.na)
    (ha : (envOf s cur f).tretLanes (fr.getD 3 0) none ≠ 0) :
    exec (.tret f) s =
      .next (modC (fun c => c.leave cur.p Path.jumped) ((envOf s cur f).restore (f.mod.getLsbD 0) fr r1).2).2.st := by
  have hx : exec (.tret f) s = _ := issue_of_executes h _
  refine hx.trans (runM_of_run (view := fun _ => ()) (n := do
    (envOf s cur f).restore (f.mod.getLsbD 0) fr
    modC (fun c => c.leave cur.p Path.jumped)) ?_ ht (Keeps.bind (records_restore _) (fun _ => records_modC _) r1))
  have hto := attempt_ok (m := (envOf s cur f).tretTo (f.mod.getLsbD 0) fr) (r := r1) (a := ())
    (by rw [tretTo_eq _ hr ha]; rfl)
  rw [hi]
  simp only [Bool.not_true, Bool.false_eq_true, if_false, bind_run, attempt_ok hf, hn, hna, ne_eq, not_true_eq_false, or_self, hto]
  rfl

end Tret

/-- A `tret` in a trap (R382). -/
theorem tretRestoresTheFrame : Claims.TretRestoresTheFrame := by
  intro f cur s s1 fr h hw e act hi hr hf hreg hn hna ha
  obtain ⟨log, h1⟩ := hf []
  have hq := quiet_readFrame e { st := s, log := [] }
  rw [KeepsAt, h1] at hq
  have hsh : s1.ctl.Shows cur.p e.t e.g := (Ctl.shows_of_stands h.stands).congr (congrArg Prod.snd hq.1)
  have hx := exec_tret (r1 := { st := s1, log := log }) h hi hr h1 (hq.2 s rfl) hn hna ha
  obtain ⟨c, d, t', hst, hd, hg, hk⟩ := restore_run (e := e) (fr := fr) (r := { st := s1, log := log }) (f.mod.getLsbD 0)
    (envOf_uid h.stands) (envOf_who h.stands) hsh hw hreg.2.2.2.2.2
  obtain ⟨hv, hvi, hra, hrw, hrk, -⟩ := hreg
  refine ⟨{ s1 with csr := c, ctl := d }, hx.trans (congrArg _ hst), ⟨rfl, rfl, rfl, rfl, rfl⟩, hv, hvi, hra, hrw, hrk, ?_⟩
  have hpath := (Ctl.Shows.pathOf (s := { s1 with csr := c, ctl := d }) (p := cur.p) hd).trans
    (Group.path_updPath_updPath (g := e.g) (q := fun x => x.ofFrame act (f.mod.getLsbD 0) fr) (q2 := Path.jumped)
      (fun _ => rfl) (fun _ => rfl) hsh.path)
  have hgroup := Ctl.Shows.groupOf (s := { s1 with csr := c, ctl := d }) (p := cur.p) hd
  rw [hpath, hgroup]
  exact ⟨rfl, rfl, rfl, rfl, rfl, hg, hk⟩

/-- Settles O50: traps by the place that is found for their frame, `tret` by the run of what it restores. -/
theorem trapsAreTakenAndReturnedFrom : Obligations.TrapsAreTakenAndReturnedFrom := ⟨trapsAreTaken, tretRestoresTheFrame⟩

end Sys2Proof.Machine
end

section
/-! SUPPORT. What a step does to the stores (R62, R63): every instruction and every step of the device answers with primitive
updates of the state, and each of those keeps the stores' canonical form. -/

namespace Sys2Proof.Machine

/-! ### The invariant under updates -/

theorem applyUpd_wf (s : State) (u : Upd) (h : s.wf) : (applyUpd s u).wf := by
  obtain ⟨hm, hr, hc⟩ := h
  exact ⟨applyUpd_memWf s u hm, applyUpd_regWf s u hr, applyUpd_csrWf s u hr hc⟩

theorem applyAll_wf (s : State) (us : List Upd) (h : s.wf) : (applyAll s us).wf := applyAll_keeps applyUpd_wf s us h

/-- The memories kept for later fetches are part of the control state (R226). -/
theorem remember_wf {s : State} (before : State) (h : s.wf) : (s.remember before).wf := by
  unfold State.remember
  split <;> exact h

/-! ### What an instruction answers -/

/-- What is not fetched is a step of the device (R40). -/
theorem exec_event {i : Instr} (h : fetched i = false) (s : State) : ∃ m, exec i s = event m s := by
  cases i with
  | _ => cases h <;> exact ⟨_, rfl⟩

/-- An instruction in the executing place, or a step of the device, answers the next state. -/
theorem exec_next {i : Instr} {s : State} (h : fetched i = true → s.ctl.cur.isSome = true) :
    ∃ us, exec i s = .next (applyAll s us) := by
  cases hi : fetched i with
  | false =>
    obtain ⟨m, hm⟩ := exec_event hi s
    exact ⟨updatesOf m s, hm⟩
  | true =>
    obtain ⟨cur, hc⟩ := Option.isSome_iff_exists.1 (h hi)
    cases hf : i.fields with
    | some f =>
      obtain ⟨body, hb⟩ := exec_issues hf
      refine ⟨updatesOf (issueM i f cur body) s, ?_⟩
      rw [hb, issue, hc]
      rfl
    | none =>
      cases i with
      | reservedEncoding bits why =>
        show ∃ us, execReservedEncoding bits why s = _
        rw [execReservedEncoding, hc]
        exact ⟨_, rfl⟩
      | _ => simp [fetched, hf] at hi

/-! ### What a move makes ready -/

/-- A part of a meaning that answers an instruction has just put it in the executing place. -/
def Places (m : M (Option Cur)) : Prop := ∀ r c, (m r).1 = some c → ∃ d log, (m r).2.log = .ctl d :: log ∧ d.cur = some c

theorem Places.bind {α : Type} {m : M α} {f : α → M (Option Cur)} (h : ∀ a, Places (f a)) : Places (m >>= f) := fun _ => h _ _

theorem Places.none : Places (pure none) := fun _ _ h => by cases h

theorem Places.ite {c : Prop} [Decidable c] {m n : M (Option Cur)} (hm : Places m) (hn : Places n) : Places (if c then m else n) := by
  split
  · exact hm
  · exact hn

theorem places_cur (cur : Cur) : Places (do modC (fun c => { c with cur := some cur }); return some cur) :=
  fun _ _ h => ⟨_, _, rfl, h⟩

/-- A fetch ends in a wait or a trap, or with its instruction in the executing place (R39). -/
theorem places_fetch (p : PathId) (back : Nat) : Places (fetch p back) := by
  have hfail : ∀ cur q, Places (do raise p cur q; modC (fun c => c.leave p id); return none) := fun _ _ => .bind fun _ => .bind fun _ => .none
  have hwait : Places (do modC (fun c => c.waits_ p id); return none) := .bind fun _ => .none
  refine .bind fun s => .ite (hfail _ _) (.bind fun x => ?_)
  cases x with
  | fault c b => exact hfail _ _
  | wait => exact hwait
  | ok l =>
    refine .bind fun x => ?_
    cases x with
    | wait => exact hwait
    | fail b => exact hfail _ _
    | ok => exact .ite (hfail _ _) (places_cur _)

theorem Places.cur_eq {m : M (Option Cur)} (h : Places m) {s : State} {c : Cur} (hc : valueOf m s = some c) :
    (applyAll s (updatesOf m s)).ctl.cur = some c := by
  obtain ⟨d, log, hl, hd⟩ := h { st := s, log := [] } c hc
  rw [updatesOf, hl, List.reverse_cons, applyAll_append]
  exact hd

theorem prepareMove_wf (m : Move) {s : State} (h : s.wf) : (prepareMove m s).1.wf := by
  cases m with
  | event i dt =>
    simp only [prepareMove]
    split <;> exact h
  | issue p back dt =>
    simp only [prepareMove]
    split
    · exact applyAll_wf _ _ h
    · exact h

theorem prepareMove_cur {m : Move} {s : State} {i : Instr} (h : (prepareMove m s).2 = some i) (hf : fetched i = true) :
    (prepareMove m s).1.ctl.cur.isSome = true := by
  cases m with
  | event j dt =>
    simp only [prepareMove] at h
    split at h
    · cases h
    · next hj =>
      cases h
      simp [hf] at hj
  | issue p back dt =>
    simp only [prepareMove] at h ⊢
    split at h
    · next hm =>
      obtain ⟨c, hc, -⟩ := Option.map_eq_some_iff.1 h
      rw [if_pos hm, (places_fetch p back).cur_eq hc]
      rfl
    · cases h

/-- The state before the schedule's next move is well formed where s is: only the control state differs. -/
theorem prepare_eq (s : State) : ∃ m c, prepare s = prepareMove m { s with ctl := c } := by
  unfold prepare
  split
  · exact ⟨_, _, rfl⟩
  · exact ⟨_, _, rfl⟩

/-! ### A step -/

theorem step_goesOn (s : State) : ∃ t, step s = .next t ∧ (s.wf → t.wf) := by
  obtain ⟨m, c, hp⟩ := prepare_eq s
  have hw : s.wf → (prepare s).1.wf := fun h => hp ▸ prepareMove_wf m (s := { s with ctl := c }) h
  have hc : ∀ i, (prepare s).2 = some i → fetched i = true → (prepare s).1.ctl.cur.isSome = true := by
    rw [hp]
    exact fun i => prepareMove_cur
  unfold step
  generalize prepare s = x at hw hc ⊢
  obtain ⟨t, o⟩ := x
  cases o with
  | none => exact ⟨_, rfl, fun h => remember_wf s (hw h)⟩
  | some i =>
    obtain ⟨us, hu⟩ := exec_next (hc i rfl)
    simp only [hu]
    exact ⟨_, rfl, fun h => remember_wf s (applyAll_wf t us (hw h))⟩

/-- Settles O5: what a step executes is in its executing place or is a step of the device, so it answers with updates. -/
theorem stepsKeepTheStoresWellFormed : Obligations.StepsKeepTheStoresWellFormed := step_goesOn

end Sys2Proof.Machine
end

section
/-! SUPPORT. Float instructions, conversions, packings and `vdot` (R69 to R73, R89 to R94): each issues through the frame of R18 with
the lane function that its rule names. -/

namespace Sys2Proof.Machine

/-- Two meanings that agree where an instruction executes are the same step of it. -/
theorem issue_congr {i : Instr} {f : Fields} {cur : Cur} {s : State} (h : Executes i f cur s) {m n : Env → M Res}
    (he : m (envOf s cur f) = n (envOf s cur f)) : issue i f m s = issue i f n s := by
  rw [issue_of_executes h, issue_of_executes h, he]

/-- An instruction of `floatRule` issues through the float frame, with that function of its sources. -/
theorem exec_of_floatRule {i : Instr} {f : Fields} {g : RM → FV → FV → FV → XR} (hg : floatRule i = some g)
    (hf : i.fields = some f) (s : State) : exec i s = issueOut i f (fun e => e.float g) s := by
  cases i with
  | fadd f' | fsub f' | fmul f' | fma f' | fmin f' | fmax f' | frnd f' | fdiv f' | fsqrt f' | frcp f' | frsq f' | fex2 f'
  | flg2 f' | fsin f' | fcos f' =>
    cases hg; cases hf
    rfl
  | _ => cases hg

/-- The float frame's lane: each half of a `.h2` is a binary16 value. -/
theorem floatLane_eq (e : Env) (g : FFmt → Nat → Nat → Nat → Nat × Nat) (l : Nat) : e.floatLane g l =
    let a := e.fbits e.f.sa.toNat l
    let b := e.fbits e.f.sb.toNat l
    let c := e.fbits e.f.sc.toNat l
    if e.ft = 4 then
      let lo := g f16 (a % 65536) (b % 65536) (c % 65536)
      let hi := g f16 (a / 65536) (b / 65536) (c / 65536)
      (lo.1 + 65536 * hi.1, lo.2 ||| hi.2)
    else g (fmtOf e.ft) a b c := by
  rw [Env.floatLane]
  split
  · next h4 => rw [h4]; rfl
  · rfl

/-- The float frame gives each lane what `floatLaneRule` names. -/
theorem float_eq (e : Env) (g : RM → FV → FV → FV → XR) :
    e.float g = e.alu (floatWidth e.ft) false (floatWidth e.ft == 64) (floatLaneRule e g) := by
  have hl : e.floatLane (fun f a b c => f.give e.rm (g e.rm (f.unpack a) (f.unpack b) (f.unpack c))) = floatLaneRule e g :=
    funext fun l => floatLane_eq e _ l
  rw [Env.float, hl]

/-- The class masks of a lane raise no flag. -/
theorem floatLane_classOf (e : Env) : e.floatLane (fun g a _ _ => (classOf g a, 0)) = fun l =>
    let a := e.fbits e.f.sa.toNat l
    if e.ft = 4 then (classOf f16 (a % 65536) + 65536 * classOf f16 (a / 65536), 0) else (classOf (fmtOf e.ft) a, 0) := by
  funext l
  simp only [floatLane_eq, Nat.or_self]

/-- Settles O9: each of them issues through the float frame. -/
theorem floatResultsRoundOnce : Obligations.FloatResultsRoundOnce := by
  intro i f cur s g hg h hs
  exact registerOnly_of_alu h hs (fun e => floatWidth e.ft) (fun _ => false) (fun e => floatLaneRule e g)
    ((exec_of_floatRule hg h.fields_eq s).trans (by simp only [float_eq]))

/-- An instruction of `convRule` issues through the frame of R18 with its rule's width, sign and lane function. -/
theorem exec_of_convRule {i : Instr} {f : Fields} {r : (Env → Nat) × (Env → Bool) × (Env → Nat → Nat × Nat)}
    (hr : convRule i = some r) (hf : i.fields = some f) (s : State) :
    exec i s = issueOut i f (fun e => e.alu (r.1 e) (r.2.1 e) (r.1 e == 64) (r.2.2 e)) s := by
  cases i with
  | cvt f' | cvtNarrow f' | mxpk f' | mxunpk f' =>
    cases hr; cases hf
    rfl
  | fclass f' =>
    cases hr; cases hf
    show issueOut (.fclass f) f (fun e => e.alu _ _ _ (e.floatLane (fun g a _ _ => (classOf g a, 0)))) s = _
    simp only [floatLane_classOf]
  | _ => cases hr

theorem conversionsComplete : Claims.ConversionsComplete := by
  intro i f cur s r hr h hs
  exact registerOnly_of_alu h hs r.1 r.2.1 r.2.2 (exec_of_convRule hr h.fields_eq s)

/-- The elements of b lie in the group's registers, and none of those is awaited. -/
theorem vdotAddsOneChunk : Claims.VdotAddsOneChunk := by
  intro f cur s h hs e fa fb n nb hr hw
  refine registerOnly_of_alu h hs _ _ _ (issue_congr h ?_)
  have hr' : ¬ e.regs < f.sb.toNat + nb := not_lt.2 hr
  show (if e.regs < f.sb.toNat + nb then _
    else if s.ctl.waitsFor e.uid e.g.who e.p e.vp e.home [(f.sb.toNat, nb)] = true then _ else _) = _
  rw [if_neg hr', hw]
  rfl

/-- Settles O10. -/
theorem conversionsAndDotProducts : Obligations.ConversionsAndDotProducts := ⟨conversionsComplete, vdotAddsOneChunk⟩

end Sys2Proof.Machine
end

section
/-! SUPPORT. Lane movement, scans and sorting (R74 to R76): what the prefixes of a scan are as steps from the first lane on, and that
insertion sorts the lanes by key and keeps the order of equal ones. -/

namespace Sys2Proof.Machine

/-! ### Lane movement -/

theorem laneMovesTakeTheNamedLane : Claims.LaneMovesTakeTheNamedLane := by
  intro i f cur s g hg h hs
  have hf := h.fields_eq
  cases i with
  | shuf f' | lrot f' | bcast f' =>
    cases hf
    exact (registerOnly_of_alu h hs _ _ _ rfl).congr
      (fun l => congrArg (fun m => (envOf s cur f).la m % _) (Option.some.inj (hg l))) (fun _ => rfl)
  | _ => cases hg 0

/-! ### Values and flags by lane -/

/-- The lane form of R18 speaks of the executing lanes only. -/
theorem LaneStep.congr {i : Instr} {e : Env} {w : Nat} {sgn : Bool} {val fl val' fl' : Nat → Nat} {s t : State}
    (h : LaneStep i e w sgn val fl s t) (hv : ∀ l ∈ lanesOf e.ex e.gw, val l = val' l)
    (hf : ∀ l ∈ lanesOf e.ex e.gw, fl l = fl' l) : LaneStep i e w sgn val' fl' s t := by
  obtain ⟨h1, h2, h3, h4, h5, h6, h7⟩ := h
  refine ⟨fun hw l hl => hv l hl ▸ h1 hw l hl, h2, List.map_congr_left hf ▸ h3, h4, h5, h6, h7.trans ?_⟩
  refine congrArg (fun v => s.ctl.leave e.cur.p (e.after i.last (some v))) (List.map_congr_left fun l _ => ?_)
  split
  · next hl => rw [hv l hl]
  · rfl

/-! ### Prefixes of an operation (R76) -/

/-- One step of a scan: what the lanes before give with the next value, and the flags of the step. -/
def scanStep (t op : Nat) (acc : Option Nat) (x : Nat) : Nat × Nat :=
  match acc with
  | none => (x, 0)
  | some a => combine t op a x

/-- What the lanes before and these values give together. -/
def scanAcc (t op : Nat) (acc : Option Nat) (xs : List Nat) : Option Nat :=
  xs.foldl (fun a x => some (scanStep t op a x).1) acc

section Prefixes

variable (t op : Nat)

theorem prefixes_cons (acc : Option Nat) (x : Nat) (xs : List Nat) : prefixes t op acc (x :: xs) =
    (acc, scanStep t op acc x) :: prefixes t op (some (scanStep t op acc x).1) xs := by
  cases acc <;> rfl

theorem prefixes_append (acc : Option Nat) (xs ys : List Nat) :
    prefixes t op acc (xs ++ ys) = prefixes t op acc xs ++ prefixes t op (scanAcc t op acc xs) ys := by
  induction xs generalizing acc with
  | nil => rfl
  | cons x xs ih => rw [List.cons_append, prefixes_cons, prefixes_cons, ih]; rfl

theorem length_prefixes (acc : Option Nat) (xs : List Nat) : (prefixes t op acc xs).length = xs.length := by
  induction xs generalizing acc with
  | nil => rfl
  | cons x xs ih => rw [prefixes_cons, List.length_cons, List.length_cons, ih]

theorem foldSteps_cons (x : Nat) (xs : List Nat) : foldSteps t op (x :: xs) =
    xs.foldl (fun a y => ((combine t op a.1 y).1, a.2 ||| (combine t op a.1 y).2)) (x, 0) := rfl

/-- The steps from a value on, with what the prefixes say of them. -/
theorem foldl_combine (a fl : Nat) (xs : List Nat) :
    xs.foldl (fun a y => ((combine t op a.1 y).1, a.2 ||| (combine t op a.1 y).2)) (a, fl) =
      ((scanAcc t op (some a) xs).getD 0, ((prefixes t op (some a) xs).map (·.2.2)).foldl (· ||| ·) fl) := by
  induction xs generalizing a fl with
  | nil => rfl
  | cons x xs ih => rw [List.foldl_cons, ih, prefixes_cons]; rfl

theorem scanAcc_some (a : Nat) (xs : List Nat) : ∃ b, scanAcc t op (some a) xs = some b := by
  induction xs generalizing a with
  | nil => exact ⟨a, rfl⟩
  | cons x xs ih => exact ih _

/-- The combination of values is what the scan has after them; of none, the identity. -/
theorem foldSteps_fst (xs : List Nat) : (foldSteps t op xs).1 = (scanAcc t op none xs).getD (identity t op) := by
  cases xs with
  | nil => rfl
  | cons x xs =>
    obtain ⟨b, hb⟩ := scanAcc_some t op x xs
    rw [foldSteps_cons, foldl_combine]
    show (scanAcc t op (some x) xs).getD 0 = (scanAcc t op (some x) xs).getD _
    rw [hb]
    rfl

/-- The flags of all steps are those of the prefixes. -/
theorem foldSteps_snd (xs : List Nat) : (foldSteps t op xs).2 = orFlags ((prefixes t op none xs).map (·.2.2)) := by
  cases xs with
  | nil => rfl
  | cons x xs =>
    rw [foldSteps_cons, foldl_combine, prefixes_cons]
    show List.foldl _ 0 _ = List.foldl _ (0 ||| 0) _
    rw [Nat.or_self]
    rfl

theorem scanAcc_concat (acc : Option Nat) (xs : List Nat) (x : Nat) :
    scanAcc t op acc (xs ++ [x]) = some (scanStep t op (scanAcc t op acc xs) x).1 := by
  rw [scanAcc, List.foldl_append]
  rfl

theorem foldSteps_concat_fst (xs : List Nat) (x : Nat) :
    (foldSteps t op (xs ++ [x])).1 = (scanStep t op (scanAcc t op none xs) x).1 := by
  rw [foldSteps_fst, scanAcc_concat]
  rfl

end Prefixes

/-! ### The executing lanes in order -/

theorem lanesOf_sorted (m : Word) (gw : Nat) : (lanesOf m gw).Pairwise (· < ·) := List.pairwise_lt_range.filter _

/-- A list in rising order is split by one of its elements into those below it and those above it. -/
theorem filter_of_sorted {ls pre post : List Nat} {l : Nat} (hs : ls.Pairwise (· < ·)) (h : ls = pre ++ l :: post) :
    ls.filter (fun m => decide (m < l)) = pre ∧ ls.filter (fun m => decide (m ≤ l)) = pre ++ [l] := by
  subst h
  obtain ⟨-, hp, hlt⟩ := List.pairwise_append.1 hs
  have hpre : ∀ m ∈ pre, m < l := fun m hm => hlt m hm l List.mem_cons_self
  have hpost : ∀ m ∈ post, l < m := (List.pairwise_cons.1 hp).1
  have h1 : pre.filter (fun m => decide (m < l)) = pre := List.filter_eq_self.2 fun m hm => decide_eq_true (hpre m hm)
  have h2 : pre.filter (fun m => decide (m ≤ l)) = pre := List.filter_eq_self.2 fun m hm => decide_eq_true (hpre m hm).le
  have h3 : post.filter (fun m => decide (m < l)) = [] :=
    List.filter_eq_nil_iff.2 fun m hm => by simpa using (hpost m hm).le
  have h4 : post.filter (fun m => decide (m ≤ l)) = [] := List.filter_eq_nil_iff.2 fun m hm => by simpa using hpost m hm
  simp [h1, h2, h3, h4]

/-- Where two lists of a length are paired, an element's partner is found by it. -/
theorem find?_zip {α : Type} {ls pre post : List Nat} {l : Nat} {xs ys : List α} {x : α} (hn : l ∉ pre)
    (h : ls = pre ++ l :: post) (hl : xs.length = pre.length) :
    (ls.zip (xs ++ x :: ys)).find? (fun p => p.1 == l) = some (l, x) := by
  rw [h, List.zip_append hl.symm, List.find?_append, List.find?_eq_none.2, Option.none_or, List.zip_cons_cons, List.find?_cons]
  · simp
  · intro p hp hpl
    exact hn (beq_iff_eq.1 hpl ▸ (List.of_mem_zip hp).1)

section Scan

variable {e : Env} {l : Nat}

/-- What a scan has of an executing lane: what the lanes before it give, what they give with it, and the flags of its step. -/
theorem find?_prefixed {pre post : List Nat} (h : lanesOf e.ex e.gw = pre ++ l :: post) :
    e.prefixed.find? (fun p => p.1 == l) =
      some (l, scanAcc e.lt (scfld e.f 2 0) none (pre.map e.la),
        scanStep e.lt (scfld e.f 2 0) (scanAcc e.lt (scfld e.f 2 0) none (pre.map e.la)) (e.la l)) := by
  have hn : l ∉ pre := fun hl => by
    have hs := h ▸ lanesOf_sorted e.ex e.gw
    exact lt_irrefl l ((List.pairwise_append.1 hs).2.2 l hl l List.mem_cons_self)
  rw [Env.prefixed]
  conv_lhs => rw [h, List.map_append, List.map_cons, prefixes_append, prefixes_cons]
  exact find?_zip hn rfl (by rw [length_prefixes, List.length_map])

theorem map_flags_prefixed (e : Env) : e.prefixed.map (fun p => p.2.2.2) =
    (prefixes e.lt (scfld e.f 2 0) none ((lanesOf e.ex e.gw).map e.la)).map (·.2.2) := by
  have h := List.map_snd_zip (l₁ := lanesOf e.ex e.gw) (l₂ := prefixes e.lt (scfld e.f 2 0) none ((lanesOf e.ex e.gw).map e.la))
    (by rw [length_prefixes, List.length_map])
  conv_rhs => rw [← h, List.map_map]
  rfl

/-- The flags of a scan are those of all steps. -/
theorem orFlags_prefixed (e : Env) : orFlags (e.prefixed.map (fun p => p.2.2.2)) =
    (foldSteps e.lt (scfld e.f 2 0) ((lanesOf e.ex e.gw).map e.la)).2 := by
  rw [foldSteps_snd, map_flags_prefixed]

end Scan

theorem scan_step {f : Fields} {cur : Cur} {s : State} (h : Executes (.scan f) f cur s) (hs : s.wf) (hu : f.u = false) :
    let e := envOf s cur f
    ∃ t, exec (.scan f) s = .next t ∧
      LaneStep (.scan f) e (typeWidth e.lt) (decide (4 ≤ e.lt) && decide (e.lt < 8))
        (fun l => (foldSteps e.lt (scfld f 2 0) (((lanesOf e.ex e.gw).filter
          (fun m => if bitOf f.sc.toNat 3 then decide (m < l) else decide (m ≤ l))).map e.la)).1)
        (fun _ => (foldSteps e.lt (scfld f 2 0) ((lanesOf e.ex e.gw).map e.la)).2) s t := by
  intro e
  obtain ⟨t, ht, hl, -⟩ := registerOnly_of_alu h hs (fun e => typeWidth e.lt) (fun e => decide (4 ≤ e.lt) && decide (e.lt < 8)) _ rfl
  refine ⟨t, ht, (hl hu).congr (fun l hl => ?_) (fun l hl => ?_)⟩
  all_goals
    obtain ⟨pre, post, hp⟩ := List.append_of_mem hl
    simp only [find?_prefixed hp]
  · obtain ⟨hlt, hle⟩ := filter_of_sorted (lanesOf_sorted _ _) hp
    cases bitOf f.sc.toNat 3 with
    | true =>
      simp only [if_true]
      rw [hlt, foldSteps_fst]
      rfl
    | false =>
      simp only [Bool.false_eq_true, if_false]
      rw [hle, List.map_append, List.map_singleton, foldSteps_concat_fst]
      rfl
  · exact orFlags_prefixed _

/-- The last of the prefixes combines all. -/
theorem getLast?_prefixed {e : Env} (h : lanesOf e.ex e.gw ≠ []) : ((e.prefixed.getLast?).map (fun p => p.2.2.1)).getD 0 =
    (foldSteps e.lt (scfld e.f 2 0) ((lanesOf e.ex e.gw).map e.la)).1 := by
  obtain ⟨pre, l, hp⟩ := (List.eq_nil_or_concat _).resolve_left h
  rw [Env.prefixed, hp, List.concat_eq_append, List.map_append, List.map_singleton, prefixes_append, prefixes_cons, foldSteps_concat_fst,
    List.zip_append (by rw [length_prefixes, List.length_map])]
  simp [prefixes]

theorem redw_step {f : Fields} {cur : Cur} {s : State} (h : Executes (.redw f) f cur s) (hs : s.wf) (hu : f.u = false) :
    let e := envOf s cur f
    ∃ t, exec (.redw f) s = .next t ∧
      LaneStep (.redw f) e (typeWidth e.lt) (decide (4 ≤ e.lt) && decide (e.lt < 8))
        (fun _ => (foldSteps e.lt (scfld f 2 0) ((lanesOf e.ex e.gw).map e.la)).1)
        (fun _ => (foldSteps e.lt (scfld f 2 0) ((lanesOf e.ex e.gw).map e.la)).2) s t := by
  intro e
  obtain ⟨t, ht, hl, -⟩ := registerOnly_of_alu h hs (fun e => typeWidth e.lt) (fun e => decide (4 ≤ e.lt) && decide (e.lt < 8)) _ rfl
  exact ⟨t, ht, (hl hu).congr (fun l hl => getLast?_prefixed (List.ne_nil_of_mem hl)) (fun l hl => orFlags_prefixed _)⟩

theorem scansCombineInLaneOrder : Claims.ScansCombineInLaneOrder :=
  fun _ _ _ => ⟨scan_step, redw_step⟩

/-! ### Sorting (R75) -/

/-- A lane and its key come before another's: by key, equal keys by lane. -/
def SortsBefore (a b : Nat × Int) : Prop := a.2 < b.2 ∨ (a.2 = b.2 ∧ a.1 < b.1)

/-- The order of `sortk`. -/
abbrev keyLt (x y : Nat × Int) : Bool := decide (x.2 < y.2)

theorem insertBy_perm {α : Type} (lt : α → α → Bool) (x : α) (l : List α) : (insertBy lt x l).Perm (x :: l) := by
  induction l with
  | nil => exact .refl _
  | cons y r ih =>
    rw [insertBy]
    split
    · exact .refl _
    · exact (ih.cons y).trans (.swap x y r)

theorem foldl_insertBy_perm {α : Type} (lt : α → α → Bool) (l acc : List α) :
    (l.foldl (fun a x => insertBy lt x a) acc).Perm (acc ++ l) := by
  induction l generalizing acc with
  | nil => rw [List.append_nil]; exact .refl _
  | cons x l ih => exact (ih _).trans (((insertBy_perm lt x acc).append_right l).trans List.perm_middle.symm)

/-- A lane above all that are sorted is inserted behind those of its key. -/
theorem insertBy_sorted {x : Nat × Int} {l : List (Nat × Int)} (hl : l.Pairwise SortsBefore) (hx : ∀ y ∈ l, y.1 < x.1) :
    (insertBy keyLt x l).Pairwise SortsBefore := by
  induction l with
  | nil => exact List.pairwise_singleton _ _
  | cons y r ih =>
    obtain ⟨hy, hr⟩ := List.pairwise_cons.1 hl
    rw [insertBy]
    split
    · next hlt =>
      have hxy : x.2 < y.2 := of_decide_eq_true hlt
      refine List.pairwise_cons.2 ⟨fun z hz => .inl ?_, hl⟩
      rcases List.mem_cons.1 hz with rfl | hz
      · exact hxy
      · rcases hy z hz with h | ⟨h, -⟩
        · exact hxy.trans h
        · exact h ▸ hxy
    · next hlt =>
      have hxy : y.2 ≤ x.2 := not_lt.1 fun h => hlt (decide_eq_true h)
      refine List.pairwise_cons.2 ⟨fun z hz => ?_, ih hr fun z hz => hx z (List.mem_cons_of_mem _ hz)⟩
      rcases List.mem_cons.1 ((insertBy_perm _ _ _).mem_iff.1 hz) with rfl | hz
      · exact hxy.lt_or_eq.imp_right fun h => ⟨h, hx y List.mem_cons_self⟩
      · exact hy z hz

theorem foldl_insertBy_sorted {l acc : List (Nat × Int)} (hl : l.Pairwise (fun a b => a.1 < b.1)) (ha : acc.Pairwise SortsBefore)
    (h : ∀ x ∈ l, ∀ y ∈ acc, y.1 < x.1) : (l.foldl (fun a x => insertBy keyLt x a) acc).Pairwise SortsBefore := by
  induction l generalizing acc with
  | nil => exact ha
  | cons x l ih =>
    obtain ⟨hx, hl⟩ := List.pairwise_cons.1 hl
    refine ih hl (insertBy_sorted ha (h x List.mem_cons_self)) fun z hz y hy => ?_
    rcases List.mem_cons.1 ((insertBy_perm _ _ _).mem_iff.1 hy) with rfl | hy
    · exact hx z hz
    · exact h z (List.mem_cons_of_mem _ hz) y hy

/-- A lane's partner in a list of the same length. -/
theorem map_find?_zip {ls xs : List Nat} (hn : ls.Nodup) (hl : xs.length = ls.length) :
    ls.map (fun l => ((ls.zip xs).find? (fun p => p.1 == l)).elim 0 (·.2)) = xs := by
  induction ls generalizing xs with
  | nil => exact (List.length_eq_zero_iff.1 hl).symm
  | cons l ls ih =>
    cases xs with
    | nil => cases hl
    | cons x xs =>
      obtain ⟨hnl, hn⟩ := List.nodup_cons.1 hn
      rw [List.map_cons, List.zip_cons_cons, List.find?_cons_of_pos (by simp)]
      refine congrArg (List.cons x) ((List.map_congr_left fun m hm => ?_).trans (ih hn (by simpa using hl)))
      rw [List.find?_cons_of_neg]
      simpa using fun h : l = m => hnl (h ▸ hm)

/-- Lanes and their keys, in lane order, are sorted by key, equal keys by lane. -/
theorem sortBy_keys (ls : List Nat) (key : Nat → Int) (hs : ls.Pairwise (· < ·)) :
    ((sortBy keyLt (ls.map (fun l => (l, key l)))).map (·.1)).Perm ls ∧
      ((sortBy keyLt (ls.map (fun l => (l, key l)))).map (·.1)).Pairwise (fun a b => key a < key b ∨ (key a = key b ∧ a < b)) := by
  have hperm : (sortBy keyLt (ls.map (fun l => (l, key l)))).Perm (ls.map (fun l => (l, key l))) :=
    foldl_insertBy_perm _ _ []
  have hsort : (sortBy keyLt (ls.map (fun l => (l, key l)))).Pairwise SortsBefore :=
    foldl_insertBy_sorted (List.pairwise_map.2 hs) .nil (fun _ _ _ h => absurd h List.not_mem_nil)
  have hkey : ∀ a ∈ sortBy keyLt (ls.map (fun l => (l, key l))), a.2 = key a.1 := fun a ha => by
    obtain ⟨l, -, rfl⟩ := List.mem_map.1 (hperm.mem_iff.1 ha)
    rfl
  refine ⟨?_, List.pairwise_map.2 (hsort.imp_of_mem fun {a b} ha hb h => ?_)⟩
  · exact (hperm.map Prod.fst).trans (.of_eq ((List.map_map).trans (List.map_id ls)))
  · rw [SortsBefore, hkey a ha, hkey b hb] at h
    exact h

/-- The key by which `sortk` sorts a lane. -/
def Env.sortKey (e : Env) (l : Nat) : Int := if 4 ≤ e.lt then sextNat (typeWidth e.lt) (e.la l) else e.la l

/-- The executing lanes sorted by key. -/
def Env.sorted (e : Env) : List Nat := (sortBy keyLt ((lanesOf e.ex e.gw).map (fun l => (l, e.sortKey l)))).map (·.1)

/-- The lane that `sortk` gives to an executing lane. -/
def Env.sortVal (e : Env) (l : Nat) : Nat := (((lanesOf e.ex e.gw).zip e.sorted).find? (fun p => p.1 == l)).elim 0 (·.2)

theorem exec_sortk (f : Fields) (s : State) :
    exec (.sortk f) s = issueOut (.sortk f) f (fun e => e.alu 32 false false (fun l => (e.sortVal l, 0))) s := by
  refine congrArg (fun o => issueOut (.sortk f) f o s) (funext fun e => congrArg (e.alu 32 false false) (funext fun l => ?_))
  simp only [decide_eq_true_eq]
  show (match ((lanesOf e.ex e.gw).zip e.sorted).find? (fun p => p.1 == l) with
    | some p => (p.2, 0)
    | none => (0, 0)) = _
  rw [Env.sortVal]
  cases ((lanesOf e.ex e.gw).zip e.sorted).find? (fun p => p.1 == l) <;> rfl

theorem sortkIsAStableSort : Claims.SortkIsAStableSort := by
  intro f cur s h hs hu e ls key
  obtain ⟨t, ht, hl, -⟩ := registerOnly_of_alu h hs (fun _ => 32) (fun _ => false) (fun e l => (e.sortVal l, 0)) (exec_sortk f s)
  obtain ⟨hperm, hsort⟩ := sortBy_keys ls key (lanesOf_sorted _ _)
  have hval : ls.map e.sortVal = e.sorted := map_find?_zip (lanesOf_nodup e.ex e.gw) hperm.length_eq
  exact ⟨t, e.sortVal, ht, hl hu, hval.symm ▸ hperm, hval.symm ▸ hsort⟩

/-- Settles O11. -/
theorem lanesExchangeValues : Obligations.LanesExchangeValues :=
  ⟨laneMovesTakeTheNamedLane, scansCombineInLaneOrder, sortkIsAStableSort⟩

end Sys2Proof.Machine
end

section
/-! SUPPORT. Masks in helper code (R57, R274): the path's list of masks is cut to its sixteen registers when one of them is written, so
a state whose list is longer reads a seventeenth mask differently afterwards. The model's own writes make lists of at most sixteen,
but the statements on compares and on mask instructions speak of every state and of every number. -/

namespace Sys2Proof.Machine

/-- A path of helper code with seventeen masks. -/
def overlongPath : Path :=
  { (default : Path) with pid := 0, pc := 0x10000, act := 0xFFFF, helper := some 0, hk := List.replicate 17 1 }

/-- Its first instruction. -/
def overlongCur : Cur := { p := { team := 0, who := .group 0, pid := 0 }, pc := 0x10000, len := 8, bits := 0 }

/-- The machine in which it is executed. -/
def overlong : State :=
  { State.reset with ctl := { State.reset.ctl with
      teams := [{ placeTeam with groups := [{ placeGroup with paths := [overlongPath] }] }], cur := some overlongCur } }

/-- `cmp.n32.eq k1, v0, v0`. -/
def overlongCmp : Fields :=
  { mod := 2, sc := 0, sb := 0, sa := 0, dst := 353, ws := false, kn := false, km := 0, u := false, ch := false, long := .none }

/-- `kmov k1, k0`. -/
def overlongKmov : Fields :=
  { mod := 0, sc := 0, sb := 0, sa := 352, dst := 353, ws := false, kn := false, km := 0, u := true, ch := false, long := .none }

theorem overlong_wf : overlong.wf :=
  ⟨⟨rfl, rfl, rfl, rfl, rfl⟩, ⟨rfl, rfl, rfl, rfl, rfl, rfl⟩, fun _ => BitVec.zero_and⟩

theorem executes_overlongCmp : Executes (.cmp overlongCmp) overlongCmp overlongCur overlong where
  cur_eq := rfl
  fields_eq := rfl
  stands := by decide
  noTrap := by decide
  noReport := .inl rfl
  lanes := .inr (.inl rfl)
  helper := by decide
  ready := by decide
  agrees := by decide

theorem executes_overlongKmov : Executes (.kmov overlongKmov) overlongKmov overlongCur overlong where
  cur_eq := rfl
  fields_eq := rfl
  stands := by decide
  noTrap := by decide
  noReport := .inl rfl
  lanes := .inr (.inr (by decide))
  helper := by decide
  ready := by decide
  agrees := by decide

/-- The seventeenth mask before the instruction. -/
theorem k_overlong (f : Fields) : (envOf overlong overlongCur f).k 16 = 1 := by
  have h : (List.replicate 17 (1 : Word)).getD 16 0 &&& gwMask 16 = 1 := by decide
  exact h

/-- What an answer's state shows of the seventeenth mask. -/
def maskAfter (f : Fields) : Host.Outcome State Fault Refusal → Option Word
  | .next t => some ((envOf t overlongCur f).k 16)
  | _ => none

theorem maskAfter_overlongCmp : maskAfter overlongCmp (exec (.cmp overlongCmp) overlong) = some 0 := by decide

theorem maskAfter_overlongKmov : maskAfter overlongKmov (exec (.kmov overlongKmov) overlong) = some 0 := by decide

/-- An answer that leaves the seventeenth mask at zero does not leave it alone. -/
theorem k_changed {f : Fields} {o : Host.Outcome State Fault Refusal} {t : State} (h : maskAfter f o = some 0) (ht : o = .next t) :
    (envOf t overlongCur f).k 16 ≠ (envOf overlong overlongCur f).k 16 := by
  rw [ht] at h
  rw [k_overlong, Option.some.inj h]
  decide

/-- Refutes O12: in helper code a compare that writes k1 cuts the path's list of masks to sixteen, so that what the state's
overlong list held as a seventeenth one, which the statement includes among the other masks, is lost. -/
theorem not_comparesWriteAMask : ¬ Obligations.ComparesWriteAMask := by
  intro h
  obtain ⟨t, ht, hl, -⟩ := h (.cmp overlongCmp) overlongCmp overlongCur overlong _ (fun _ => rfl) executes_overlongCmp overlong_wf
  obtain ⟨-, hk, -⟩ := hl rfl
  exact k_changed maskAfter_overlongCmp ht (hk 16 (.inr (.inr (by decide))))

/-- Refutes O13: `kmov` to k1 in the same state. -/
theorem not_masksAndUniformReads : ¬ Obligations.MasksAndUniformReads := by
  rintro ⟨h, -⟩
  obtain ⟨t, ht, -, hk, -⟩ := h (.kmov overlongKmov) overlongKmov overlongCur overlong _ rfl executes_overlongKmov overlong_wf
  exact k_changed maskAfter_overlongKmov ht (hk 16 (by decide))

end Sys2Proof.Machine
end

section
/-! SUPPORT. An instruction that goes on after its body (R45), and group registers written by `csrw` and `setfmt` (R61 to R64, R83,
R113). -/

namespace Sys2Proof.Machine

/-! ### Going on -/

section Left

variable {i : Instr} {f : Fields} {cur : Cur} {s : State}

/-- An instruction whose body changes the machine to r1 and completes goes on there. -/
theorem exec_completes {body : Env → M Res} {res : Res} {r1 : Run} {lat : Option (List Word)} (h : Executes i f cur s)
    (hi : exec i s = issue i f body s) (hb : body (envOf s cur f) { st := s, log := [] } = (res, r1)) (ht : r1.Tied s)
    (hf : finish i (envOf s cur f) res = modC (fun c => c.leave cur.p ((envOf s cur f).after i.last lat))) :
    exec i s = .next { r1.st with ctl := r1.st.ctl.leave cur.p ((envOf s cur f).after i.last lat) } := by
  rw [hi, issue_of_executes h]
  refine runM_of_run (view := fun _ => ()) ?_ ht (records_modC (fun c => c.leave cur.p ((envOf s cur f).after i.last lat)) r1)
  rw [bind_run, hb, hf]

/-- The party after its path has left its place. -/
def Group.left (g : Group) (p : PathId) (q : Path → Path) : Group := { g.updPath p.pid q with lastPid := p.pid }

variable {t : State} {d : Ctl} {t1 : Team} {g1 : Group} {last : Bool} {lat : Option (List Word)}

theorem shows_left (h : d.Shows cur.p t1 g1) (ht : t.ctl = d.leave cur.p ((envOf s cur f).after last lat)) :
    t.ctl.Shows cur.p (t1.updParty cur.p.who (fun g => g.left cur.p ((envOf s cur f).after last lat)))
      (g1.left cur.p ((envOf s cur f).after last lat)) := by
  rw [ht]
  exact h.leave (fun _ => rfl)

/-- The path after its instruction. -/
theorem pathOf_left (h : d.Shows cur.p t1 g1) (ht : t.ctl = d.leave cur.p ((envOf s cur f).after last lat)) :
    t.pathOf cur.p = (envOf s cur f).after last lat (g1.path cur.p.pid) :=
  (shows_left h ht).pathOf.trans (Group.path_updPath (q := (envOf s cur f).after last lat) (fun _ => rfl) h.path)

/-- A path that its instruction has not changed before it ends goes on with its lanes and formats. -/
theorem goesOn_of_leave (hs : s.ctl.stands cur.p = true) (ht : t.ctl = s.ctl.leave cur.p ((envOf s cur f).after last lat)) :
    GoesOn cur s t := by
  rw [GoesOn, pathOf_left (Ctl.shows_of_stands hs) ht]
  exact ⟨by rw [ht]; rfl, rfl, rfl, rfl⟩

end Left

/-! ### Group registers -/

/-- A write of a group register lands without the reserved bits. -/
theorem csrOf_set {s t : State} {uid p n : Nat} {x : Word} (hn : n < 8) (hw : s.csr.wf = true)
    (ht : t.csr = (applyUpd s (.csr (csrKey uid p n) x)).csr) : t.csrOf uid p n = x &&& csrLayout n := by
  have hk : csrKey uid p n % 8 = n := by unfold csrKey; omega
  rw [State.csrOf, ht, applyUpd_csr_csr, Sparse.get_set_self _ _ _ hw, hk]

/-- The bits of `gst` that `csrw` writes are no reserved ones, and what it keeps holds none (R62). -/
theorem gst_layout {s : State} (h : s.csrWf) (uid p : Nat) (x : Word) :
    ((s.csrOf uid p 0 &&& ~~~(0x7F : Word)) ||| (x &&& 0x7F)) &&& csrLayout 0 =
      (s.csrOf uid p 0 &&& ~~~(0x7F : Word)) ||| (x &&& 0x7F) := by
  have h0 : s.csrOf uid p 0 &&& csrLayout 0 = s.csrOf uid p 0 := by
    have hk := h (csrKey uid p 0)
    rw [show csrKey uid p 0 % 8 = 0 by unfold csrKey; omega] at hk
    exact and_of_and_not hk
  have h7 : (0x7F : Word) &&& csrLayout 0 = 0x7F := by decide
  rw [and_or_right, BitVec.and_assoc, BitVec.and_comm (~~~_), ← BitVec.and_assoc, h0, BitVec.and_assoc, h7]

/-- Of the stores nothing but one group register of the executing party has changed, and the path goes on in its lanes. -/
def OnlyCsr (e : Env) (n : Nat) (s t : State) : Prop :=
  SameBytes s t ∧ t.v = s.v ∧ t.vi = s.vi ∧ t.a = s.a ∧ t.w = s.w ∧ t.k = s.k ∧
    (t.pathOf e.cur.p).pc = nextPc e.cur.pc e.cur.len ∧ (t.pathOf e.cur.p).act = e.p.act ∧
    ∀ key, key ≠ csrKey e.uid e.home n → t.csr.get key = s.csr.get key

section Writes

variable {i : Instr} {f : Fields} {cur : Cur} {s : State} {body : Env → M Res} {n : Nat} {c : Sparse 64} {d : Ctl} {log : List Upd}
  {t1 : Team} {g1 : Group}

/-- An instruction that changes one group register and the control state, and completes. -/
theorem csr_step (h : Executes i f cur s) (hi : exec i s = issue i f body s)
    (hb : body (envOf s cur f) { st := s, log := [] } = (.done, { st := { s with csr := c, ctl := d }, log := log }))
    (ht : Run.Tied { st := { s with csr := c, ctl := d }, log := log } s)
    (hc : ∀ key, key ≠ csrKey (envOf s cur f).uid (envOf s cur f).home n → c.get key = s.csr.get key)
    (hd : d.Shows cur.p t1 g1) (ha : (g1.path cur.p.pid).act = (envOf s cur f).p.act) :
    ∃ t, exec i s = .next t ∧ OnlyCsr (envOf s cur f) n s t ∧ t.csr = c ∧ (t.pathOf cur.p).fmt = (g1.path cur.p.pid).fmt ∧
      (t.groupOf cur.p).dsp = g1.dsp := by
  have hx := exec_completes (lat := none) h hi hb ht rfl
  have hl := shows_left (t := { s with csr := c, ctl := d.leave cur.p ((envOf s cur f).after i.last none) }) hd rfl
  have hp := pathOf_left (t := { s with csr := c, ctl := d.leave cur.p ((envOf s cur f).after i.last none) }) hd rfl
  exact ⟨_, hx, ⟨⟨rfl, rfl, rfl, rfl, rfl⟩, rfl, rfl, rfl, rfl, rfl, congrArg Path.pc hp, (congrArg Path.act hp).trans ha, hc⟩, rfl,
    (congrArg Path.fmt hp).trans rfl, (congrArg Group.dsp hl.groupOf).trans rfl⟩

end Writes

section Csrw

variable {f : Fields} {cur : Cur} {s : State}

/-- An instruction that writes one group register and no more. -/
theorem csrWrite_step {i : Instr} {body : Env → M Res} {n : Nat} {x : Word} (h : Executes i f cur s)
    (hi : exec i s = issue i f body s)
    (hb : body (envOf s cur f) = (do
      emit (.csr (csrKey (envOf s cur f).uid (envOf s cur f).home n) x)
      return .done)) :
    ∃ t, exec i s = .next t ∧ OnlyCsr (envOf s cur f) n s t ∧ (t.pathOf cur.p).fmt = (envOf s cur f).p.fmt ∧
      t.csr = (applyUpd s (.csr (csrKey (envOf s cur f).uid (envOf s cur f).home n) x)).csr ∧
      (t.groupOf cur.p).dsp = (envOf s cur f).g.dsp := by
  obtain ⟨t, ht, ho, hc, hf, hd⟩ := csr_step (n := n) h hi (congrFun hb _) rfl (fun key hk => Sparse.get_set_ne _ _ _ _ hk)
    (Ctl.shows_of_stands h.stands) rfl
  exact ⟨t, ht, ho, hf, hc, hd⟩

/-- A write of `spb`, whose party keeps the value as the top of its spill stack (R113). -/
theorem spbWrite_step {i : Instr} {body : Env → M Res} {x : Word} (h : Executes i f cur s) (hi : exec i s = issue i f body s)
    (hb : body (envOf s cur f) = (do
      emit (.csr (csrKey (envOf s cur f).uid (envOf s cur f).home 4) x)
      modGroup cur.p.team cur.p.who (fun g => { g with dsp := x &&& csrLayout 4 })
      return .done)) :
    ∃ t, exec i s = .next t ∧ OnlyCsr (envOf s cur f) 4 s t ∧ (t.pathOf cur.p).fmt = (envOf s cur f).p.fmt ∧
      t.csr = (applyUpd s (.csr (csrKey (envOf s cur f).uid (envOf s cur f).home 4) x)).csr ∧
      (t.groupOf cur.p).dsp = x &&& csrLayout 4 := by
  have hs := Ctl.shows_of_stands h.stands
  obtain ⟨t, ht, ho, hc, hf, hg⟩ := csr_step (n := 4) h hi (congrFun hb _) rfl (fun key hk => Sparse.get_set_ne _ _ _ _ hk)
    (hs.updParty (f := fun g => { g with dsp := x &&& csrLayout 4 }) (fun _ => rfl) hs.path) rfl
  exact ⟨t, ht, ho, hf, hc, hg⟩

/-- An instruction that changes nothing but the formats of its path. -/
theorem fmtWrite_step {i : Instr} {body : Env → M Res} {g : Word → Word} (n : Nat) (h : Executes i f cur s)
    (hi : exec i s = issue i f body s)
    (hb : body (envOf s cur f) = (do
      modPath cur.p (fun p => { p with fmt := g p.fmt })
      return .done)) :
    ∃ t, exec i s = .next t ∧ OnlyCsr (envOf s cur f) n s t ∧ t.csr = s.csr ∧ (t.pathOf cur.p).fmt = g (envOf s cur f).p.fmt := by
  have hs := Ctl.shows_of_stands h.stands
  have hp := Group.path_updPath (q := fun p => { p with fmt := g p.fmt }) (fun _ => rfl) hs.path
  obtain ⟨t, ht, ho, hc, hf, -⟩ := csr_step (n := n) h hi (congrFun hb _) rfl (fun _ _ => rfl)
    (hs.updPath (q := fun p => { p with fmt := g p.fmt }) (fun _ => rfl)) ((congrArg Path.act hp).trans rfl)
  exact ⟨t, ht, ho, hc, hf.trans (congrArg Path.fmt hp)⟩

/-- Settles O14, register by register. -/
theorem groupRegisterWrites : Obligations.GroupRegisterWrites := by
  intro f cur s hs e x same fmts
  have hcsr : s.csr.wf = true := hs.2.1.2.2.2.2.2
  refine ⟨fun h hn hp => ?_, fun h hn => ?_, fun h hn => ?_, fun h hn hd hb => ?_, fun h hn => ?_, fun h => ?_⟩
  · have h0 : f.sc.toNat = 0 := by rw [hn]; rfl
    obtain ⟨t, ht, ho, hf, hc, -⟩ := csrWrite_step (n := 0) (x := (s.csrOf e.uid e.home 0 &&& ~~~(0x7F : Word)) ||| (x &&& 0x7F)) h rfl
      (by simp only [h0, show (envOf s cur f).flagsPending = false from hp]; rfl)
    have ho' : OnlyCsr e f.sc.toNat s t := h0.symm ▸ ho
    exact ⟨t, ht, ho', hf, (csrOf_set (by decide) hcsr hc).trans (gst_layout hs.2.2 _ _ _)⟩
  · have h1 : f.sc.toNat = 1 := by rw [hn]; rfl
    obtain ⟨t, ht, ho, hc, hf⟩ := fmtWrite_step (g := fun w => fmtAll w.toNat x.toNat) f.sc.toNat h rfl (by simp only [h1]; rfl)
    exact ⟨t, ht, ho, hc, hf⟩
  · have hlt : f.sc.toNat = 2 ∨ f.sc.toNat = 3 := hn.imp (fun h => by rw [h]; rfl) (fun h => by rw [h]; rfl)
    obtain ⟨t, ht, ho, hf, hc, -⟩ := csrWrite_step (n := f.sc.toNat) (x := x) h rfl
      (by rcases hlt with h2 | h2 <;> simp only [h2] <;> rfl)
    exact ⟨t, ht, ho, hf, csrOf_set (by omega) hcsr hc⟩
  · have hok : ¬((envOf s cur f).g.dsp ≠ (envOf s cur f).csr 4 ∨ (envOf s cur f).g.cb ≠ 0) := fun h => h.elim (· hd) (· hb)
    rcases hn with hn | hn
    · have h4 : f.sc.toNat = 4 := by rw [hn]; rfl
      obtain ⟨t, ht, ho, hf, hc, hg⟩ := spbWrite_step (x := x) h rfl
        (by simp only [h4, hok, if_false, envOf_uid h.stands, envOf_who h.stands]; rfl)
      have ho' : OnlyCsr e f.sc.toNat s t := h4.symm ▸ ho
      exact ⟨t, ht, ho', hf, by rw [h4]; exact csrOf_set (by decide) hcsr hc, by rw [if_pos hn]; exact hg⟩
    · have h5 : f.sc.toNat = 5 := by rw [hn]; rfl
      obtain ⟨t, ht, ho, hf, hc, hg⟩ := csrWrite_step (n := 5) (x := x) h rfl (by simp only [h5, hok, if_false]; rfl)
      have ho' : OnlyCsr e f.sc.toNat s t := h5.symm ▸ ho
      exact ⟨t, ht, ho', hf, by rw [h5]; exact csrOf_set (by decide) hcsr hc, by rw [hn, if_neg (by decide)]; exact hg⟩
  · have h6 : f.sc.toNat = 6 ∨ f.sc.toNat = 7 := hn.imp (fun h => by rw [h]; rfl) (fun h => by rw [h]; rfl)
    obtain ⟨t, ht, ho, hc, hf, -⟩ := csr_step (n := f.sc.toNat) (c := s.csr) (d := s.ctl) (log := []) h rfl
      (by rcases h6 with h2 | h2 <;> simp only [h2] <;> rfl) rfl (fun _ _ => rfl) (Ctl.shows_of_stands h.stands) rfl
    exact ⟨t, ht, ho, hf, hc⟩
  · obtain ⟨t, ht, ho, hc, hf⟩ := fmtWrite_step (g := fun w => fmtSet w (mfld f 3 0) (e.usrc f.sa.toNat).toNat) f.sc.toNat h rfl rfl
    exact ⟨t, ht, ho, hc, hf⟩

end Csrw

end Sys2Proof.Machine
end

section
/-! SUPPORT. Indirect register access (R79, R80): what the writes of one lane and of all lanes do to the registers, lane by lane. -/

namespace Sys2Proof.Machine

/-! ### What the checks say -/

/-- An instruction that executes has no fault of its form (R51). -/
theorem Executes.faults_eq {i : Instr} {f : Fields} {cur : Cur} {s : State} (h : Executes i f cur s) : (formOf i).faults = [] := by
  have hn := h.noTrap
  have hf : formFaults i (envOf s cur f) = [] := by
    rw [← List.dedup_eq_nil]
    unfold stepFaults at hn
    split at hn
    · cases hn
    · split at hn
      · cases hn
      · assumption
  rw [formFaults] at hf
  split at hf
  · cases hf
  · exact (List.append_eq_nil_iff.1 (List.append_eq_nil_iff.1 hf).1).1

theorem need_eq_nil {ok : Bool} {r : Nat} : need ok r = [] ↔ ok = true := by cases ok <;> simp [need]

/-- `rseti` has no uniform form. -/
theorem rseti_lanes {f : Fields} {cur : Cur} {s : State} (h : Executes (.rseti f) f cur s) : f.u = false := by
  have hf : (need (mfld f 4 1 == 0) 7 ++ need (!f.u) 4 ++ _ ++ _ ++ _ ++ _ ++ _ ++ _ ++ _ : List Nat) = [] := h.faults_eq
  simp only [List.append_eq_nil_iff, need_eq_nil, Bool.not_eq_true'] at hf
  obtain ⟨⟨⟨⟨⟨⟨⟨⟨-, hu⟩, -⟩, -⟩, -⟩, -⟩, -⟩, -⟩, -⟩ := hf
  exact hu

/-- Every register that an access without a fault names is one, and a pair in lane registers is even (R80). -/
theorem indFault_none {e : Env} (h : e.indFault = none) : ∀ l ∈ e.serves,
    e.badCode (e.regCode l) = false ∧ e.badPair (e.regCode l) = false := by
  unfold Env.indFault at h
  dsimp only at h
  split at h
  · cases h
  · next hc =>
    split at h
    · cases h
    · next hp =>
      intro l hl
      exact ⟨by simpa using List.filter_eq_nil_iff.1 hc l hl, by simpa using List.filter_eq_nil_iff.1 hp l hl⟩

/-- The codes that the lanes name: registers, and of lane registers both halves of a pair. -/
def Env.CodesOk (e : Env) (ls : List Nat) : Prop :=
  ∀ l ∈ ls, e.regCode l < 320 ∧ (e.regCode l < 256 → e.indWide = true → e.regCode l + 1 < 256)

theorem codesOk_of_indFault {e : Env} (h : e.indFault = none) (hu : e.f.u = false) : e.CodesOk (lanesOf e.ex e.gw) := by
  intro l hl
  have hs : e.serves = lanesOf e.ex e.gw := by rw [Env.serves, hu]; rfl
  obtain ⟨hc, hp⟩ := indFault_none h l (hs ▸ hl)
  simp only [Env.badCode, Bool.or_eq_false_iff, decide_eq_false_iff_not] at hc
  refine ⟨not_le.1 hc.1, fun hlt hw => ?_⟩
  simp only [Env.badPair, hw, hlt, decide_true, Bool.true_and, Bool.or_eq_false_iff, beq_eq_false_iff_ne] at hp
  omega

/-! ### Keys -/

theorem lane_of_vKey {uid p l m n k : Nat} (hn : n < 256) (hk : k < 256) (h : vKey uid p l n = vKey uid p m k) : l = m := by
  unfold vKey at h; omega

/-- The uniform registers of a privilege level are its own (R56). -/
theorem code_of_wKey {uid p pl c d : Nat} (hc : c < 320) (hd : d < 320) (hc6 : 256 ≤ c) (hd6 : 256 ≤ d)
    (h : wKey uid p (wIndex (c - 256) pl) = wKey uid p (wIndex (d - 256) pl)) : c = d := by
  unfold wKey wIndex at h
  split at h <;> split at h <;> omega

/-! ### The writes of one lane -/

section Lane

variable {e : Env} {l : Nat} {x : Word} {s : State} {key : Nat}

theorem indWrite_frame (e : Env) (l : Nat) (x : Word) (s : State) :
    ∃ v w, applyAll s (e.indWrite l x) = { s with v := v, w := w } ∧ (s.v.wf = true → v.wf = true) ∧ (s.w.wf = true → w.wf = true) := by
  unfold Env.indWrite
  dsimp only
  split
  · unfold Env.putLane
    split
    · exact ⟨_, _, rfl, fun h => Sparse.wf_set _ _ _ (Sparse.wf_set _ _ _ h), id⟩
    · exact ⟨_, _, rfl, fun h => Sparse.wf_set _ _ _ h, id⟩
  · exact ⟨_, _, rfl, id, fun h => Sparse.wf_set _ _ _ h⟩

/-- A lane writes no lane register but the one that it names. -/
theorem indWrite_v_ne (h : e.regCode l < 256 → key ≠ vKey e.uid e.vp l (e.regCode l) ∧
    (e.indWide = true → key ≠ vKey e.uid e.vp l (e.regCode l + 1))) : (applyAll s (e.indWrite l x)).v.get key = s.v.get key := by
  unfold Env.indWrite
  dsimp only
  split
  · next hc =>
    obtain ⟨h0, h1⟩ := h hc
    unfold Env.putLane
    split
    · next hw => exact (Sparse.get_set_ne _ _ _ _ (h1 hw)).trans (Sparse.get_set_ne _ _ _ _ h0)
    · exact Sparse.get_set_ne _ _ _ _ h0
  · rfl

/-- A lane writes no uniform register but the one that it names. -/
theorem indWrite_w_ne (h : 256 ≤ e.regCode l → key ≠ wKey e.uid e.home (wIndex (e.regCode l - 256) e.indPl)) :
    (applyAll s (e.indWrite l x)).w.get key = s.w.get key := by
  unfold Env.indWrite
  dsimp only
  split
  · unfold Env.putLane
    split <;> rfl
  · next hc => exact Sparse.get_set_ne _ _ _ _ (h (not_lt.1 hc))

theorem indWrite_w_self (hc : 256 ≤ e.regCode l) (hw : s.w.wf = true) :
    (applyAll s (e.indWrite l x)).wreg e.uid e.home (e.regCode l - 256) e.indPl = x := by
  unfold Env.indWrite
  dsimp only
  rw [if_neg (not_lt.2 hc)]
  exact Sparse.get_set_self _ _ _ hw

theorem indWrite_v_self (hc : e.regCode l < 256) (hw : s.v.wf = true) :
    e.laneAfter (applyAll s (e.indWrite l x)) (e.regCode l) l e.indWide = x.toNat % (if e.indWide then 2 ^ 64 else 2 ^ 32) := by
  rw [← lane_word, Env.laneAfter, Env.indWrite]
  dsimp only
  rw [if_pos hc, Env.putLane]
  cases e.indWide with
  | true =>
    have h0 := (Sparse.get_set_ne (s.v.set (vKey e.uid e.vp l (e.regCode l)) (BitVec.ofNat 32 (x.toNat % 2 ^ 32))) _ _
      (BitVec.ofNat 32 (x.toNat / 2 ^ 32)) (vKey_ne_succ (m := l))).trans (Sparse.get_set_self s.v _ _ hw)
    have h1 := Sparse.get_set_self (s.v.set (vKey e.uid e.vp l (e.regCode l)) (BitVec.ofNat 32 (x.toNat % 2 ^ 32)))
      (vKey e.uid e.vp l (e.regCode l + 1)) (BitVec.ofNat 32 (x.toNat / 2 ^ 32)) (Sparse.wf_set _ _ _ hw)
    simp only [if_true, updPair, updV, applyAll_cons, applyAll_nil, applyUpd_v_v, h0, h1]
  | false =>
    simp only [Bool.false_eq_true, if_false, updV, applyAll_cons, applyAll_nil, applyUpd_v_v, Sparse.get_set_self _ _ _ hw]

end Lane

/-! ### The writes of all lanes -/

/-- The writes of some lanes, in order. -/
def Env.indWrites (e : Env) (val : Nat → Word) (ls : List Nat) : List Upd := (ls.map (fun l => e.indWrite l (val l))).flatten

section Lanes

variable {e : Env} {val : Nat → Word} {ls : List Nat} {l : Nat} {s : State} {key : Nat}

theorem indWrites_cons : applyAll s (e.indWrites val (l :: ls)) =
    applyAll (applyAll s (e.indWrite l (val l))) (e.indWrites val ls) := by
  rw [Env.indWrites, List.map_cons, List.flatten_cons, applyAll_append]
  rfl

theorem indWrites_frame (e : Env) (val : Nat → Word) (ls : List Nat) (s : State) : ∃ v w,
    applyAll s (e.indWrites val ls) = { s with v := v, w := w } ∧ (s.v.wf = true → v.wf = true) ∧ (s.w.wf = true → w.wf = true) := by
  induction ls generalizing s with
  | nil => exact ⟨s.v, s.w, rfl, id, id⟩
  | cons l ls ih =>
    obtain ⟨v, w, hs, hv, hw⟩ := indWrite_frame e l (val l) s
    obtain ⟨v1, w1, hs1, hv1, hw1⟩ := ih { s with v := v, w := w }
    refine ⟨v1, w1, ?_, hv1 ∘ hv, hw1 ∘ hw⟩
    rw [indWrites_cons, hs]
    exact hs1

theorem indWrites_split {pre post : List Nat} (h : ls = pre ++ l :: post) : applyAll s (e.indWrites val ls) =
    applyAll (applyAll (applyAll s (e.indWrites val pre)) (e.indWrite l (val l))) (e.indWrites val post) := by
  simp only [h, Env.indWrites, List.map_append, List.map_cons, List.flatten_append, List.flatten_cons, applyAll_append]

theorem indWrites_v_ne (h : ∀ l ∈ ls, e.regCode l < 256 → key ≠ vKey e.uid e.vp l (e.regCode l) ∧
    (e.indWide = true → key ≠ vKey e.uid e.vp l (e.regCode l + 1))) :
    (applyAll s (e.indWrites val ls)).v.get key = s.v.get key := by
  induction ls generalizing s with
  | nil => rfl
  | cons l ls ih =>
    rw [indWrites_cons, ih fun m hm => h m (List.mem_cons_of_mem _ hm)]
    exact indWrite_v_ne (h l List.mem_cons_self)

theorem indWrites_w_ne (h : ∀ l ∈ ls, 256 ≤ e.regCode l → key ≠ wKey e.uid e.home (wIndex (e.regCode l - 256) e.indPl)) :
    (applyAll s (e.indWrites val ls)).w.get key = s.w.get key := by
  induction ls generalizing s with
  | nil => rfl
  | cons l ls ih =>
    rw [indWrites_cons, ih fun m hm => h m (List.mem_cons_of_mem _ hm)]
    exact indWrite_w_ne (h l List.mem_cons_self)

/-- The lane register that a lane names holds its value: no other lane writes it. -/
theorem indWrites_v_self (hn : ls.Nodup) (hl : l ∈ ls) (hok : e.CodesOk ls) (hc : e.regCode l < 256) (hv : s.v.wf = true) :
    e.laneAfter (applyAll s (e.indWrites val ls)) (e.regCode l) l e.indWide =
      (val l).toNat % (if e.indWide then 2 ^ 64 else 2 ^ 32) := by
  obtain ⟨pre, post, hp⟩ := List.append_of_mem hl
  obtain ⟨v, w, hs, hw, -⟩ := indWrites_frame e val pre s
  have hpost : ∀ k, k < 256 → ∀ u : State, (applyAll u (e.indWrites val post)).v.get (vKey e.uid e.vp l k) =
      u.v.get (vKey e.uid e.vp l k) := fun k hk u => indWrites_v_ne fun m hm hm256 => by
    have hml : l ≠ m := by
      rintro rfl
      exact (List.nodup_cons.1 (List.nodup_append.1 (hp ▸ hn)).2.1).1 hm
    have hmok := (hok m (hp ▸ List.mem_append_right _ (List.mem_cons_of_mem _ hm))).2 hm256
    exact ⟨fun h => hml (lane_of_vKey hk hm256 h), fun hw h => hml (lane_of_vKey hk (hmok hw) h)⟩
  rw [← indWrite_v_self (x := val l) hc (s := applyAll s (e.indWrites val pre)) (by rw [hs]; exact hw hv), indWrites_split hp]
  cases hwide : e.indWide with
  | true => simp only [Env.laneAfter, if_true, hpost _ hc, hpost _ ((hok l hl).2 hc hwide)]
  | false => simp only [Env.laneAfter, Bool.false_eq_true, if_false, hpost _ hc]

/-- The uniform register that a lane names holds the value of the highest lane that names it. -/
theorem indWrites_w_self (hs : ls.Pairwise (· < ·)) (hl : l ∈ ls) (hok : e.CodesOk ls) (hc : 256 ≤ e.regCode l)
    (hlast : ∀ m ∈ ls, e.regCode m = e.regCode l → m ≤ l) (hw : s.w.wf = true) :
    (applyAll s (e.indWrites val ls)).wreg e.uid e.home (e.regCode l - 256) e.indPl = val l := by
  obtain ⟨pre, post, hp⟩ := List.append_of_mem hl
  obtain ⟨v, w, hf, -, hww⟩ := indWrites_frame e val pre s
  rw [indWrites_split hp]
  refine (indWrites_w_ne fun m hm hm256 h => ?_).trans (indWrite_w_self hc (by rw [hf]; exact hww hw))
  have hml : l < m := (List.pairwise_cons.1 (List.pairwise_append.1 (hp ▸ hs)).2.1).1 m hm
  have hmem : m ∈ ls := hp ▸ List.mem_append_right _ (List.mem_cons_of_mem _ hm)
  exact absurd (hlast m hmem (code_of_wKey (hok l hl).1 (hok m hmem).1 hc hm256 h).symm) (not_le.2 hml)

end Lanes

/-! ### The instructions -/

section Indirect

variable {f : Fields} {cur : Cur} {s : State}

theorem rgeti_step (h : Executes (.rgeti f) f cur s) (hs : s.wf) (hi : (envOf s cur f).indFault = none)
    (hb : (envOf s cur f).indBlocked = false) :
    RegisterOnly (.rgeti f) f cur s (fun e => if e.indWide then 64 else 32) (fun _ => false)
      (fun e l => ((e.indRead l).toNat, 0)) := by
  refine registerOnly_of_alu h hs (fun e => if e.indWide then 64 else 32) (fun _ => false) (fun e l => ((e.indRead l).toNat, 0))
    (issue_congr h ?_)
  have hw : ((if (envOf s cur f).indWide then 64 else 32) == 64) = (envOf s cur f).indWide := by
    cases (envOf s cur f).indWide <;> rfl
  simp only [hi, hb, hw]
  rfl

/-- The value that a lane of `rseti` writes. -/
def Env.indVal (e : Env) (l : Nat) : Word := wd (e.bits e.f.sc.toNat l (if e.indWide then 64 else 32) e.f.rawImm)

theorem indVal_mod (e : Env) (l : Nat) : (e.indVal l).toNat % (if e.indWide then 2 ^ 64 else 2 ^ 32) =
    e.bits e.f.sc.toNat l (if e.indWide then 64 else 32) e.f.rawImm := by
  have hlt : e.bits e.f.sc.toNat l (if e.indWide then 64 else 32) e.f.rawImm < 2 ^ (if e.indWide then 64 else 32) :=
    Nat.mod_lt _ (Nat.pow_pos (by decide))
  rw [Env.indVal, wd, BitVec.toNat_ofNat]
  cases hw : e.indWide <;> simp only [hw, if_true, Bool.false_eq_true, if_false] at hlt ⊢ <;> omega

/-- Where `rseti` has no fault, its lanes write in order, and the path goes on. -/
theorem exec_rseti (h : Executes (.rseti f) f cur s) (hi : (envOf s cur f).indFault = none)
    (hb : (envOf s cur f).indBlocked = false)
    (hh : (envOf s cur f).p.helper = none ∨ ∀ l ∈ lanesOf (envOf s cur f).ex (envOf s cur f).gw, (envOf s cur f).regCode l < 256) :
    exec (.rseti f) s = issueOut (.rseti f) f (fun e =>
      { upds := e.indWrites e.indVal (lanesOf e.ex e.gw),
        lat := (List.range e.gw).map (fun l => if e.ex.getLsbD l then e.indVal l else 0) }) s := by
  refine issue_congr h ?_
  have hws : ((envOf s cur f).p.helper.isSome && !((lanesOf (envOf s cur f).ex (envOf s cur f).gw).filter
      (fun l => decide (256 ≤ (envOf s cur f).regCode l))).isEmpty) = false := by
    rcases hh with hh | hh
    · rw [hh]; rfl
    · rw [List.filter_eq_nil_iff.2 fun l hl => by simpa using hh l hl, List.isEmpty_nil, Bool.not_true, Bool.and_false]
  simp only [hi, hb, hws]
  rfl

/-- `rseti` changes what its writes change, and its path goes on. -/
theorem rseti_step (h : Executes (.rseti f) f cur s) (hi : (envOf s cur f).indFault = none)
    (hb : (envOf s cur f).indBlocked = false)
    (hh : (envOf s cur f).p.helper = none ∨ ∀ l ∈ lanesOf (envOf s cur f).ex (envOf s cur f).gw, (envOf s cur f).regCode l < 256)
    {u : State} (hu : applyAll s ((envOf s cur f).indWrites (envOf s cur f).indVal (lanesOf (envOf s cur f).ex (envOf s cur f).gw)) = u) :
    ∃ t, exec (.rseti f) s = .next t ∧ t.v = u.v ∧ t.w = u.w ∧ t.vi = s.vi ∧ t.a = s.a ∧ t.k = s.k ∧ t.csr = s.csr ∧
      SameBytes s t ∧ GoesOn cur s t := by
  obtain ⟨v, w, hf, -, -⟩ := indWrites_frame (envOf s cur f) (envOf s cur f).indVal (lanesOf (envOf s cur f).ex (envOf s cur f).gw) s
  have hx := (exec_rseti h hi hb hh).trans (issueOut_of_executes h _)
  dsimp only at hx
  rw [hf] at hx
  obtain rfl := hf.symm.trans hu
  exact ⟨_, hx, rfl, rfl, rfl, rfl, rfl, rfl, ⟨rfl, rfl, rfl, rfl, rfl⟩, goesOn_of_leave (f := f) h.stands rfl⟩

/-- Settles O15: the lanes' writes by `indWrites_v_self` and `indWrites_w_self`, what they leave by `indWrites_v_ne` and
`indWrites_w_ne`. -/
theorem indirectRegisterAccess : Obligations.IndirectRegisterAccess := by
  intro f cur s hs e hi hb
  refine ⟨fun h => rgeti_step h hs hi hb, fun h hh => ?_⟩
  have hok : e.CodesOk (lanesOf e.ex e.gw) := codesOk_of_indFault hi (rseti_lanes h)
  obtain ⟨t, ht, hv, hw, hrest⟩ := rseti_step h hi hb hh rfl
  refine ⟨t, ht, fun l hl hc => ?_, fun l hl hc hlast => ?_, fun key hk => ?_, fun key hk => ?_, hrest⟩
  · rw [Env.laneAfter, hv]
    exact (indWrites_v_self (lanesOf_nodup _ _) hl hok hc hs.2.1.1).trans (indVal_mod e l)
  · rw [State.wreg, hw]
    exact indWrites_w_self (lanesOf_sorted _ _) hl hok hc hlast hs.2.1.2.2.2.1
  · rw [hv]
    exact indWrites_v_ne hk
  · rw [hw]
    exact indWrites_w_ne hk

end Indirect

end Sys2Proof.Machine
end

section
/-! SUPPORT. What a part of a meaning records, over lists and at the fill states of procedural ranges (R206, R250), and that reaching
the bytes of a job (R178) records what it changes. -/

namespace Sys2Proof.Machine

section Rules

variable {α β : Type} {γ : Type} {view : State → γ}

theorem Keeps.records {m : M α} (h : Keeps view m) : Records m := fun r => ⟨rfl, (h r).2⟩

theorem Keeps.forMap {l : List α} {f : α → M β} (h : ∀ a, Keeps view (f a)) : Keeps view (forMap l f) := by
  induction l with
  | nil => exact .pure _
  | cons a l ih => exact .bind (h a) fun _ => .bind ih fun _ => .pure _

/-- A step of the device whose meaning records what it changes ends where its run ends. -/
theorem event_of_keeps {m : M Unit} (h : Keeps view m) (s : State) : event m s = .next (m { st := s, log := [] }).2.st :=
  runM_of_tied ((h _).2 s rfl)

theorem records_storeN (l : Loc) (x n : Nat) : Records (storeN l x n) := (quiet_storeN l x n).records

end Rules

/-! ### Free values -/

/-- The state but for the free values that have been drawn. -/
def State.undrawn (s : State) : State := { s with ctl := { s.ctl with free := 0 } }

/-- A part of a meaning changes nothing: it may draw free values. -/
abbrev OnlyDraws {α : Type} (m : M α) : Prop := Keeps State.undrawn m

theorem onlyDraws_drawBelow (n : Nat) : OnlyDraws (drawBelow n) :=
  .ite (.pure _) (.bind (fun _ => .getC (.bind (.setC rfl) (.pure _))) fun _ => .pure _)

/-! ### What a request waits for comes to its end (R250) -/

theorem records_countReseal (die : Nat) (mine : Nat → Bool) (more : List Nat) : Records (countReseal die mine more) :=
  .getC fun _ => .forEach fun _ => records_modC _

theorem records_endTreeReseals (g : Nat) : Records (endTreeReseals g) :=
  .getC fun _ => .forEach fun _ => .bind (records_countReseal _ _ _) fun _ => records_modC _

theorem records_endGroupReseal (g : Nat) : Records (endGroupReseal g) := by
  refine .getC fun c => .bind (records_countReseal _ _ _) fun _ => ?_
  split
  · exact records_modC _
  · refine .bind (quiet_quarantineFailing g).records fun _ => .getC fun _ => .ite ?_ ?_
    · exact .bind (records_modC _) fun _ => .bind (records_modC _) fun _ => records_modC _
    · exact .bind (quiet_checkBelow g).records fun _ => .bind (records_modC _) fun _ =>
        .bind (quiet_resealTiles _).records fun _ => records_modC _

theorem records_finishReseal (g : Nat) : Records (finishReseal g) :=
  .bind (records_endTreeReseals g) fun _ => .getC fun _ => .onlyIf (records_endGroupReseal g)

theorem records_flushTile (t : Nat) : Records (flushTile t) :=
  .getC fun _ => .bind (.onlyIf (records_finishReseal _)) fun _ => .bind (quiet_writeback t).records fun _ => .getC fun _ =>
    .onlyIf (records_finishReseal _)

theorem records_evictLine (t : Nat) : Records (evictLine t) := by
  refine .getC fun c => .bind (onlyDraws_drawBelow _).records fun i => ?_
  split
  · exact .pure _
  · exact .bind (.onlyIf (records_flushTile _)) fun _ => records_modC _

theorem records_settleLine (slot pa : Nat) : Records (settleLine slot pa) := by
  refine .bind (records_finishReseal _) fun _ => .getC fun c => ?_
  dsimp only
  split
  · exact .bind (.onlyIf (records_flushTile _)) fun _ => records_finishReseal _
  · exact .bind (.onlyIf (records_evictLine _)) fun _ => records_finishReseal _

theorem records_sealNow (slot pa : Nat) (write : Bool) : Records (sealNow slot pa write) := by
  refine .bind (quiet_sealAccess slot pa write).records fun a => ?_
  cases a with
  | wait => exact .bind (records_settleLine _ _) fun _ => (quiet_sealAccess _ _ _).records
  | ok => exact .pure _
  | fail sub => exact .pure _

/-! ### Touching a block (R206, R259) -/

theorem quiet_fillAccess (rctx : Nat) (r : PRange) (b : Nat) (write : Bool) : Quiet (fillAccess rctx r b write) := by
  refine .getS fun s => .bind (.ite (.pure _) (quiet_sealedWalk _ _)) fun x => ?_
  split
  · exact .pure _
  · exact .pure _
  · split
    · exact quiet_sealAccess _ _ _
    · exact .pure _

theorem records_setFill (rctx : Nat) (r : PRange) (b st : Nat) : Records (setFill rctx r b st) := by
  refine .getS fun s => ?_
  split
  · exact .bind (records_sealNow _ _ _) fun _ => .ite (records_storeN _ _ _) (.pure _)
  · exact .pure _

theorem records_touchBlock (rctx : Nat) (w : Waiter) (kind depth : Nat) (r : PRange) (b : Nat) :
    Records (touchBlock rctx w kind depth r b) := by
  refine .getS fun s => ?_
  dsimp only
  split
  · exact .pure _
  · refine .bind (quiet_fillAccess _ _ _ _).records fun a => ?_
    cases a with
    | wait => exact .pure _
    | fail sub => exact .pure _
    | ok =>
      dsimp only
      split
      · refine .ite (.pure _) (.ite (.pure _) (.bind records_freshId fun _ => .bind (records_setFill _ _ _ _) fun _ => ?_))
        split
        · exact .pure _
        · exact .bind (records_modC _) fun _ => .pure _
      · refine .ite (.pure _) (.ite (.pure _) ?_)
        split
        · exact .pure _
        · exact .bind (records_modC _) fun _ => .pure _
      · exact .pure _
      · exact .pure _

/-! ### The bytes of a job (R178) -/

theorem records_jobReach (j : Job) (sp a : Nat) (write table : Bool) : Records (jobReach j sp a write table) := by
  refine .getS fun s => .ite ?_ ?_
  · refine .bind (.ite (.pure _) ?_) fun x => ?_
    · split
      · exact .pure _
      · refine .bind (records_touchBlock _ _ _ _ _ _) fun t => ?_
        cases t with
        | failed k sub => exact .bind (quiet_dropWaiter _).records fun _ => .pure _
        | full => exact .pure _
        | waits => exact .pure _
        | hold => exact .pure _
    · split
      · exact .pure _
      · refine .bind (quiet_translate _ _ _ _ _).records fun t => ?_
        cases t with
        | fault k b => exact .pure _
        | wait => exact .pure _
        | ok l =>
          refine .ite (.pure _) (.ite (.pure _) (.ite (.pure _) (.ite ?_ (.ite (.pure _) ?_))))
          · split <;> exact .pure _
          · refine .bind (quiet_sealAccess _ _ _).records fun a => ?_
            cases a <;> exact .pure _
  · dsimp only
    split
    · exact .pure _
    · exact .pure _
    · exact .ite (.pure _) (.ite (.pure _) (.pure _))

theorem records_jobReachAll (j : Job) (write table : Bool) (xs : List (Nat × Nat)) : Records (jobReachAll j write table xs) := by
  induction xs with
  | nil => exact .pure _
  | cons x xs ih =>
    refine .bind (records_jobReach _ _ _ _ _) fun b => ?_
    split
    · exact .pure _
    · exact .pure _
    · refine .bind ih fun e => ?_
      split <;> exact .pure _

/-- Where all bytes are reached, there is one place for each of them. -/
theorem jobReachAll_length {j : Job} {write table : Bool} {xs : List (Nat × Nat)} {bs : List ByteAt} {r : Run}
    (h : (jobReachAll j write table xs r).1 = .ok bs) : bs.length = xs.length := by
  induction xs generalizing bs r with
  | nil => cases h; rfl
  | cons x xs ih =>
    obtain ⟨sp, a⟩ := x
    rw [jobReachAll, bind_run] at h
    cases hb : (jobReach j sp a write table r).1 <;> rw [hb] at h
    case err => cases h
    case wait => cases h
    all_goals
      dsimp only [bind_run] at h
      cases hys : (jobReachAll j write table xs (jobReach j sp a write table r).2).1 with
      | error e => rw [hys] at h; cases h
      | ok ys =>
        rw [hys] at h
        cases h
        exact congrArg (· + 1) (ih hys)

end Sys2Proof.Machine
end

section
/-! SUPPORT. The grant of a matrix engine (R217, R301, R302, R305): which entry the arbiter picks, and what its operands are made of. -/

namespace Sys2Proof.Machine

/-! ### The arbiter's choice (R305) -/

/-- An entry that the engine may grant. -/
def Ctl.Grantable (c : Ctl) (engine : Nat) (p : Pass) : Prop := p ∈ c.passes ∧ p.engine = engine ∧ c.passReady p = true

/-- An entry that has waited for more than 4,096 cycles. -/
abbrev Ctl.Late (c : Ctl) (p : Pass) : Prop := p.acceptedAt + 4096 < c.cyc

theorem foldl_choice_mem {α : Type} {f : α → α → α} (hf : ∀ m x, f m x = m ∨ f m x = x) (a : α) (l : List α) :
    l.foldl f a ∈ a :: l := by
  induction l generalizing a with
  | nil => exact List.mem_singleton_self a
  | cons x l ih =>
    rw [List.foldl_cons]
    rcases hf a x with h | h <;> rw [h]
    · exact List.cons_subset_cons a (List.subset_cons_self x l) (ih a)
    · exact List.mem_cons_of_mem a (ih x)

theorem Ctl.oldest_of_ne_nil (c : Ctl) {l : List Pass} (h : l ≠ []) : ∃ p ∈ l, c.oldest l = some p := by
  cases l with
  | nil => exact absurd rfl h
  | cons p r => exact ⟨_, foldl_choice_mem (fun m x => by split <;> simp) p r, rfl⟩

/-- The lowest priority number among some entries. -/
theorem foldl_min_prio (u : Pass) (r : List Pass) :
    (∃ x ∈ u :: r, x.prio = r.foldl (fun m x => min m x.prio) u.prio) ∧
      ∀ x ∈ u :: r, r.foldl (fun m x => min m x.prio) u.prio ≤ x.prio := by
  have h : ((u :: r).map (·.prio)).min? = some (r.foldl (fun m x => min m x.prio) u.prio) := by
    rw [List.map_cons, List.min?_cons', List.foldl_map]
  obtain ⟨hm, hle⟩ := List.min?_eq_some_iff.1 h
  exact ⟨List.mem_map.1 hm, fun x hx => hle _ (List.mem_map_of_mem hx)⟩

theorem Ctl.mem_grantable {c : Ctl} {engine : Nat} {p : Pass} :
    p ∈ c.passes.filter (fun p => p.engine == engine && c.passReady p) ↔ c.Grantable engine p := by
  simp [Ctl.Grantable]

/-- While an entry is ready the arbiter picks one: a late one where there is one, else one of the lowest priority number of 0 to 3
where there is one. -/
theorem Ctl.pick_of_grantable {c : Ctl} {engine : Nat} (h : ∃ p, c.Grantable engine p) :
    ∃ p, c.pick engine = some p ∧ c.Grantable engine p ∧ (∀ q, c.Grantable engine q → c.Late q → c.Late p) ∧
      ∀ q, c.Grantable engine q → q.prio ≤ 3 → (∀ r, c.Grantable engine r → ¬c.Late r) → p.prio ≤ q.prio := by
  have hg := @Ctl.mem_grantable c engine
  unfold Ctl.pick
  generalize c.passes.filter (fun p => p.engine == engine && c.passReady p) = ready at hg ⊢
  dsimp only
  split
  · next hl =>
    obtain ⟨p, hp, ho⟩ := c.oldest_of_ne_nil (l := ready.filter (fun p => decide (p.acceptedAt + 4096 < c.cyc)))
      (hl ▸ List.cons_ne_nil _ _)
    obtain ⟨hr, hlate⟩ := List.mem_filter.1 hp
    have hlate : c.Late p := of_decide_eq_true hlate
    exact ⟨p, ho, hg.1 hr, fun _ _ _ => hlate, fun _ _ _ hn => absurd hlate (hn p (hg.1 hr))⟩
  · next u r hl hu =>
    have hnot : ∀ q, c.Grantable engine q → ¬c.Late q := fun q hq hlate =>
      List.not_mem_nil (hl ▸ List.mem_filter.2 ⟨hg.2 hq, decide_eq_true hlate⟩)
    obtain ⟨⟨x, hx, hmin⟩, hle⟩ := foldl_min_prio u r
    obtain ⟨p, hp, ho⟩ := c.oldest_of_ne_nil
      (List.ne_nil_of_mem (List.mem_filter (p := fun p => p.prio == r.foldl (fun m x => min m x.prio) u.prio).2
        ⟨hu ▸ hx, beq_iff_eq.2 hmin⟩))
    obtain ⟨hp, hm⟩ := List.mem_filter.1 hp
    have hpr := (List.mem_filter.1 hp).1
    refine ⟨p, ho, hg.1 hpr, fun q hq hlate => absurd hlate (hnot q hq), fun q hq h3 _ => ?_⟩
    rw [beq_iff_eq.1 hm]
    exact hle q (hu ▸ List.mem_filter.2 ⟨hg.2 hq, decide_eq_true h3⟩)
  · next hl hu =>
    obtain ⟨p, hp⟩ := h
    obtain ⟨x, hx, ho⟩ := c.oldest_of_ne_nil (List.ne_nil_of_mem (hg.2 hp))
    refine ⟨x, ho, hg.1 hx, fun q hq hlate => ?_, fun q hq h3 _ => ?_⟩
    · exact absurd (hl ▸ List.mem_filter.2 ⟨hg.2 hq, decide_eq_true hlate⟩) List.not_mem_nil
    · exact absurd (hu ▸ List.mem_filter.2 ⟨hg.2 hq, decide_eq_true h3⟩) List.not_mem_nil

/-! ### The lines of an entry (R217, R301, R302) -/

theorem drawBelow_lt {n : Nat} (h : 0 < n) (r : Run) : (drawBelow n r).1 < n := by
  rw [drawBelow, ite_run]
  split
  · exact h
  · exact Nat.mod_lt _ h

theorem onlyDraws_readLine (uid : Nat) (who : Who) (l : Loc) : OnlyDraws (readLine uid who l) :=
  .getS fun _ => .forMap fun _ => .bind (onlyDraws_drawBelow _) fun _ => .pure _

/-- b is the byte at l, or one that stood there since the party's last `mfence.op`. -/
def State.Stood (s : State) (uid : Nat) (who : Who) (l : Loc) (b : Byte) : Prop :=
  b = (s.mem l.sp).get l.key ∨ ∃ o ∈ s.ctl.olds, o.loc = l ∧ ((s.ctl.team uid).party who).opFence ≤ o.at_ ∧ o.byte = b

theorem State.Stood.of_undrawn {s t : State} (h : t.undrawn = s.undrawn) {uid : Nat} {who : Who} {l : Loc} {b : Byte}
    (ht : t.Stood uid who l b) : s.Stood uid who l b :=
  (h ▸ (ht : t.undrawn.Stood uid who l b) : s.undrawn.Stood uid who l b)

/-- What holds of each answer, whatever the run, holds of the answers of all. -/
theorem forMap_forall₂ {α β γ : Type} {view : State → γ} {f : α → M β} {P : α → β → Prop} {v : γ} (hf : ∀ a, Keeps view (f a))
    (hP : ∀ a r, view r.st = v → P a (f a r).1) (l : List α) {r : Run} (h : view r.st = v) : List.Forall₂ P l (forMap l f r).1 := by
  induction l generalizing r with
  | nil => exact .nil
  | cons a l ih => exact .cons (hP a r h) (ih ((hf a r).1.trans h))

theorem getElem?_of_forall₂ {α β : Type} {P : α → β → Prop} {l : List α} {m : List β} (h : List.Forall₂ P l m) {i : Nat} {a : α}
    (ha : l[i]? = some a) : ∃ b, m[i]? = some b ∧ P a b := by
  induction h generalizing i with
  | nil => cases ha
  | cons hab _ ih =>
    cases i with
    | zero => cases ha; exact ⟨_, rfl, hab⟩
    | succ i => exact ih ha

/-- A line is read as 64 bytes, each of which stands in its place or stood there. -/
theorem readLine_stood (uid : Nat) (who : Who) (l : Loc) (r : Run) :
    (readLine uid who l r).1.length = 64 ∧ ∀ k, k < 64 → r.st.Stood uid who (l.plus k) ((readLine uid who l r).1.getD k 0) := by
  have h : List.Forall₂ (fun i b => r.st.Stood uid who (l.plus i) b) (List.range 64) (readLine uid who l r).1 := by
    rw [readLine, bind_run, getS_run]
    refine forMap_forall₂ (view := fun _ => ()) (v := ()) (fun _ => .bind (onlyDraws_drawBelow _).records fun _ => .pure _)
      (fun i q _ => ?_) _ rfl
    rw [bind_run, pure_run]
    generalize ho : (r.st.ctl.olds.filter (fun o => o.loc == l.plus i && decide (((r.st.ctl.team uid).party who).opFence ≤ o.at_))) = os
    have hk := drawBelow_lt (n := (((r.st.mem (l.plus i).sp).get (l.plus i).key) :: os.map (·.byte)).length) (Nat.succ_pos _) q
    generalize (drawBelow (((r.st.mem (l.plus i).sp).get (l.plus i).key) :: os.map (·.byte)).length q).1 = k at hk ⊢
    rw [List.getD_eq_getElem _ _ hk]
    rcases List.mem_cons.1 (List.getElem_mem hk) with h0 | h0
    · exact .inl h0
    · obtain ⟨o, hmem, hb⟩ := List.mem_map.1 h0
      obtain ⟨hmem, hloc⟩ := List.mem_filter.1 (ho ▸ hmem)
      rw [Bool.and_eq_true, beq_iff_eq, decide_eq_true_eq] at hloc
      exact .inr ⟨o, hmem, hloc.1, hloc.2, hb⟩
  have hlen := h.length_eq
  rw [List.length_range] at hlen
  refine ⟨hlen.symm, fun k hk => ?_⟩
  obtain ⟨b, hb, hs⟩ := getElem?_of_forall₂ h (List.getElem?_range hk)
  rwa [List.getD_eq_getElem?_getD, hb]

/-- Of an entry's line of number i, at l: what was read when the entry was accepted, or, where it was absent then, what is read now. -/
def State.LineRead (s : State) (p : Pass) (i : Nat) (l : Loc) (bs : List Byte) : Prop :=
  (p.ops.getD i [] ≠ [] → bs = p.ops.getD i []) ∧
    (p.ops.getD i [] = [] → bs.length = 64 ∧ ∀ k, k < 64 → s.Stood p.team p.who (l.plus k) (bs.getD k 0))

/-- The line of number x.1, at x.2, as the grant reads it. -/
def grantLine (p : Pass) (x : Nat × Loc) : M (Loc × List Byte) := do
  let bs ← (if (p.ops.getD x.1 []).isEmpty then readLine p.team p.who x.2 else pure (p.ops.getD x.1 []))
  return (x.2, bs)

theorem onlyDraws_grantLine (p : Pass) (x : Nat × Loc) : OnlyDraws (grantLine p x) :=
  .bind (.ite (onlyDraws_readLine _ _ _) (.pure _)) fun _ => .pure _

theorem grantLine_reads {s : State} (p : Pass) (x : Nat × Loc) {r : Run} (h : r.st.undrawn = s.undrawn) :
    (grantLine p x r).1.1 = x.2 ∧ s.LineRead p x.1 x.2 (grantLine p x r).1.2 := by
  refine ⟨rfl, ?_⟩
  rw [grantLine, bind_run, pure_run]
  cases hp : p.ops.getD x.1 [] with
  | nil =>
    simp only [List.isEmpty_nil, if_true]
    obtain ⟨hlen, hst⟩ := readLine_stood p.team p.who x.2 r
    exact ⟨fun hn => absurd hp hn, fun _ => ⟨hlen, fun k hk => (hst k hk).of_undrawn h⟩⟩
  | cons b bs => exact ⟨fun _ => hp.symm, fun hn => absurd (hp.symm.trans hn) (List.cons_ne_nil b bs)⟩

/-- The lines of an entry as its grant reads them. -/
def grantLines (p : Pass) : M (List (Loc × List Byte)) := forMap ((List.range p.lines.length).zip p.lines) (grantLine p)

theorem onlyDraws_grantLines (p : Pass) : OnlyDraws (grantLines p) := .forMap (onlyDraws_grantLine p)

theorem grantLines_reads (p : Pass) (r : Run) :
    ∃ ls : List (List Byte), (grantLines p r).1 = p.lines.zip ls ∧ ls.length = p.lines.length ∧
      ∀ i l, p.lines[i]? = some l → r.st.LineRead p i l (ls.getD i []) := by
  have h := forMap_forall₂ (P := fun x y => y.1 = x.2 ∧ r.st.LineRead p x.1 x.2 y.2) (onlyDraws_grantLine p)
    (fun x _ hq => grantLine_reads p x hq) ((List.range p.lines.length).zip p.lines) rfl
  change List.Forall₂ _ _ (grantLines p r).1 at h
  have hfst : (grantLines p r).1.map Prod.fst = p.lines := by
    have hl := List.forall₂_map_left_iff.2 (List.forall₂_map_right_iff.2 (h.imp fun _ _ hxy => hxy.1.symm))
    rw [List.forall₂_eq_eq_eq] at hl
    rw [← hl, List.map_snd_zip (by simp)]
  refine ⟨(grantLines p r).1.map Prod.snd, List.zip_of_prod hfst rfl, ?_, fun i l hi => ?_⟩
  · rw [List.length_map, ← hfst, List.length_map]
  · have hz : ((List.range p.lines.length).zip p.lines)[i]? = some (i, l) :=
      List.getElem?_zip_eq_some.2 ⟨List.getElem?_range (List.getElem?_eq_some_iff.1 hi).1, hi⟩
    obtain ⟨y, hy, -, hr⟩ := getElem?_of_forall₂ h hz
    rwa [List.getD_eq_getElem?_getD, List.getElem?_map, hy]

/-! ### The grant -/

/-- The operands of an entry, from its lines. -/
def Pass.operands (p : Pass) (ls : List (Loc × List Byte)) : List (List Byte) :=
  p.inPlace (((List.range p.sizes.length).zip p.sizes).map (fun z => p.bytesFrom ls z.1 z.2))

/-- The arbiter's entry is granted. -/
def grantPass (engine : Nat) (p : Pass) : M Unit := do
  let ls ← grantLines p
  modC (fun c => { c with
    passes := c.passes.map (fun q => if q.id == p.id then { q with granted := true, ops := p.operands ls, got := c.spare engine } else q) })

theorem ctlOnly_grantPass (engine : Nat) (p : Pass) : CtlOnly (grantPass engine p) := by
  refine .bind (fun r => ⟨?_, (onlyDraws_grantLines p r).2⟩) fun _ => ctlOnly_modC _
  have h := congrArg State.stores (onlyDraws_grantLines p r).1
  exact h

theorem exec_matrixGrant {s : State} {engine : Nat} {p : Pass} (hn : ∀ q ∈ s.ctl.passes, q.engine = engine → q.granted = false)
    (hp : s.ctl.pick engine = some p) : exec (.matrixGrant engine) s = event (grantPass engine p) s := by
  refine runM_congr ?_
  have hany : s.ctl.passes.any (fun q => q.engine == engine && q.granted) = false := by
    rw [List.any_eq_false]
    intro q hq
    by_cases he : q.engine = engine <;> simp [he, hn q hq]
  rw [bind_run, getC_run]
  dsimp only
  rw [hany, hp]
  rfl

theorem enginesGrantReadyEntries : Claims.EnginesGrantReadyEntries := by
  intro s engine hn ready stood hready
  obtain ⟨p, hp, hg, hlate, hprio⟩ := Ctl.pick_of_grantable (c := s.ctl) (engine := engine) hready
  obtain ⟨ls, hls, hlen, hread⟩ := grantLines_reads p { st := s, log := [] }
  have hpass := congrArg (·.ctl.passes) (onlyDraws_grantLines p { st := s, log := [] }).1
  have hspare := congrArg (·.ctl.spare engine) (onlyDraws_grantLines p { st := s, log := [] }).1
  refine ⟨_, p, p.operands (p.lines.zip ls), ls,
    (exec_matrixGrant hn hp).trans (event_of_keeps (ctlOnly_grantPass engine p) s),
    sameStores_of_stores (ctlOnly_grantPass engine p _).1, hg, hlen, rfl, hread, ?_, hlate, fun q hq h3 hr => ?_⟩
  · rw [grantPass, bind_run, modC_run, hls]
    refine List.mem_map.2 ⟨p, hpass ▸ hg.1, ?_⟩
    rw [if_pos (beq_self_eq_true p.id)]
    exact congrArg (fun g => ({ p with granted := true, ops := _, got := g } : Pass)) hspare
  · exact hprio q hq h3 fun r hr' => Nat.not_lt.2 (hr r hr')

end Sys2Proof.Machine
end

section
/-! SUPPORT. The end of a granted entry (R89, R302, R303, R308, R317): it leaves its engine, and what it has computed lands in its tile
or in its lanes. -/

namespace Sys2Proof.Machine

/-! ### A value lands in a register (R175) -/

/-- Every store of bytes, and the entries of the engines. -/
def State.bytesPasses (s : State) : (Memory × Memory × Memory × Memory × Memory) × List Pass :=
  ((s.dm, s.dp, s.tm, s.hm, s.rm), s.ctl.passes)

/-- The state after a value has landed where a sink names. -/
def State.landed (s : State) (uid : Nat) (k : Sink) (x : Word) : State :=
  match k with
  | .reg r _ => if s.ctl.hasTeam uid then applyAll s (updSink uid r x) else s
  | .none => s

theorem landSink_run (uid : Nat) (k : Sink) (x : Word) (r : Run) : (landSink uid k x r).2.st = r.st.landed uid k x := by
  cases k with
  | reg d n =>
    rw [landSink, bind_run, getS_run]
    dsimp only
    rw [onlyIf_run, emits_run, State.landed]
    split <;> rfl
  | none => rfl

/-- A value that lands in a register changes lane and uniform registers only, whatever the control state. -/
theorem applyAll_updSink (s : State) (uid : Nat) (r : RegSink) (x : Word) (c : Ctl) :
    applyAll { s with ctl := c } (updSink uid r x) =
      { s with v := (applyAll s (updSink uid r x)).v, w := (applyAll s (updSink uid r x)).w, ctl := c } := by
  unfold updSink
  dsimp only
  split
  · split <;> rfl
  · rfl

theorem State.landed_eq (s : State) (uid : Nat) (k : Sink) (x : Word) {c : Ctl} (hc : c.hasTeam uid = s.ctl.hasTeam uid) :
    ({ s with ctl := c } : State).landed uid k x =
      { s with v := (s.landed uid k x).v, w := (s.landed uid k x).w, ctl := c } := by
  cases k with
  | reg r n =>
    rw [State.landed, State.landed, hc]
    cases s.ctl.hasTeam uid with
    | false => rfl
    | true => exact applyAll_updSink s uid r x c
  | none => rfl

/-- What a state that only a landed value and flags part from s shows of it. -/
theorem landed_of_eq {s t : State} {uid : Nat} {k : Sink} {x : Word} {c : Ctl} {g : Sparse 64}
    (ht : t = { s with v := (s.landed uid k x).v, w := (s.landed uid k x).w, ctl := c, csr := g }) :
    Landed s t uid k x ∧ t.a = s.a := by
  subst ht
  cases k <;> exact ⟨⟨rfl, rfl, rfl, rfl⟩, rfl⟩

theorem keeps_landSink (uid : Nat) (k : Sink) (x : Word) : Keeps State.bytesPasses (landSink uid k x) := by
  refine .getS fun s => ?_
  cases k with
  | reg r n =>
    refine .onlyIf fun q => .emits ?_
    rw [show applyAll q.st _ = _ from applyAll_updSink q.st uid r x q.st.ctl]
    rfl
  | none => exact .pure _

theorem keeps_orGst (uid n m : Nat) : Keeps State.bytesPasses (orGst uid n m) := by
  refine .getS fun s q => .emits ?_
  unfold updGst
  split <;> rfl

/-! ### What a pass computes (R89, R303) -/

/-- The tile after a pass, element by element: above the diagonal of a triangular one the immediate, elsewhere the chunks in order. -/
theorem MTile.pass_eq (m : MTile) (p : Pass) (tri : Bool) (doff : Int) (imm : BitVec 32) (bstr : Nat) :
    m.pass p tri doff imm bstr =
      let el (n : Nat) : BitVec 32 × Nat :=
        if tri = true ∧ doff < ((n % 64 : Nat) : Int) - ((n / 64 : Nat) : Int) then (imm, 0)
        else
          let r := (List.range (kOf p.fa / 64)).foldl (fun (z : Nat × Nat) c =>
            ((chunk p.fa p.fb z.1 (chunkOf p.fa p.fb bstr p.ops (n / 64) (n % 64) c)).1,
             z.2 ||| (chunk p.fa p.fb z.1 (chunkOf p.fa p.fb bstr p.ops (n / 64) (n % 64) c)).2)) ((m.els.getD n 0).toNat, 0)
          (BitVec.ofNat 32 r.1, r.2)
      { m with els := (List.range 4096).map (fun n => (el n).1),
               status := m.status ||| orFlags ((List.range 4096).map (fun n => (el n).2)) } := by
  simp only [MTile.pass, List.map_map, Function.comp_def, passElem, Bool.and_eq_true, decide_eq_true_eq]

/-! ### The end of an entry (R303, R308, R317) -/

/-- What an entry has computed lands: in its tile, unless that is closing, or in its lanes, with their flags. -/
def landPass (p : Pass) : M Unit :=
  match p.kind with
  | .mmx t tri doff imm bstr _ _ _ _ =>
    modC (fun c => { c with mtiles := (c.mtiles.filter (fun m => !(m.uid == t && m.st == .closing))).map (fun m =>
      if m.uid == t then m.pass p tri doff imm bstr else m) })
  | .vxm rows vec sinks => do
    let ys := (rows.zip p.ops).map (fun r => vxmLane p vec r.2 r.1.2.2)
    forEach (sinks.zip ys) (fun x => landSink p.team x.1 (wd x.2.1))
    let c ← getC
    onlyIf (c.hasTeam p.team) (orGst p.team p.who.idx (orFlags (ys.map (·.2))))

theorem keeps_landPass (p : Pass) : Keeps State.bytesPasses (landPass p) := by
  unfold landPass
  split
  · exact .modC fun _ => rfl
  · exact .bind (.forEach fun _ => keeps_landSink _ _ _) fun _ => .getC fun _ => .onlyIf (keeps_orGst _ _ _)

theorem Run.Tied.ctl {r : Run} {s : State} {c : Ctl} (h : r.Tied s) :
    Run.Tied { st := { r.st with ctl := c }, log := .ctl c :: r.log } s := by
  rw [Run.Tied, List.reverse_cons, applyAll_append, h]
  rfl

/-- An entry leaves its engine: the slew limiter and the monitors see it go. -/
def Ctl.passLeft (c : Ctl) (p : Pass) (slews : List Slew) (mons : List Monitor) : Ctl :=
  { c with passes := c.passes.filter (fun q => q.id != p.id), slews := slews, mons := mons }

/-- An entry leaves its engine, then what it has computed lands. -/
theorem endPass_run (p : Pass) (r : Run) :
    ∃ r1 sl mo, endPass p r = landPass p r1 ∧ r1.st = { r.st with ctl := r.st.ctl.passLeft p sl mo } ∧ ∀ s, r.Tied s → r1.Tied s := by
  rw [endPass, bind_run, getC_run]
  dsimp only
  rw [bind_run, setC_run, bind_run, recordMon, modC_run]
  exact ⟨_, _, _, rfl, rfl, fun s h => h.ctl.ctl⟩

theorem records_endPass (p : Pass) : Records (endPass p) := by
  intro r
  obtain ⟨r1, sl, mo, hr, -, ht⟩ := endPass_run p r
  exact ⟨rfl, fun s h => hr ▸ (keeps_landPass p r1).2 s (ht s h)⟩

theorem exec_passEnd {s : State} {engine : Nat} {p : Pass}
    (h : s.ctl.passes.find? (fun q => q.engine == engine && q.granted && decide (16 * q.cycles ≤ q.got)) = some p) :
    exec (.passEnd engine) s = event (endPass p) s := by
  refine runM_congr ?_
  rw [bind_run, getC_run]
  dsimp only
  rw [h]

/-- A `vxm` of one row: its y lands in its lane, then its flags in gst. -/
theorem landPass_vxm {p : Pass} {row : Nat × (Nat × Nat) × BitVec 32} {vec : List (BitVec 32)} {k : Sink} {ops : List Byte} {r : Run}
    (hk : p.kind = .vxm [row] vec [k]) (ho : p.ops = [ops]) :
    landPass p r = (do
      landSink p.team k (wd (vxmLane p vec ops row.2.2).1)
      let c ← getC
      onlyIf (c.hasTeam p.team) (orGst p.team p.who.idx (vxmLane p vec ops row.2.2).2) : M Unit) r := by
  unfold landPass
  rw [hk, ho]
  simp only [List.zip_cons_cons, List.zip_nil_left, List.map_cons, List.map_nil, orFlags, List.foldl_cons, List.foldl_nil, Nat.zero_or]
  rfl

/-- What a `vxm` of one row leaves of the registers. -/
theorem landPass_vxm_regs {s : State} {p : Pass} {row : Nat × (Nat × Nat) × BitVec 32} {vec : List (BitVec 32)} {k : Sink}
    {ops : List Byte} {r : Run} {c : Ctl} (hs : s.wf) (hk : p.kind = .vxm [row] vec [k]) (ho : p.ops = [ops])
    (hr : r.st = { s with ctl := c }) (hc : c.hasTeam p.team = s.ctl.hasTeam p.team) :
    let t := (landPass p r).2.st
    let y := vxmLane p vec ops row.2.2
    Landed s t p.team k (wd y.1) ∧ t.a = s.a ∧
      (s.ctl.hasTeam p.team = true → t.csrOf p.team p.who.idx 0 = s.csrOf p.team p.who.idx 0 ||| (wd y.2 &&& csrLayout 0)) := by
  intro t y
  have h1 : (landSink p.team k (wd y.1) r).2.st =
      { s with v := (s.landed p.team k (wd y.1)).v, w := (s.landed p.team k (wd y.1)).w, ctl := c } := by
    rw [landSink_run, hr, s.landed_eq _ _ _ hc]
  have ht : t = (onlyIf (s.ctl.hasTeam p.team) (orGst p.team p.who.idx y.2) (landSink p.team k (wd y.1) r).2).2.st := by
    rw [← hc, show c = (landSink p.team k (wd y.1) r).2.st.ctl by rw [h1]]
    exact congrArg (·.2.st) (landPass_vxm hk ho)
  rw [onlyIf_run] at ht
  cases hh : s.ctl.hasTeam p.team with
  | false =>
    rw [hh] at ht
    obtain ⟨hland, ha⟩ := landed_of_eq (ht.trans h1)
    exact ⟨hland, ha, fun h => by cases h⟩
  | true =>
    obtain ⟨g, hg, h0, -⟩ := orGst_run (n := p.who.idx) (r := (landSink p.team k (wd y.1) r).2) (by rw [h1]) hs p.team y.2
    rw [hh, if_pos rfl, hg, h1] at ht
    obtain ⟨hland, ha⟩ := landed_of_eq (s := s) (k := k) (x := wd y.1) (c := c) (g := g) ht
    exact ⟨hland, ha, fun _ => ht ▸ h0⟩

theorem passesCompute : Claims.PassesCompute := by
  intro s engine p hp
  obtain ⟨r1, sl, mo, hr, hst, -⟩ := endPass_run p { st := s, log := [] }
  have ht := (exec_passEnd hp).trans (event_of_keeps (records_endPass p) s)
  rw [hr] at ht
  have hkeep := (keeps_landPass p r1).1
  rw [hst] at hkeep
  simp only [State.bytesPasses, Prod.mk.injEq] at hkeep
  obtain ⟨hbytes, hpasses⟩ := hkeep
  refine ⟨_, ht, hbytes, fun q hq => ?_, fun tile tri doff imm bstr a b sa sb hk => ?_, fun row vec k ops hs hk ho => ?_⟩
  · rw [hpasses] at hq
    exact bne_iff_ne.1 (List.mem_filter.1 hq).2
  · rw [landPass, hk]
    dsimp only
    rw [modC_run, hst]
    refine ⟨⟨rfl, rfl, rfl, rfl, rfl, rfl⟩, fun m hm hu hc => ?_⟩
    refine List.mem_map.2 ⟨m, List.mem_filter.2 ⟨hm, by simp [hc]⟩, ?_⟩
    rw [if_pos (beq_iff_eq.2 hu), MTile.pass_eq]
  · exact landPass_vxm_regs hs hk ho hst rfl

end Sys2Proof.Machine
end

section
/-! SUPPORT. The steps of a die's slew limiter (R306, R307): what moving units does to their sum, and so to the grant. -/

namespace Sys2Proof.Machine

/-! ### Units that move -/

theorem sum_set_le (l : List Nat) (i x : Nat) : (l.set i x).sum ≤ l.sum + (x - l.getD i 0) := by
  induction l generalizing i with
  | nil => simp
  | cons a l ih =>
    cases i with
    | zero => simp only [List.set_cons_zero, List.sum_cons, List.getD_cons_zero]; omega
    | succ i =>
      have := ih i
      simp only [List.set_cons_succ, List.sum_cons, List.getD_cons_succ]
      omega

theorem giveUnit_sum_le (ds held : List Nat) : (giveUnit ds held).sum ≤ held.sum + 1 := by
  unfold giveUnit
  dsimp only
  split
  · exact Nat.le_succ _
  · exact (sum_set_le _ _ _).trans (by omega)

theorem takeUnit_sum_le (ds held : List Nat) : (takeUnit ds held).sum ≤ held.sum :=
  (sum_set_le _ _ _).trans (by omega)

/-- Moving units towards a total never makes more than there were and more than that total. -/
theorem moveUnits_sum_le (ds : List Nat) (goal n : Nat) (held : List Nat) :
    (moveUnits ds goal n held).sum ≤ max held.sum goal := by
  induction n generalizing held with
  | zero => exact Nat.le_max_left _ _
  | succ n ih =>
    rw [moveUnits]
    split
    · have := giveUnit_sum_le ds held
      exact (ih _).trans (by omega)
    · split
      · have := takeUnit_sum_le ds held
        exact (ih _).trans (by omega)
      · exact Nat.le_max_left _ _

theorem moveUnits_of_sum_eq {ds held : List Nat} {goal : Nat} (h : held.sum = goal) (n : Nat) : moveUnits ds goal n held = held := by
  cases n with
  | zero => rfl
  | succ n => rw [moveUnits, h, if_neg (Nat.lt_irrefl _), if_neg (Nat.lt_irrefl _)]

/-! ### One step -/

/-- Where the demand is above the grant and no fall stands announced, the grant rises by RISE at most, not above the demand nor
above CAP, and none is announced. -/
theorem Slew.advance_rises {x : Slew} {ds : List Nat} (cyc : Nat) (hf : x.pendingFall = none) (h : x.held.sum < ds.sum) :
    (x.advance ds cyc).pendingFall = none ∧
      (x.advance ds cyc).held.sum ≤ max x.held.sum (min ds.sum (min x.cap (x.held.sum + x.rise))) := by
  simp only [Slew.advance, hf, Slew.grant, if_neg (Nat.lt_asymm h), if_pos h, moveUnits_of_sum_eq]
  exact ⟨trivial, moveUnits_sum_le _ _ _ _⟩

/-- Where the demand is below the grant and no fall stands announced, one by FALL at most is announced. -/
theorem Slew.advance_falls {x : Slew} {ds : List Nat} (cyc : Nat) (hf : x.pendingFall = none) (h : ds.sum < x.held.sum) :
    (x.advance ds cyc).pendingFall = some (max ds.sum (x.held.sum - x.fall)) := by
  rw [Slew.advance, hf]
  exact if_pos h

theorem Slew.advance_settings (x : Slew) (ds : List Nat) (cyc : Nat) :
    (x.advance ds cyc).stepAt = cyc ∧ (x.advance ds cyc).step = x.step ∧ (x.advance ds cyc).rise = x.rise ∧
      (x.advance ds cyc).fall = x.fall ∧ (x.advance ds cyc).cap = x.cap := ⟨rfl, rfl, rfl, rfl, rfl⟩

/-- A step of the limiter begins, when demand and grant differ, or one step time after the last one of a run. -/
def Slew.due (x : Slew) (d cyc : Nat) : Prop := if x.running then x.stepAt + x.step ≤ cyc else x.held.sum ≠ d

/-- What a slew step does to its die's limiter. -/
theorem exec_slewStep {s : State} {die : Nat} (hd : die < 8) (hl : die < s.ctl.slews.length) :
    let x := s.ctl.slews.getD die Slew.init
    let ds := (List.range 16).map (s.ctl.demand die)
    ∃ t, exec (.slewStep die) s = .next t ∧ SameStores s t ∧
      (x.due ds.sum s.ctl.cyc → t.ctl.slews.getD die Slew.init = x.advance ds s.ctl.cyc) ∧
      (¬x.due ds.sum s.ctl.cyc → t.ctl.slews.getD die Slew.init = x) := by
  intro x ds
  have hx : exec (.slewStep die) s = event (if die < 8 ∧ (if x.running then x.stepAt + x.step ≤ s.ctl.cyc else x.grant ≠ ds.sum) then
      setC { s.ctl with slews := s.ctl.slews.set die (x.advance ds s.ctl.cyc) } else pure ()) s := runM_congr rfl
  by_cases h : x.due ds.sum s.ctl.cyc
  · refine ⟨{ s with ctl := { s.ctl with slews := s.ctl.slews.set die (x.advance ds s.ctl.cyc) } }, ?_,
      ⟨⟨rfl, rfl, rfl, rfl, rfl⟩, rfl, rfl, rfl, rfl, rfl, rfl⟩, fun _ => ?_, fun hn => absurd h hn⟩
    · rw [hx, if_pos ⟨hd, h⟩]
      rfl
    · show (s.ctl.slews.set die _).getD die _ = _
      rw [List.getD_eq_getElem?_getD, List.getElem?_set_self hl]
      rfl
  · refine ⟨s, ?_, ⟨⟨rfl, rfl, rfl, rfl, rfl⟩, rfl, rfl, rfl, rfl, rfl, rfl⟩, fun hp => absurd hp h, fun _ => rfl⟩
    rw [hx, if_neg fun hc => h hc.2]
    rfl

theorem slewStepsBoundTheGrant : Claims.SlewStepsBoundTheGrant := by
  intro s die hd hl x d
  obtain ⟨t, ht, hst, hstep, hrest⟩ := exec_slewStep hd hl
  refine ⟨t, ht, hst, fun hr he => hrest fun hdue => ?_, fun hdue => ?_⟩
  · rw [Slew.due, if_neg (by rw [hr]; decide)] at hdue
    exact hdue he
  · obtain ⟨h1, h2, h3, h4, h5⟩ := x.advance_settings ((List.range 16).map (s.ctl.demand die)) s.ctl.cyc
    rw [hstep hdue]
    exact ⟨h1, h2, h3, h4, h5, Slew.advance_rises _, Slew.advance_falls _⟩

end Sys2Proof.Machine
end

section
/-! SUPPORT. The epilogue of a tile (R304): it reaches its bytes, lands its rows byte by byte, and ends with its tile. -/

namespace Sys2Proof.Machine

/-! ### Packed rows (R86) -/

theorem bytesOf_length (x n : Nat) : (bytesOf x n).length = n := by rw [bytesOf, List.length_map, List.length_range]

theorem packRow_length (cont : Nat) (xs : List Nat) : (packRow cont xs).length = xs.length * cont / 8 := bytesOf_length _ _

/-- Byte i of rows of n bytes each. -/
theorem getElem?_flatten_rows {α : Type} {n : Nat} (hn : 0 < n) {rows : List (List α)} (h : ∀ x ∈ rows, x.length = n) (i : Nat) :
    rows.flatten[i]? = rows[i / n]?.bind (·[i % n]?) := by
  induction rows generalizing i with
  | nil => rfl
  | cons x rows ih =>
    obtain ⟨hx, hr⟩ := List.forall_mem_cons.1 h
    rw [List.flatten_cons]
    rcases Nat.lt_or_ge i n with hi | hi
    · rw [List.getElem?_append_left (hx ▸ hi), Nat.div_eq_of_lt hi, Nat.mod_eq_of_lt hi]
      rfl
    · rw [List.getElem?_append_right (hx ▸ hi), hx, ih hr, Nat.div_eq_sub_div hn hi, List.getElem?_cons_succ, Nat.mod_eq_sub_mod hi]

/-- Row i of 64 rows of 64 elements. -/
theorem rowOf_range {α : Type} (f : Nat → α) {i : Nat} (hi : i < 64) :
    (((List.range 4096).map f).drop (64 * i)).take 64 = (List.range 64).map (fun k => f (i * 64 + k)) := by
  refine List.ext_getElem (by simp; omega) fun k h1 h2 => ?_
  simp [Nat.mul_comm]

/-! ### Bytes that land -/

theorem State.mem_setMem (s : State) (sp sp' : Space) (m : Memory) : (s.setMem sp' m).mem sp = if sp = sp' then m else s.mem sp := by
  cases sp <;> cases sp' <;> rfl

theorem State.wf_mem {s : State} (h : s.memWf) (sp : Space) : Memory.wf (s.mem sp) := by
  obtain ⟨hdm, hdp, htm, hhm, hrm⟩ := h
  cases sp
  · exact htm
  · exact hdp
  · exact hdm
  · exact hhm
  · exact hrm

/-- A byte of an epilogue lands; no operand buffer holds an earlier value of it. -/
def landByte (x : Loc × Byte) : M Unit := do
  storeBytes x.1 [x.2]
  modC (fun c => c.dropOpAt x.1 1)

theorem landByte_mem_self (x : Loc × Byte) {r : Run} (h : r.st.memWf) : ((landByte x r).2.st.mem x.1.sp).get x.1.key = x.2 := by
  show ((r.st.setMem x.1.sp ((r.st.mem x.1.sp).set x.1.key x.2)).mem x.1.sp).get x.1.key = x.2
  rw [State.mem_setMem, if_pos rfl, Sparse.get_set_self _ _ _ (State.wf_mem h _)]

theorem landByte_mem_ne (x : Loc × Byte) (r : Run) {sp : Space} {key : Nat} (h : ¬(x.1.sp = sp ∧ x.1.key = key)) :
    ((landByte x r).2.st.mem sp).get key = (r.st.mem sp).get key := by
  show ((r.st.setMem x.1.sp ((r.st.mem x.1.sp).set x.1.key x.2)).mem sp).get key = _
  rw [State.mem_setMem]
  split
  · next hs =>
    subst hs
    rw [Sparse.get_set_ne _ _ _ _ fun hk => h ⟨rfl, hk.symm⟩]
  · rfl

theorem landByte_memWf (x : Loc × Byte) {r : Run} (h : r.st.memWf) : (landByte x r).2.st.memWf :=
  applyUpd_memWf r.st (.byte x.1.sp x.1.key x.2) h

theorem forEach_landByte_ne {zs : List (Loc × Byte)} {sp : Space} {key : Nat} (h : ∀ x ∈ zs, ¬(x.1.sp = sp ∧ x.1.key = key)) (r : Run) :
    ((forEach zs landByte r).2.st.mem sp).get key = (r.st.mem sp).get key := by
  induction zs generalizing r with
  | nil => rfl
  | cons x zs ih =>
    obtain ⟨hx, hz⟩ := List.forall_mem_cons.1 h
    rw [forEach, bind_run, ih hz, landByte_mem_ne x r hx]

/-- Bytes that land at different places stand there. -/
theorem forEach_landByte_self {zs : List (Loc × Byte)} (hn : (zs.map (·.1)).Nodup) {r : Run} (hw : r.st.memWf) :
    ∀ x ∈ zs, ((forEach zs landByte r).2.st.mem x.1.sp).get x.1.key = x.2 := by
  induction zs generalizing r with
  | nil => exact fun _ h => absurd h List.not_mem_nil
  | cons x zs ih =>
    rw [List.map_cons, List.nodup_cons] at hn
    obtain ⟨hx, hz⟩ := hn
    rw [forEach, bind_run]
    refine List.forall_mem_cons.2 ⟨?_, ih hz (landByte_memWf x hw)⟩
    rw [forEach_landByte_ne, landByte_mem_self x hw]
    rintro y hy ⟨hsp, hkey⟩
    refine hx (List.mem_map.2 ⟨y, hy, ?_⟩)
    obtain ⟨⟨ysp, ykey⟩, yb⟩ := y
    obtain ⟨⟨xsp, xkey⟩, xb⟩ := x
    cases hsp
    cases hkey
    rfl

/-- Every register but the group registers, and the jobs and tiles. -/
def State.regsWork (s : State) : (Sparse 32 × Sparse 32 × Sparse 32 × Sparse 64 × Sparse 64) × List Job × List MTile :=
  ((s.v, s.vi, s.a, s.w, s.k), s.ctl.jobs, s.ctl.mtiles)

theorem keeps_landByte (x : Loc × Byte) : Keeps State.regsWork (landByte x) := by
  obtain ⟨⟨sp, key⟩, b⟩ := x
  exact .bind (fun _ => .emits (by cases sp <;> rfl)) fun _ => .modC fun _ => rfl

/-! ### The end of an epilogue -/

/-- Every store but the group registers. -/
def State.noCsr (s : State) : State := { s with csr := Sparse.empty, ctl := Ctl.init }

theorem keeps_noCsr_modC (f : Ctl → Ctl) : Keeps State.noCsr (modC f) := .modC fun _ => rfl

theorem keeps_noCsr_orGst (uid n m : Nat) : Keeps State.noCsr (orGst uid n m) := by
  refine .getS fun s q => .emits ?_
  unfold updGst
  split <;> rfl

theorem orGst_ctl (uid n m : Nat) (r : Run) : (orGst uid n m r).2.st.ctl = r.st.ctl := by
  rw [orGst, bind_run, getS_run, emits_run, updGst]
  split <;> rfl

/-- The job of a number is the first of that number. -/
theorem Ctl.find?_theJob {c : Ctl} {id : Nat} {j : Job} (h : c.theJob id j) : c.jobs.find? (fun q => q.id == id) = some j := by
  obtain ⟨hj, hid, hu⟩ := h
  cases hf : c.jobs.find? (fun q => q.id == id) with
  | none => exact absurd (beq_iff_eq.2 hid) (List.find?_eq_none.1 hf j hj)
  | some q => rw [hu q (List.mem_of_find?_eq_some hf) (by simpa using List.find?_some hf)]

theorem Ctl.theJob.modify {c : Ctl} {id : Nat} {j : Job} (h : c.theJob id j) {f : Job → Job} (hf : ∀ q, (f q).id = q.id) :
    ({ c with jobs := c.jobs.map (fun q => if q.id == id then f q else q) } : Ctl).theJob id (f j) := by
  obtain ⟨hj, hid, hu⟩ := h
  refine ⟨List.mem_map.2 ⟨j, hj, if_pos (beq_iff_eq.2 hid)⟩, (hf j).trans hid, fun q hq hqid => ?_⟩
  obtain ⟨p, hp, rfl⟩ := List.mem_map.1 hq
  by_cases hpid : p.id = id
  · rw [if_pos (beq_iff_eq.2 hpid), hu p hp hpid]
  · rw [if_neg (by simpa using hpid)] at hqid
    exact absurd hqid hpid

/-- The job when n bytes from the first on have landed, and those alone. -/
def Job.landAll (j : Job) (n : Nat) : Job := { j with landed := [(0, n)] }

/-- The epilogue j stands among the jobs: it has been accepted, has no error and names no completion object. -/
structure Ctl.HasEpilogue (c : Ctl) (j : Job) : Prop where
  theJob : c.theJob j.id j
  accepted : j.accepted = true
  noErr : j.err = none
  compl : j.compl = .none
  kind : ∃ tile sc act out rb st bias satc, j.kind = .epi tile sc act out rb st bias satc

/-- A job whose last byte has landed leaves its engine, with its latency recorded. -/
def leaveEngine (j : Job) : M Unit := do
  let c ← getC
  recordMon j.die (some j.rctx) 1 (c.cyc - j.acceptedAt)
  endJob j.id

theorem finishJob_epilogue {j : Job} {r : Run} (h : r.st.ctl.HasEpilogue j) (hd : j.done = j.size) :
    finishJob j.id r = leaveEngine j r := by
  obtain ⟨tile, sc, act, out, rb, st, bias, satc, hk⟩ := h.kind
  rw [finishJob, bind_run, getC_run]
  dsimp only
  rw [Ctl.find?_theJob h.theJob]
  dsimp only
  rw [h.accepted, h.noErr, hd, h.compl, hk, beq_self_eq_true]
  rfl

theorem keeps_noCsr_leaveEngine (j : Job) : Keeps State.noCsr (leaveEngine j) :=
  .getC fun _ => .bind (keeps_noCsr_modC _) fun _ => .bind (keeps_noCsr_modC _) fun _ => keeps_noCsr_modC _

theorem leaveEngine_work (j : Job) (r : Run) :
    (leaveEngine j r).2.st.ctl.jobs = r.st.ctl.jobs.filter (fun q => q.id != j.id) ∧
      (leaveEngine j r).2.st.ctl.mtiles = r.st.ctl.mtiles := ⟨rfl, rfl⟩

theorem Ctl.HasEpilogue.congr {c d : Ctl} {j : Job} (h : c.HasEpilogue j) (hd : d.jobs = c.jobs) : d.HasEpilogue j where
  theJob := by unfold Ctl.theJob; rw [hd]; exact h.theJob
  accepted := h.accepted
  noErr := h.noErr
  compl := h.compl
  kind := h.kind

theorem modJob_landAll {j : Job} {r : Run} (h : r.st.ctl.HasEpilogue j) :
    (modJob j.id (fun q => q.landAll j.size) r).2.st.ctl.HasEpilogue (j.landAll j.size) where
  theJob := h.theJob.modify (f := fun q => q.landAll j.size) fun _ => rfl
  accepted := h.accepted
  noErr := h.noErr
  compl := h.compl
  kind := h.kind

theorem Ctl.HasEpilogue.any_err {c : Ctl} {j : Job} (h : c.HasEpilogue j) : c.jobs.any (fun q => q.id == j.id && q.err.isSome) = false := by
  obtain ⟨-, -, hu⟩ := h.theJob
  rw [List.any_eq_false]
  intro q hq
  by_cases hid : q.id = j.id
  · rw [hu q hq hid, h.noErr]
    simp
  · simp [hid]

/-- The flags of an epilogue's elements and its tile's status come into its party's gst, and its tile goes. -/
def closeTile (j : Job) (m : MTile) (fl : Nat) : M Unit := do
  let c ← getC
  onlyIf (c.hasTeam j.team && !((c.team j.team).party j.who).retired) (orGst j.team j.who.idx fl)
  modC (fun c => { c with mtiles := c.mtiles.filter (fun y => y.uid != m.uid) })

/-- What an epilogue does once its bytes have landed and been counted. -/
def closeLanded (j : Job) (m : MTile) (fl : Nat) : M Unit := do
  let c ← getC
  if c.jobs.any (fun q => q.id == j.id && q.err.isSome) then pure ()
  else do
    onlyIf (c.hasTeam j.team && !((c.team j.team).party j.who).retired) (orGst j.team j.who.idx fl)
    modC (fun c => { c with mtiles := c.mtiles.filter (fun y => y.uid != m.uid) })
    finishJob j.id
  retest

/-- What an epilogue does once its bytes have landed. -/
def closeEpilogue (j : Job) (m : MTile) (fl : Nat) : M Unit := do
  modJob j.id (fun q => q.landAll j.size)
  countJob j j.size
  closeLanded j m fl

/-- What is left of that where the epilogue stands: no completion object is counted and no error has come. -/
def endEpilogue (j : Job) (m : MTile) (fl : Nat) : M Unit := do
  modJob j.id (fun q => q.landAll j.size)
  closeTile j m fl
  leaveEngine (j.landAll j.size)
  retest

theorem closeTile_ctl (j : Job) (m : MTile) (fl : Nat) (r : Run) :
    (closeTile j m fl r).2.st.ctl = { r.st.ctl with mtiles := r.st.ctl.mtiles.filter (fun y => y.uid != m.uid) } := by
  have h : ∀ b, (onlyIf b (orGst j.team j.who.idx fl) r).2.st.ctl = r.st.ctl := by
    intro b
    rw [onlyIf_run]
    split
    · exact orGst_ctl _ _ _ _
    · rfl
  rw [closeTile, bind_run, getC_run, bind_run, modC_run]
  simp only [h]

theorem closeLanded_run {j : Job} {m : MTile} {fl : Nat} {r : Run} (h : r.st.ctl.HasEpilogue (j.landAll j.size)) :
    closeLanded j m fl r = (do closeTile j m fl; leaveEngine (j.landAll j.size); retest : M Unit) r := by
  have hfin : finishJob j.id (closeTile j m fl r).2 = leaveEngine (j.landAll j.size) (closeTile j m fl r).2 :=
    finishJob_epilogue (j := j.landAll j.size) (h.congr (by rw [closeTile_ctl])) (by simp [Job.done, Job.landAll])
  have hany : r.st.ctl.jobs.any (fun q => q.id == j.id && q.err.isSome) = false := h.any_err
  rw [bind_run, bind_run, ← hfin, closeLanded, bind_run, getC_run]
  dsimp only
  rw [hany]
  rfl

theorem closeEpilogue_run {j : Job} {m : MTile} {fl : Nat} {r : Run} (h : r.st.ctl.HasEpilogue j) :
    closeEpilogue j m fl r = endEpilogue j m fl r := by
  have hcount : countJob j j.size = pure () := by rw [countJob, h.compl]
  rw [closeEpilogue, endEpilogue, hcount, bind_run, bind_run, pure_run, closeLanded_run (modJob_landAll h)]
  rfl

theorem keeps_noCsr_endEpilogue (j : Job) (m : MTile) (fl : Nat) : Keeps State.noCsr (endEpilogue j m fl) :=
  .bind (keeps_noCsr_modC _) fun _ =>
    .bind (.getC fun _ => .bind (.onlyIf (keeps_noCsr_orGst _ _ _)) fun _ => keeps_noCsr_modC _) fun _ =>
      .bind (keeps_noCsr_leaveEngine _) fun _ => .getS fun _ => .onlyIf (keeps_noCsr_modC _)

/-- After the end of an epilogue its job and its tile are gone. -/
theorem endEpilogue_gone (j : Job) (m : MTile) (fl : Nat) (r : Run) :
    (∀ q ∈ (endEpilogue j m fl r).2.st.ctl.jobs, q.id ≠ j.id) ∧ ∀ x ∈ (endEpilogue j m fl r).2.st.ctl.mtiles, x.uid ≠ m.uid := by
  have hretest : Keeps (fun s => (s.ctl.jobs, s.ctl.mtiles)) retest := .getS fun _ => .onlyIf (.modC fun _ => rfl)
  rw [endEpilogue, bind_run, bind_run, bind_run]
  generalize (modJob j.id (fun q => q.landAll j.size) r).2 = r1
  have hw := (hretest (leaveEngine (j.landAll j.size) (closeTile j m fl r1).2).2).1
  obtain ⟨hj, hm⟩ := leaveEngine_work (j.landAll j.size) (closeTile j m fl r1).2
  dsimp only at hw
  rw [hj, hm, closeTile_ctl] at hw
  obtain ⟨hjobs, htiles⟩ := Prod.mk.inj hw
  rw [hjobs, htiles]
  exact ⟨fun q hq => bne_iff_ne.1 (List.mem_filter.1 hq).2, fun x hx => bne_iff_ne.1 (List.mem_filter.1 hx).2⟩

/-! ### The epilogue -/

/-- The bytes of the bias. -/
def biasBytes : Option (Nat × Nat) → List (Nat × Nat)
  | none => []
  | some b => spreadBytes [(b.1, b.2, 256)]

/-- Element n of the tile as the epilogue gives it, with its flags: bb are the bytes of the bias. -/
def epiAt (m : MTile) (sc : BitVec 32) (act out : Nat) (satc : Bool) (bias : Option (Nat × Nat)) (bb : List Byte) (n : Nat) : Nat × Nat :=
  epiElem m.int sc act out satc (if bias.isSome then some (ofBytes ((bb.drop (n % 64 * 4)).take 4)) else none) (m.els.getD n 0)

/-- The rows that an epilogue writes. -/
def epiRows (out : Nat) (el : Nat → Nat × Nat) : List (List Byte) :=
  (List.range 64).map (fun i => packRow (container out) ((((List.range 4096).map el).drop (64 * i)).take 64 |>.map (·.1)))

/-- Row i of what an epilogue writes: its elements, packed. -/
def epiRow (out : Nat) (el : Nat → Nat × Nat) (i : Nat) : List Byte :=
  packRow (container out) ((List.range 64).map (fun k => (el (i * 64 + k)).1))

theorem epiRows_eq (out : Nat) (el : Nat → Nat × Nat) : epiRows out el = (List.range 64).map (epiRow out el) := by
  refine List.map_congr_left fun i hi => ?_
  rw [rowOf_range el (List.mem_range.1 hi), List.map_map]
  rfl

section Rows

variable {out rb : Nat} (hrb : rb = 8 * container out) (el : Nat → Nat × Nat)
include hrb

theorem epiRow_length (i : Nat) : (epiRow out el i).length = rb := by
  rw [epiRow, packRow_length, List.length_map, List.length_range]
  omega

theorem epiRows_lengths : ∀ x ∈ epiRows out el, x.length = rb := by
  rw [epiRows_eq, List.forall_mem_map]
  exact fun i _ => epiRow_length hrb el i

theorem epiRows_length : (epiRows out el).flatten.length = 64 * rb := by
  rw [List.length_flatten, List.map_congr_left (epiRows_lengths hrb el), List.map_const', List.sum_replicate, epiRows, List.length_map,
    List.length_range, smul_eq_mul]

/-- Byte i of the rows is byte i % rb of row i / rb. -/
theorem epiRows_getElem? {i : Nat} (hi : i < 64 * rb) :
    (epiRows out el).flatten[i]? = some ((epiRow out el (i / rb)).getD (i % rb) 0) := by
  have hpos : 0 < rb := Nat.pos_of_mul_pos_left (Nat.zero_lt_of_lt hi)
  have hmod : i % rb < (epiRow out el (i / rb)).length := (epiRow_length hrb el _).symm ▸ Nat.mod_lt _ hpos
  rw [getElem?_flatten_rows hpos (epiRows_lengths hrb el), epiRows_eq, List.getElem?_map,
    List.getElem?_range (Nat.div_lt_of_lt_mul (by rwa [Nat.mul_comm])), List.getD_eq_getElem _ _ hmod]
  exact List.getElem?_eq_getElem hmod

end Rows

theorem forEach_map {α β : Type} (g : α → β) (f : β → M Unit) (l : List α) : forEach (l.map g) f = forEach l (fun a => f (g a)) := by
  induction l with
  | nil => rfl
  | cons a l ih => rw [List.map_cons, forEach, forEach, ih]

theorem bind_of_run {α β : Type} {m : M α} {f : α → M β} {r r1 : Run} {a : α} (h : m r = (a, r1)) : (m >>= f) r = f a r1 := by
  rw [bind_run, h]

theorem Run.tied_nil (s : State) : Run.Tied { st := s, log := [] } s := rfl

/-- The state that a part of a meaning leaves, with what it has recorded. -/
theorem Runs.run {α : Type} {m : M α} {s s1 s0 : State} {a : α} (h : Runs m s a s1) (hm : Records m) {r : Run} (hr : r.st = s)
    (ht : r.Tied s0) : ∃ r1, m r = (a, r1) ∧ r1.st = s1 ∧ r1.Tied s0 := by
  subst hr
  obtain ⟨log1, h1⟩ := h r.log
  have h2 := (hm r).2 s0 ht
  rw [show m r = _ from h1] at h2
  exact ⟨_, h1, rfl, h2⟩

/-- The rows land and the epilogue ends. -/
def landRows (j : Job) (m : MTile) (fl out : Nat) (ls : List Loc) (el : Nat → Nat × Nat) : M Unit := do
  forEach (ls.zip (epiRows out el).flatten) landByte
  endEpilogue j m fl

/-- An epilogue that reaches all its bytes, each in a place of its own, lands its rows there and ends. -/
theorem runEpilogue_run {s s1 s2 : State} {j : Job} {m : MTile} {sc : BitVec 32} {act out rb st : Nat} {bias : Option (Nat × Nat)}
    {satc : Bool} {bs : List ByteAt} {ls : List Loc} (h : s2.ctl.HasEpilogue j)
    (h1 : Runs (jobReachAll j false false (biasBytes bias)) s (.ok bs) s1)
    (h2 : Runs (jobReachAll j true false (spreadBytes ((List.range 64).map (fun i => (j.dsp, j.dst.toNat + i * st, rb))))) s1
      (.ok (ls.map ByteAt.at_)) s2) :
    let bb := bs.map (fun x => match x with
      | .at_ l => (s1.mem l.sp).get l.key
      | _ => (0 : Byte))
    ∃ r2 fl, r2.st = s2 ∧ r2.Tied s ∧ runEpilogue j m sc act out rb st bias satc { st := s, log := [] } =
      landRows j m fl out ls (epiAt m sc act out satc bias bb) r2 := by
  intro bb
  obtain ⟨r1, hr1, hs1, ht1⟩ := h1.run (records_jobReachAll _ _ _ _) rfl (Run.tied_nil s)
  obtain ⟨r2, hr2, hs2, ht2⟩ := h2.run (records_jobReachAll _ _ _ _) hs1 ht1
  refine ⟨r2, m.status ||| orFlags (((List.range 4096).map (epiAt m sc act out satc bias bb)).map (·.2)), hs2, ht2, ?_⟩
  have hland : ∀ zs : List (Loc × Byte), (forEach zs landByte r2).2.st.ctl.HasEpilogue j := fun zs =>
    (hs2 ▸ h).congr (congrArg (fun w : _ × List Job × List MTile => w.2.1) (Keeps.forEach (l := zs) keeps_landByte r2).1)
  rw [landRows, bind_run, ← closeEpilogue_run (hland _)]
  subst hs1
  unfold runEpilogue
  dsimp only
  refine (bind_of_run hr1).trans ?_
  dsimp only
  refine (bind_of_run (getS_run r1)).trans ((bind_of_run hr2).trans ?_)
  dsimp only
  rw [bind_run, List.zip_map_left, forEach_map]
  rfl

theorem spreadBytes_length (rs : List (Nat × Nat × Nat)) : (spreadBytes rs).length = (rs.map (·.2.2)).sum := by
  simp [spreadBytes, List.length_flatten, Function.comp_def]

theorem exec_epilogueComplete {s : State} {engine : Nat} {j : Job} {m : MTile} {tile : Nat} {sc : BitVec 32} {act out rb st : Nat}
    {bias : Option (Nat × Nat)} {satc : Bool} (hh : s.ctl.headEpi engine = some j)
    (hk : j.kind = .epi tile sc act out rb st bias satc) (he : j.err = none)
    (hm : s.ctl.mtiles.find? (fun y => y.uid == tile) = some m) (hp : ∀ p ∈ s.ctl.passes, p.onTile tile = false) :
    exec (.epilogueComplete engine) s = event (runEpilogue j m sc act out rb st bias satc) s := by
  refine runM_congr ?_
  have hany : s.ctl.passes.any (fun p => p.onTile tile) = false := by
    rw [List.any_eq_false]
    intro p h
    rw [hp p h]
    decide
  rw [bind_run, getC_run]
  dsimp only
  rw [hh]
  dsimp only
  rw [hk, he]
  dsimp only
  rw [hm]
  dsimp only
  rw [hany]
  rfl

/-- What the rows of an epilogue leave of the memories where each byte has a place of its own. -/
theorem landBytes_mem {ls : List Loc} {out rb : Nat} {el : Nat → Nat × Nat} {r : Run} (hn : ls.Nodup) (hl : ls.length = 64 * rb)
    (hrb : rb = 8 * container out) (hw : r.st.memWf) :
    let u := (forEach (ls.zip (epiRows out el).flatten) landByte r).2.st
    (∀ sp key, (∀ l ∈ ls, ¬(l.sp = sp ∧ l.key = key)) → (u.mem sp).get key = (r.st.mem sp).get key) ∧
      ∀ i l, ls[i]? = some l → (u.mem l.sp).get l.key =
        (epiRow out el (i / rb)).getD (i % rb) 0 := by
  have hfst : (ls.zip (epiRows out el).flatten).map Prod.fst = ls := List.map_fst_zip (by rw [hl, epiRows_length hrb])
  refine ⟨fun sp key h => forEach_landByte_ne (fun x hx => h x.1 (List.of_mem_zip hx).1) r, fun i l hi => ?_⟩
  have hbyte := epiRows_getElem? hrb el (hl ▸ (List.getElem?_eq_some_iff.1 hi).1)
  exact forEach_landByte_self (hfst.symm ▸ hn) hw (l, _) (List.mem_of_getElem? (List.getElem?_zip_eq_some.2 ⟨hi, hbyte⟩))

theorem records_landRows (j : Job) (m : MTile) (fl out : Nat) (ls : List Loc) (el : Nat → Nat × Nat) :
    Records (landRows j m fl out ls el) :=
  .bind (.forEach fun x => (keeps_landByte x).records) fun _ => (keeps_noCsr_endEpilogue j m fl).records

/-- What the end of an epilogue leaves of the registers and memories. -/
theorem landRows_stores (j : Job) (m : MTile) (fl : Nat) {ls : List Loc} {out rb : Nat} (el : Nat → Nat × Nat) {r : Run} (hn : ls.Nodup)
    (hl : ls.length = 64 * rb) (hrb : rb = 8 * container out) (hw : r.st.memWf) :
    let t := (landRows j m fl out ls el r).2.st
    t.v = r.st.v ∧ t.vi = r.st.vi ∧ t.a = r.st.a ∧ t.w = r.st.w ∧ t.k = r.st.k ∧
      (∀ sp key, (∀ l ∈ ls, ¬(l.sp = sp ∧ l.key = key)) → (t.mem sp).get key = (r.st.mem sp).get key) ∧
      ∀ i l, ls[i]? = some l → (t.mem l.sp).get l.key = (epiRow out el (i / rb)).getD (i % rb) 0 := by
  intro t
  obtain ⟨hframe, hbytes⟩ := landBytes_mem (el := el) hn hl hrb hw
  have hregs := (Keeps.forEach (l := ls.zip (epiRows out el).flatten) keeps_landByte r).1
  have hend : t.noCsr = _ := (keeps_noCsr_endEpilogue j m fl (forEach (ls.zip (epiRows out el).flatten) landByte r).2).1
  generalize (forEach (ls.zip (epiRows out el).flatten) landByte r).2.st = u at hframe hbytes hregs hend
  clear_value t
  have hmem : ∀ sp, t.noCsr.mem sp = u.noCsr.mem sp := fun sp => by rw [hend]
  change ∀ sp, t.mem sp = u.mem sp at hmem
  simp only [State.regsWork, Prod.mk.injEq] at hregs
  obtain ⟨⟨hv, hvi, ha, hwr, hk⟩, -⟩ := hregs
  refine ⟨(congrArg State.v hend).trans hv, (congrArg State.vi hend).trans hvi, (congrArg State.a hend).trans ha,
    (congrArg State.w hend).trans hwr, (congrArg State.k hend).trans hk, fun sp key h => ?_, fun i l hi => ?_⟩
  · rw [hmem, hframe sp key h]
  · rw [hmem, hbytes i l hi]

theorem epiloguesWriteTheirRows : Claims.EpiloguesWriteTheirRows := by
  intro s s1 s2 engine j m tile sc act out rb st bias satc bs xs ls _ hw2 hhead hkind herr hacc hcompl htile hpass hjob _ hrb h1 h2 hxs
    hnd bb el
  subst hxs
  have hepi : s2.ctl.HasEpilogue j := ⟨hjob, hacc, herr, hcompl, _, _, _, _, _, _, _, _, hkind⟩
  have h1' : Runs (jobReachAll j false false (biasBytes bias)) s (.ok bs) s1 := by cases bias <;> exact h1
  have hlen : ls.length = 64 * rb := by
    obtain ⟨r, hr, -⟩ := h2.run (records_jobReachAll _ _ _ _) rfl (Run.tied_nil s1)
    have := jobReachAll_length (congrArg Prod.fst hr)
    rwa [List.length_map, spreadBytes_length, List.map_map, Function.comp_def, List.map_const', List.length_range,
      List.sum_replicate, smul_eq_mul] at this
  obtain ⟨r2, fl, rfl, htied, hrun⟩ := runEpilogue_run (m := m) (sc := sc) (act := act) (out := out) (satc := satc) hepi h1' h2
  obtain ⟨hv, hvi, ha, hwr, hk, hframe, hbytes⟩ := landRows_stores j m fl el hnd hlen hrb hw2.1
  obtain ⟨hjobs, htiles⟩ := endEpilogue_gone j m fl (forEach (ls.zip (epiRows out el).flatten) landByte r2).2
  have hnext : exec (.epilogueComplete engine) s = .next (landRows j m fl out ls el r2).2.st :=
    (exec_epilogueComplete hhead hkind herr htile hpass).trans (runM_of_run hrun htied (records_landRows j m fl out ls el r2))
  exact ⟨_, hnext, htiles, hjobs, hv, hvi, ha, hwr, hk, hframe, hbytes⟩

/-- Settles O45: by the arbiter's choice and the lines that a grant reads, the end of an entry, the end of an epilogue, and the
bound on the sum of units that move. -/
theorem enginesComputeUnderTheGrant : Obligations.EnginesComputeUnderTheGrant :=
  ⟨enginesGrantReadyEntries, passesCompute, epiloguesWriteTheirRows, slewStepsBoundTheGrant⟩

end Sys2Proof.Machine
end

section
/-! SUPPORT. Branches (R106) and redundancy mode (R116). -/

namespace Sys2Proof.Machine

/-! ### Changes of one path in a row -/

section Twice

variable {q q2 : Path → Path}

theorem Group.updPath_updPath (g : Group) (hq : ∀ x, (q x).pid = x.pid) (k : Nat) :
    (g.updPath k q).updPath k q2 = g.updPath k (q2 ∘ q) := by
  simp only [Group.updPath, List.map_map]
  congr 2
  funext x
  simp only [Function.comp]
  by_cases hx : x.pid = k <;> simp [hx, hq]

theorem Team.updParty_updParty (t : Team) {f f2 : Group → Group} (hf : ∀ g, (f g).who = g.who) (who : Who) :
    (t.updParty who f).updParty who f2 = t.updParty who (f2 ∘ f) := by
  cases who with
  | bobbin => simp only [Team.updParty, Option.map_map]
  | group n =>
    simp only [Team.updParty, List.map_map]
    congr 2
    funext g
    simp only [Function.comp]
    by_cases hg : g.who = .group n <;> simp [hg, hf]

theorem Ctl.updTeam_updTeam (c : Ctl) {f f2 : Team → Team} (hf : ∀ t, (f t).uid = t.uid) (uid : Nat) :
    (c.updTeam uid f).updTeam uid f2 = c.updTeam uid (f2 ∘ f) := by
  simp only [Ctl.updTeam, List.map_map]
  congr 2
  funext t
  simp only [Function.comp]
  by_cases ht : t.uid = uid <;> simp [ht, hf]

theorem Team.uid_updParty (t : Team) (who : Who) (f : Group → Group) : (t.updParty who f).uid = t.uid := by
  cases who <;> rfl

/-- A change of a party moves no team. -/
theorem Team.place_updParty (t : Team) (who w : Who) (f : Group → Group) :
    (t.updParty who f).die = t.die ∧ (t.updParty who f).coreOf w = t.coreOf w := by
  cases who <;> exact ⟨rfl, rfl⟩

/-- A path that has been changed before it leaves its place leaves it with both changes. -/
theorem Ctl.leave_updPath {c : Ctl} {p : PathId} (h : c.stands p = true) (hq : ∀ x, (q x).pid = x.pid) :
    (c.updTeam p.team (fun t => t.updParty p.who (fun g => g.updPath p.pid q))).leave p q2 = c.leave p (q2 ∘ q) := by
  have hs := Ctl.shows_of_stands h
  obtain ⟨hd, hc⟩ := (c.team p.team).place_updParty p.who p.who (fun g => g.updPath p.pid q)
  have hf : ((fun t : Team => t.updParty p.who (fun g => { g.updPath p.pid q2 with lastPid := p.pid })) ∘
      fun t : Team => t.updParty p.who (fun g => g.updPath p.pid q)) =
      fun t : Team => t.updParty p.who (fun g => { g.updPath p.pid (q2 ∘ q) with lastPid := p.pid }) := by
    funext t
    refine (t.updParty_updParty (f := fun g => g.updPath p.pid q) (fun _ => rfl) p.who).trans (congrArg (t.updParty p.who) (funext fun g => ?_))
    exact congrArg (fun x : Group => { x with lastPid := p.pid }) (g.updPath_updPath hq p.pid)
  rw [Ctl.leave, Ctl.leave, Ctl.updTeam_updTeam c (fun t => t.uid_updParty _ _), hf]
  simp only [(hs.updPath hq).team_eq, hd, hc]

end Twice

/-! ### Branches (R106) -/

section Branch

variable {f : Fields} {cur : Cur} {s : State}

theorem exec_nop (h : Executes (.nop f) f cur s) :
    exec (.nop f) s = .next { s with ctl := s.ctl.leave cur.p (fun p => { p with pc := nextPc cur.pc cur.len }) } :=
  issue_of_executes h _

/-- The condition of a branch. -/
abbrev Env.taken (e : Env) : Prop :=
  mfld e.f 5 4 = 0 ∨ (mfld e.f 5 4 = 1 ∧ e.opnd e.f.sa.toNat 0 false 0 ≠ 0) ∨ (mfld e.f 5 4 = 2 ∧ e.opnd e.f.sa.toNat 0 false 0 = 0)

theorem exec_bra (h : Executes (.bra f) f cur s) : exec (.bra f) s = runM (do
      let r ← (if (envOf s cur f).taken then do
          (envOf s cur f).go ((envOf s cur f).target 32 f.imm32.toNat)
          return .jump
        else return .done)
      finish (.bra f) (envOf s cur f) r) s := issue_of_executes h _

theorem exec_bra_taken (h : Executes (.bra f) f cur s) (ht : (envOf s cur f).taken) :
    exec (.bra f) s = .next { s with ctl := s.ctl.leave cur.p (fun p =>
      { p with pc := cur.pc + wd (wrapInt 64 (sextNat 32 f.imm32.toNat)), chain := none, lat := [], stalled := false,
               age := none }) } := by
  rw [exec_bra h, if_pos ht]
  refine congrArg (fun c => Host.Outcome.next { s with ctl := c }) ?_
  exact Ctl.leave_updPath (q2 := Path.jumped) h.stands (fun _ => rfl)

theorem exec_bra_not (h : Executes (.bra f) f cur s) (ht : ¬(envOf s cur f).taken) :
    ∃ t, exec (.bra f) s = .next t ∧ OnlyGoesOn (.bra f) (envOf s cur f) s t := by
  rw [exec_bra h, if_neg ht]
  exact ⟨_, rfl, rfl⟩

/-- A uniform last-only instruction on no lane, which reports nothing before it, only goes on (R8). -/
theorem exec_bra_empty (hc : s.ctl.cur = some cur) (hf : stepFaults (.bra f) (envOf s cur f) = []) (hu : f.u = true)
    (he : (envOf s cur f).ex = 0) : ∃ t, exec (.bra f) s = .next t ∧ OnlyGoesOn (.bra f) (envOf s cur f) s t := by
  have hp : ∀ body, proceed (.bra f) (envOf s cur f) body = pure .done := by
    intro body
    have hr : reportsAt (.bra f) (envOf s cur f).ex (envOf s cur f).g = none := rfl
    have hl : ((envOf s cur f).f.u && (envOf s cur f).ex == 0 && !countsEmpty (.bra f)) = true := by
      rw [he, show (envOf s cur f).f.u = true from hu]
      rfl
    rw [proceed, hr, ite_self]
    exact if_pos hl
  refine ⟨_, ?_, rfl⟩
  show execBra f s = _
  rw [execBra, issue, hc]
  refine (runM_congr (n := finish (.bra f) (envOf s cur f) .done) ?_).trans rfl
  rw [issueM, bind_run, getS_run]
  simp only [hf, hp]
  rfl

end Branch

/-- Settles O17: where a branch goes by `exec_bra_taken`, `exec_bra_not` and `exec_bra_empty`. -/
theorem branchesMoveThePc : Obligations.BranchesMoveThePc := by
  intro f cur s
  exact ⟨exec_nop, fun h => ⟨exec_bra_taken h, exec_bra_not h⟩, fun hc _ hf hu he => exec_bra_empty hc hf hu he⟩

/-! ### Redundancy mode (R116) -/

/-- Of the group registers: whether they are in canonical form, and DMR of one party's `gst`. -/
def State.dmr (uid n : Nat) (s : State) : Bool × Bool := (s.csr.wf, (s.csrOf uid n 0).getLsbD 8)

/-- In canonical form the group registers keep DMR of a party through a part of a meaning. -/
def KeepsDmr {α : Type} (uid n : Nat) (m : M α) : Prop := ∀ r, r.st.csr.wf = true → KeepsAt (State.dmr uid n) m r

section Dmr

variable {α β : Type} {uid n : Nat}

theorem KeepsDmr.bind {m : M α} {f : α → M β} (h : KeepsDmr uid n m) (hf : ∀ a, KeepsDmr uid n (f a)) : KeepsDmr uid n (m >>= f) :=
  fun r hr => (h r hr).bind (hf _ _ ((congrArg Prod.fst (h r hr).1).trans hr))

theorem KeepsAt.dmr {m : M α} {r : Run} (h : KeepsAt State.csr m r) : KeepsAt (State.dmr uid n) m r :=
  ⟨by rw [State.dmr, State.dmr, State.csrOf, State.csrOf, h.1], h.2⟩

theorem KeepsDmr.of_csr {m : M α} (h : Keeps State.csr m) : KeepsDmr uid n m := fun r _ => (h r).dmr

theorem KeepsDmr.ctlOnly {m : M α} (h : CtlOnly m) : KeepsDmr uid n m :=
  .of_csr fun r => ⟨(sameStores_of_stores (h r).1).2.2.2.2.2.2, (h r).2⟩

theorem KeepsDmr.quiet {m : M α} (h : Quiet m) : KeepsDmr uid n m :=
  .of_csr fun r => ⟨(sameRegs_of_regsTeams (h r).1).2.2.2.2.2, (h r).2⟩

theorem KeepsDmr.pure (a : α) : KeepsDmr uid n (Pure.pure a : M α) := fun _ _ => .pure a

theorem KeepsDmr.getS {f : State → M α} (h : ∀ s, KeepsDmr uid n (f s)) : KeepsDmr uid n (Machine.getS >>= f) :=
  fun r hr => .getS (h _ r hr)

theorem KeepsDmr.getC {f : Ctl → M α} (h : ∀ c, KeepsDmr uid n (f c)) : KeepsDmr uid n (Machine.getC >>= f) :=
  fun r hr => .getC (h _ r hr)

theorem KeepsDmr.ite {c : Prop} [Decidable c] {m m' : M α} (h : KeepsDmr uid n m) (h' : KeepsDmr uid n m') :
    KeepsDmr uid n (if c then m else m') := fun r hr => .ite (h r hr) (h' r hr)

/-- Setting PL of any party's `gst` leaves DMR alone. -/
theorem keepsDmr_orGst (uid' n' : Nat) : KeepsDmr uid n (orGst uid' n' 0x1000) := by
  intro r hr
  refine .getS (.emits ?_)
  have hk : csrKey uid' n' 0 % 8 = 0 := by unfold csrKey; omega
  have h0 : (csrLayout 0).getLsbD 8 = true := by decide
  have h1 : (wd 0x1000).getLsbD 8 = false := by decide
  have hx : (applyAll r.st (updGst r.st uid' n' 0x1000)).csr =
      r.st.csr.set (csrKey uid' n' 0) ((r.st.csrOf uid' n' 0 ||| wd 0x1000) &&& csrLayout 0) := by
    rw [updGst, if_neg (by decide), applyAll_cons, applyAll_nil, applyUpd_csr_csr, hk]
  rw [State.dmr, State.dmr, State.csrOf, hx]
  refine Prod.ext ((Sparse.wf_set _ _ _ hr).trans hr.symm) ?_
  dsimp only
  by_cases hu : csrKey uid n 0 = csrKey uid' n' 0
  · rw [hu, Sparse.get_set_self _ _ _ hr, BitVec.getLsbD_and, BitVec.getLsbD_or, h0, h1, Bool.or_false, Bool.and_true, State.csrOf,
      State.csrOf, hu]
  · rw [Sparse.get_set_ne _ _ _ _ hu]
    rfl

theorem ctlOnly_modGroup (uid : Nat) (who : Who) (f : Group → Group) : CtlOnly (modGroup uid who f) := ctlOnly_modC _

theorem ctlOnly_modRecruit (id : Nat) (f : Recruit → Recruit) : CtlOnly (modRecruit id f) := ctlOnly_modC _

theorem ctlOnly_getGroup (uid : Nat) (who : Who) : CtlOnly (getGroup uid who) := .getC fun _ => .pure _

theorem ctlOnly_freshId : CtlOnly freshId := .getC fun _ => .bind (fun _ => .setC rfl) fun _ => .pure _

theorem ctlOnly_dropReport (p : PathId) (q : TrapReq) : CtlOnly (dropReport p q) :=
  .bind (.onlyIf (ctlOnly_modGroup _ _ _)) fun _ => .onlyIf (ctlOnly_modC _)

theorem ctlOnly_frameEntries (p : PathId) (t : Team) (kslot : Nat) (l : Loc) (va : Nat) (ws : List Word) :
    CtlOnly (frameEntries p t kslot l va ws) :=
  .bind ctlOnly_freshId fun _ => .forEach fun _ => .bind ctlOnly_freshId fun _ => .getC fun _ => ctlOnly_modC _

theorem keepsDmr_takeTrap (p : PathId) (cur : Cur) (q : TrapReq) : KeepsDmr uid n (takeTrap p cur q) := by
  refine .getS fun s => .bind (.ctlOnly (ctlOnly_demote _ _ _)) fun _ => .ite ?_ (.bind (.quiet (quiet_frameReach _ _ _)) fun x => ?_)
  · exact .ctlOnly (.bind (ctlOnly_dropReport _ _) fun _ => ctlOnly_hostService _ _ _ _ _)
  · cases x with
    | wait => exact .ctlOnly (ctlOnly_trapWaits p cur)
    | fault c b => exact .ctlOnly (.bind (ctlOnly_dropReport _ _) fun _ => ctlOnly_hostService _ _ _ _ _)
    | ok l =>
      refine .bind (.ctlOnly (ctlOnly_dropReport _ _)) fun _ => .bind (.ctlOnly (ctlOnly_getGroup _ _)) fun g => ?_
      exact .bind (.ctlOnly (ctlOnly_frameEntries _ _ _ _ _ _)) fun _ => .bind (.ctlOnly (ctlOnly_modPath _ _)) fun _ =>
        .bind (.ctlOnly (ctlOnly_modGroup _ _ _)) fun _ => keepsDmr_orGst _ _

theorem ctlOnly_endPath (uid : Nat) (who : Who) (pid : Nat) : CtlOnly (endPath uid who pid) := ctlOnly_modC _

theorem keepsDmr_helperTrap (p : PathId) (cur : Cur) (q : TrapReq) (x : Recruit) : KeepsDmr uid n (helperTrap p cur q x) := by
  refine .getC fun c => .bind (.ctlOnly (ctlOnly_modRecruit _ _)) fun _ => .bind (.ctlOnly (ctlOnly_modPath _ _)) fun _ =>
    .ite ?_ (.ite (.ctlOnly (ctlOnly_endPath _ _ _)) (.ctlOnly (ctlOnly_modPath _ _)))
  exact .bind (.ctlOnly (ctlOnly_modRecruit _ _)) fun _ => .bind (.ctlOnly (ctlOnly_modPath _ _)) fun _ => keepsDmr_takeTrap _ _ _

theorem keepsDmr_raiseOn (p : PathId) (cur : Cur) (q : TrapReq) : KeepsDmr uid n (raiseOn p cur q) := by
  refine .bind (.ctlOnly (.onlyIf (ctlOnly_modC _))) fun _ => .getC fun c => ?_
  dsimp only
  split
  · exact keepsDmr_takeTrap _ _ _
  · split
    · exact keepsDmr_helperTrap _ _ _ _
    · exact keepsDmr_takeTrap _ _ _

theorem keepsDmr_raise (p : PathId) (cur : Cur) (q : TrapReq) : KeepsDmr uid n (raise p cur q) := by
  refine .bind (.ctlOnly (ctlOnly_getGroup _ _)) fun g => ?_
  dsimp only
  split
  · exact .bind (.ctlOnly (ctlOnly_modPath _ _)) fun _ => keepsDmr_raiseOn _ _ _
  · exact keepsDmr_raiseOn _ _ _

end Dmr

section Setdmr

variable {f : Fields} {cur : Cur} {s : State}

/-- What `setdmr` makes of a `gst` without reserved bits has none. -/
theorem dmr_layout {x : Word} (h : x &&& csrLayout 0 = x) (b : Bool) :
    ((x &&& ~~~(0x100 : Word)) ||| (if b then 0x100 else 0)) &&& csrLayout 0 = (x &&& ~~~(0x100 : Word)) ||| (if b then 0x100 else 0) := by
  have hb : (if b then (0x100 : Word) else 0) &&& csrLayout 0 = if b then 0x100 else 0 := by cases b <;> decide
  rw [and_or_right, BitVec.and_assoc, BitVec.and_comm (~~~_), ← BitVec.and_assoc, h, hb]

theorem csrOf_gst_layout {s : State} (h : s.csrWf) (uid n : Nat) : s.csrOf uid n 0 &&& csrLayout 0 = s.csrOf uid n 0 := by
  have hk := h (csrKey uid n 0)
  rw [show csrKey uid n 0 % 8 = 0 by unfold csrKey; omega] at hk
  exact and_of_and_not hk

/-- `setdmr` outside a recruitment and outside helper code. -/
theorem exec_setdmr_writes (h : Executes (.setdmr f) f cur s) (hw : s.wf) (hh : (envOf s cur f).hst = 0) :
    let e := envOf s cur f
    ∃ t, exec (.setdmr f) s = .next t ∧ GoesOn cur s t ∧ SameBytes s t ∧ t.v = s.v ∧ t.vi = s.vi ∧ t.a = s.a ∧ t.w = s.w ∧
      t.k = s.k ∧
      t.csrOf e.uid e.home 0 = (s.csrOf e.uid e.home 0 &&& ~~~(0x100 : Word)) ||| (if f.sc.getLsbD 0 then 0x100 else 0) ∧
      ∀ key, key ≠ csrKey e.uid e.home 0 → t.csr.get key = s.csr.get key := by
  intro e
  have hb : exec (.setdmr f) s = issue (.setdmr f) f (fun e => do
      emit (.csr (csrKey e.uid e.home 0)
        ((e.s.csrOf e.uid e.home 0 &&& ~~~(0x100 : Word)) ||| (if f.sc.getLsbD 0 then 0x100 else 0)))
      return .done) s := by
    refine issue_congr h ?_
    rw [if_neg (not_not.2 hh)]
  refine ⟨_, exec_completes h hb rfl rfl rfl, goesOn_of_leave (f := f) h.stands rfl, ⟨rfl, rfl, rfl, rfl, rfl⟩, rfl, rfl, rfl, rfl, rfl,
    ?_, fun key hk => Sparse.get_set_ne _ _ _ _ hk⟩
  exact (csrOf_set (s := s) (by decide) hw.2.1.2.2.2.2.2 rfl).trans (dmr_layout (csrOf_gst_layout hw.2.2 _ _) _)

/-- `setdmr` in a recruitment or in helper code takes its trap. -/
theorem exec_setdmr_traps (h : Executes (.setdmr f) f cur s) (hh : (envOf s cur f).hst ≠ 0) : exec (.setdmr f) s =
    runM (finish (.setdmr f) (envOf s cur f) (.trap (mkTrap 10 3 (envOf s cur f).p.act))) s := by
  refine (issue_of_executes h _).trans (runM_congr ?_)
  rw [if_pos hh]
  rfl

/-- An instruction that traps leaves DMR as it is. -/
theorem trap_keeps_dmr {i : Instr} {e : Env} {q : TrapReq} (hw : s.wf) (uid n : Nat) : ∃ t,
    runM (finish i e (.trap q)) s = .next t ∧ (t.csrOf uid n 0).getLsbD 8 = (s.csrOf uid n 0).getLsbD 8 := by
  have hk : KeepsDmr uid n (finish i e (.trap q)) := .bind (keepsDmr_raise _ _ _) fun _ => .ctlOnly (ctlOnly_modC _)
  obtain ⟨hv, ht⟩ := hk { st := s, log := [] } hw.2.1.2.2.2.2.2
  exact ⟨_, runM_of_tied (ht s rfl), congrArg Prod.snd hv⟩

end Setdmr

/-- Settles O16: its write by `exec_setdmr_writes`; a trap keeps DMR by `keepsDmr_raise`. -/
theorem setdmrWritesDmr : Obligations.SetdmrWritesDmr := by
  intro f cur s h hw e
  refine ⟨exec_setdmr_writes h hw, fun hh => ⟨exec_setdmr_traps h hh, ?_⟩⟩
  rw [exec_setdmr_traps h hh]
  exact trap_keeps_dmr hw _ _

end Sys2Proof.Machine
end

section
/-! SUPPORT. Replies (R175, R188): a gather of which one lane has met a fault is never counted, so the last of its other lanes' replies
lands without counting. The statement on replies asks for the count of every last reply that brings a value. -/

namespace Sys2Proof.Machine

/-- The reply of lane 1 of a gather into v3 whose lane 0 has met a fault; it counts into counter 1 of group 0. -/
def poisonedReply : Reply :=
  { id := 9, kind := .gather, ins := 8, team := 0, who := .group 0, pid := 0, home := 0, lane := 1,
    sink := .reg { vp := 0, wp := 0, pl := 0, code := 3, lane := 1, w := 32, sgn := false } false, data := 1, cnt := some (aKey 0 0 1),
    poisoned := true, flags := 0, addr := 0, fault := none, acq := false, hl := none, born := 0, way := none }

/-- The machine in which it is the last that is on its way. -/
def poisonedGather : State :=
  { State.reset with ctl := { State.reset.ctl with teams := [placeTeam], replies := [poisonedReply] } }

theorem poisonedGather_wf : poisonedGather.wf :=
  ⟨⟨rfl, rfl, rfl, rfl, rfl⟩, ⟨rfl, rfl, rfl, rfl, rfl, rfl⟩, fun _ => BitVec.zero_and⟩

/-- What an answer's state shows of the counter. -/
def counterAfter : Host.Outcome State Fault Refusal → Option (BitVec 32)
  | .next t => some (t.a.get (aKey 0 0 1))
  | _ => none

theorem counterAfter_poisonedReply : counterAfter (exec (.gatherReply 9) poisonedGather) = some 0 := by decide

/-- Refutes O31: in `poisonedGather` the reply lands and nothing of its gather stays on its way, but the counter stays 0, as R188 has
it for a gather that has met a fault; the statement, which does not ask whether one of its lanes has, wants 1. -/
theorem not_repliesLand : ¬ Obligations.RepliesLand := by
  intro h
  obtain ⟨t, ht, -, -, -, -, -, hcount, -⟩ := h (.gatherReply 9) poisonedGather poisonedReply poisonedGather_wf (.inl ⟨rfl, rfl⟩)
    (by decide)
  have hone : t.a.get (aKey 0 0 1) = 1 := hcount rfl rfl _ rfl (by decide) (by decide) (by decide)
  have hzero := counterAfter_poisonedReply
  rw [ht, counterAfter, hone] at hzero
  exact absurd hzero (by decide)

end Sys2Proof.Machine
end

section
/-! SUPPORT. Paths that end and start (R98, R102, R103): what a party shows after each of the operations of its two stacks, and how
its stack settles. -/

namespace Sys2Proof.Machine

/-! ### Operations on paths leave the stores alone -/

/-- Of each recruitment its number and the lane of helper 0. -/
def Ctl.helperPlaces (c : Ctl) : List (Nat × Nat) := c.recruits.map (fun x => (x.id, x.lane))

/-- Every store, and the places of the recruitments' helper 0. -/
def State.storesHelpers (s : State) : State × List (Nat × Nat) := (s.stores, s.ctl.helperPlaces)

/-- A part of a meaning moves paths: it changes no store, and no recruitment's number or lane. -/
abbrev MovesPaths {α : Type} (m : M α) : Prop := Keeps State.storesHelpers m

theorem MovesPaths.modC {f : Ctl → Ctl} (h : ∀ c, (f c).recruits = c.recruits) : MovesPaths (modC f) :=
  Keeps.modC fun s => by simp only [State.storesHelpers, Ctl.helperPlaces, h]; rfl

theorem movesPaths_modGroup (uid : Nat) (who : Who) (f : Group → Group) : MovesPaths (modGroup uid who f) := .modC fun _ => rfl

theorem movesPaths_modPath (p : PathId) (f : Path → Path) : MovesPaths (modPath p f) := .modC fun _ => rfl

theorem movesPaths_dropWaiter (w : Waiter) : MovesPaths (dropWaiter w) := .modC fun _ => rfl

theorem movesPaths_endParks (uid : Nat) (ks : List Park) : MovesPaths (endParks uid ks) :=
  .getC fun _ => .forEach fun _ => .modC fun _ => rfl

theorem movesPaths_modRecruit (id : Nat) {f : Recruit → Recruit} (h : ∀ x, (f x).id = x.id ∧ (f x).lane = x.lane) :
    MovesPaths (modRecruit id f) := by
  refine Keeps.modC fun s => Prod.ext rfl ?_
  show (s.ctl.recruits.map _).map _ = _
  rw [List.map_map]
  refine List.map_congr_left fun x _ => ?_
  simp only [Function.comp]
  split
  · rw [(h x).1, (h x).2]
  · rfl

theorem movesPaths_endPath (uid : Nat) (who : Who) (pid : Nat) : MovesPaths (endPath uid who pid) := movesPaths_modGroup _ _ _

theorem movesPaths_getGroup (uid : Nat) (who : Who) : MovesPaths (getGroup uid who) := .getC fun _ => .pure _

theorem movesPaths_demote (uid : Nat) (who : Who) (pid : Nat) : MovesPaths (demote uid who pid) := by
  refine .bind (movesPaths_getGroup _ _) fun g => ?_
  split
  · exact .pure _
  · next o _ =>
    refine .bind (movesPaths_dropWaiter _) fun _ => .bind (movesPaths_endParks _ _) fun _ => .bind (movesPaths_modGroup _ _ _) fun _ => ?_
    cases o.helper with
    | none => exact .pure _
    | some id => exact movesPaths_modRecruit _ fun _ => ⟨rfl, rfl⟩

theorem movesPaths_releaseLanes (uid n : Nat) (x : Recruit) (hs : List HelperLane) : MovesPaths (releaseLanes uid n x hs) :=
  .bind (movesPaths_getGroup _ _) fun _ => .bind (movesPaths_endParks _ _) fun _ =>
    .bind (movesPaths_modRecruit _ fun _ => ⟨rfl, rfl⟩) fun _ => .bind (.forEach fun _ => movesPaths_dropWaiter _) fun _ =>
      movesPaths_modGroup _ _ _

theorem movesPaths_reclaimLanes (uid : Nat) (who : Who) (act : Word) : MovesPaths (reclaimLanes uid who act) := by
  refine .getC fun c => ?_
  split
  · exact .onlyIf (movesPaths_releaseLanes _ _ _ _)
  · exact .pure _

theorem movesPaths_startPath (uid : Nat) (who : Who) (pc act fmt : Word) (like : Option Path) :
    MovesPaths (startPath uid who pc act fmt like) := by
  refine .bind (movesPaths_reclaimLanes _ _ _) fun _ => .getC fun c => .bind (movesPaths_getGroup _ _) fun g =>
    .bind (movesPaths_modGroup _ _ _) fun _ => ?_
  split
  · exact movesPaths_modRecruit _ fun _ => ⟨rfl, rfl⟩
  · exact .pure _

theorem movesPaths_takeUp (uid : Nat) (who : Who) (k : Option Park) (head : Word) : MovesPaths (takeUp uid who k head) := by
  cases k with
  | none => exact .pure _
  | some k => exact movesPaths_modGroup _ _ _

theorem MovesPaths.helperPlaces {α : Type} {m : M α} (h : MovesPaths m) (r : Run) :
    (m r).2.st.ctl.helperPlaces = r.st.ctl.helperPlaces := congrArg Prod.snd (h r).1

theorem MovesPaths.sameStores {α : Type} {m : M α} (h : MovesPaths m) (r : Run) : SameStores r.st (m r).2.st :=
  sameStores_of_stores (congrArg Prod.fst (h r).1)

/-! ### A party of a team -/

/-- The teams hold the party g. -/
def Ctl.Party (c : Ctl) (uid : Nat) (who : Who) (g : Group) : Prop :=
  ∃ t, c.teams.find? (fun t => t.uid == uid) = some t ∧ t.party? who = some g ∧ g.who = who

section Party

variable {c d : Ctl} {r : Run} {uid : Nat} {who : Who} {p : PathId} {g : Group}

theorem Ctl.Shows.holds {t : Team} (h : c.Shows p t g) : c.Party p.team p.who g := ⟨t, h.team, h.party, h.who⟩

theorem Ctl.Party.party_eq (h : c.Party uid who g) : (c.team uid).party who = g := by
  obtain ⟨t, ht, hg, -⟩ := h
  rw [Ctl.team, ht, Option.getD_some, Team.party_eq, hg, Option.getD_some]

theorem Ctl.Party.congr (h : c.Party uid who g) (hd : d.teams = c.teams) : d.Party uid who g := by
  obtain ⟨t, ht, hg⟩ := h
  exact ⟨t, hd ▸ ht, hg⟩

theorem Quiet.party {α : Type} {m : M α} (hm : Quiet m) (h : r.st.ctl.Party uid who g) : (m r).2.st.ctl.Party uid who g :=
  h.congr (congrArg Prod.snd (hm r).1)

theorem Ctl.Party.updParty (h : c.Party uid who g) {f : Group → Group} (hw : ∀ g, (f g).who = g.who) :
    (c.updTeam uid (fun t => t.updParty who f)).Party uid who (f g) := by
  obtain ⟨t, ht, hg, hwho⟩ := h
  exact ⟨t.updParty who f, find?_map_ite ht (fun t => by cases who <;> rfl), Team.party?_updParty hg hw, (hw g).trans hwho⟩

/-- The bobbin stays as it is where a group changes. -/
theorem Ctl.Party.updGroup (h : c.Party uid .bobbin g) (n : Nat) (f : Group → Group) :
    (c.updTeam uid (fun t => t.updParty (.group n) f)).Party uid .bobbin g := by
  obtain ⟨t, ht, hg, hwho⟩ := h
  exact ⟨t.updParty (.group n) f, find?_map_ite ht (fun _ => rfl), hg, hwho⟩

theorem modGroup_party (h : r.st.ctl.Party uid who g) {f : Group → Group} (hw : ∀ g, (f g).who = g.who) :
    (modGroup uid who f r).2.st.ctl.Party uid who (f g) := h.updParty hw

theorem getGroup_party (h : r.st.ctl.Party uid who g) : getGroup uid who r = (g, r) := by rw [getGroup_run, h.party_eq]

theorem Ctl.Party.left (h : c.Party p.team p.who g) {q : Path → Path} : (c.leave p q).Party p.team p.who (g.left p q) :=
  (h.updParty (f := fun g => g.left p q) (fun _ => rfl)).congr rfl

theorem Ctl.Party.groupOf {s : State} (h : s.ctl.Party p.team p.who g) : s.groupOf p = g := h.party_eq

end Party

/-! ### Lanes that a party's own recruitment gives back (R278) -/

/-- A path after the release of helper lanes. -/
def Path.release (p : Path) (x : Recruit) (hs : List HelperLane) : Path :=
  let m := maskOf ((hs.filter (fun h => h.pid == p.pid)).map (·.lane))
  if p.helper == some x.id && m != 0 then
    { p with act := p.act &&& ~~~m, pc := p.headPc, stalled := false,
             chain := if p.park.isSome || p.stalled then none else p.chain, park := none }
  else p

/-- A party after the release of helper lanes. -/
def Group.release (g : Group) (x : Recruit) (hs : List HelperLane) : Group :=
  { g with paths := (g.paths.map (fun p => p.release x hs)).filter (fun p => p.act != 0) }

/-- A party as another that has lost paths, or lanes of paths, in helper code only. -/
structure Group.Spares (g g' : Group) : Prop where
  eq : g' = { g with paths := g'.paths }
  path : ∀ k x, g.paths.find? (fun q => q.pid == k) = some x → x.helper = none → x.act ≠ 0 →
    g'.paths.find? (fun q => q.pid == k) = some x

theorem Group.Spares.refl (g : Group) : g.Spares g := ⟨rfl, fun _ _ h _ _ => h⟩

theorem Path.release_pid (p : Path) (x : Recruit) (hs : List HelperLane) : (p.release x hs).pid = p.pid := by
  unfold Path.release
  dsimp only
  split <;> rfl

theorem Path.release_of_helper {p : Path} (h : p.helper = none) (x : Recruit) (hs : List HelperLane) : p.release x hs = p := by
  unfold Path.release
  rw [h]
  rfl

theorem Group.spares_release (g : Group) (x : Recruit) (hs : List HelperLane) : g.Spares (g.release x hs) := by
  refine ⟨rfl, fun k p hp hh ha => ?_⟩
  obtain ⟨hk, as, bs, hl, has⟩ := List.find?_eq_some_iff_append.1 hp
  have hr := Path.release_of_helper hh x hs
  refine List.find?_eq_some_iff_append.2 ⟨hk, (as.map (fun p => p.release x hs)).filter (fun p => p.act != 0),
    (bs.map (fun p => p.release x hs)).filter (fun p => p.act != 0), ?_, ?_⟩
  · have ha' : (p.act != 0) = true := by simpa using ha
    simp only [Group.release, hl, List.map_append, List.map_cons, hr, List.filter_append, List.filter_cons, ha', if_true]
  · intro q hq
    obtain ⟨q', hq', rfl⟩ := List.mem_map.1 (List.mem_of_mem_filter hq)
    rw [Path.release_pid]
    exact has q' hq'

section Start

variable {r : Run} {uid : Nat} {who : Who} {g : Group}

theorem releaseLanes_party {n : Nat} (h : r.st.ctl.Party uid (.group n) g) (x : Recruit) (hs : List HelperLane) :
    (releaseLanes uid n x hs r).2.st.ctl.Party uid (.group n) (g.release x hs) := by
  unfold releaseLanes
  simp only [bind_run]
  refine modGroup_party (f := fun d => d.release x hs) ?_ (fun _ => rfl)
  exact Quiet.party (.forEach fun _ => quiet_dropWaiter _) ((quiet_modRecruit _ _).party ((quiet_endParks _ _).party h))

/-- The bobbin has no helper lanes to give back. -/
theorem releaseLanes_bobbin (h : r.st.ctl.Party uid .bobbin g) (n : Nat) (x : Recruit) (hs : List HelperLane) :
    (releaseLanes uid n x hs r).2.st.ctl.Party uid .bobbin g := by
  unfold releaseLanes
  simp only [bind_run]
  exact Ctl.Party.updGroup (Quiet.party (.forEach fun _ => quiet_dropWaiter _)
    ((quiet_modRecruit _ _).party ((quiet_endParks _ _).party h))) _ _

theorem reclaimLanes_party (h : r.st.ctl.Party uid who g) (act : Word) :
    ∃ g', (reclaimLanes uid who act r).2.st.ctl.Party uid who g' ∧ g.Spares g' := by
  unfold reclaimLanes
  rw [bind_run, getC_run]
  dsimp only
  cases ((r.st.ctl.team uid).party who).recruit.bind (fun id => r.st.ctl.recruits.find? (fun x => x.id == id && !x.suspended)) with
  | none => exact ⟨g, h, .refl g⟩
  | some x =>
    dsimp only
    rw [onlyIf_run]
    split
    · cases who with
      | group n => exact ⟨_, releaseLanes_party h x _, g.spares_release x _⟩
      | bobbin => exact ⟨g, releaseLanes_bobbin h _ x _, .refl g⟩
    · exact ⟨g, h, .refl g⟩

/-! ### A path starts -/

/-- The party has a path of this number that stands at its start, in these lanes; where they hold helper 0 of the party's
recruitment `rec` (hs: the number and lane of each), in those of them that it still has (R278). -/
def Group.Launched (g : Group) (pid : Nat) (hs : List (Nat × Nat)) (rec : Option Nat) (pc act fmt : Word) : Prop :=
  ∃ q ∈ g.paths, q.pid = pid ∧ q.pc = advPc pc ∧ q.fmt = fmt ∧ q.act &&& ~~~act = 0 ∧
    ((∀ x ∈ hs, some x.1 = rec → act.getLsbD x.2 = false) → q.act = act)

/-- A change of paths that keeps where they stand and in which lanes. -/
theorem Group.Launched.updPath {g : Group} {pid : Nat} {hs : List (Nat × Nat)} {rec : Option Nat} {pc act fmt : Word}
    (h : g.Launched pid hs rec pc act fmt) (k : Nat) {f : Path → Path}
    (hf : ∀ x, (f x).pid = x.pid ∧ (f x).pc = x.pc ∧ (f x).fmt = x.fmt ∧ (f x).act = x.act) :
    (g.updPath k f).Launched pid hs rec pc act fmt := by
  obtain ⟨q, hq, hrest⟩ := h
  refine ⟨_, List.mem_map.2 ⟨q, hq, rfl⟩, ?_⟩
  split
  · obtain ⟨h1, h2, h3, h4⟩ := hf q
    rwa [h1, h2, h3, h4]
  · exact hrest

theorem Recruit.lanesIn_and_not (x : Option Recruit) (who : Who) (act : Word) : Recruit.lanesIn x who act &&& ~~~act = 0 := by
  cases x with
  | none => exact BitVec.and_not_self act
  | some r => rw [Recruit.lanesIn, BitVec.and_comm act, BitVec.and_assoc, BitVec.and_not_self]; exact BitVec.and_zero

theorem Ctl.suspendedIn_eq_none {c : Ctl} {act : Word}
    (h : ∀ x ∈ c.helperPlaces, some x.1 = g.recruit → act.getLsbD x.2 = false) :
    c.suspendedIn g act = none := by
  unfold Ctl.suspendedIn
  split
  · rfl
  · next id hid =>
    refine List.find?_eq_none.2 fun x hx => ?_
    by_cases hxi : x.id = id
    · have := h _ (List.mem_map.2 ⟨x, hx, rfl⟩) (by rw [hid, hxi])
      simp [this]
    · simp [hxi]

/-- A party in which a path has started: its stacks stand, and so does a path that is not in helper code. -/
structure Group.Gains (g g' : Group) (hs : List (Nat × Nat)) (pc act fmt : Word) : Prop where
  recon : g'.recon = g.recon
  ras : g'.ras = g.ras
  next : g'.nextPid = g.nextPid + 1
  launched : g'.Launched g.nextPid hs g.recruit pc act fmt
  path : ∀ k x, g.paths.find? (fun q => q.pid == k) = some x → x.helper = none → x.act ≠ 0 →
    g'.paths.find? (fun q => q.pid == k) = some x

theorem startPath_party (h : r.st.ctl.Party uid who g) (pc act fmt : Word) (like : Option Path) :
    ∃ g', (startPath uid who pc act fmt like r).2.st.ctl.Party uid who g' ∧
      g.Gains g' r.st.ctl.helperPlaces pc act fmt := by
  obtain ⟨g1, h1, heq, hpath⟩ := reclaimLanes_party h act
  have hrec := (movesPaths_reclaimLanes uid who act).helperPlaces r
  have hn : g1.nextPid = g.nextPid := by rw [heq]
  have hr : g1.recruit = g.recruit := by rw [heq]
  have hrecon : g1.recon = g.recon := by rw [heq]
  have hras : g1.ras = g.ras := by rw [heq]
  unfold startPath
  rw [bind_run, ← hrec]
  generalize (reclaimLanes uid who act r).2 = r1 at h1 ⊢
  simp only [bind_run, getC_run, getGroup_party h1]
  refine ⟨_, Quiet.party ?_ (modGroup_party h1 fun _ => rfl), hrecon, hras, congrArg (· + 1) hn, ?_, fun k x hx hh ha => ?_⟩
  · split
    · exact quiet_modRecruit _ _
    · exact .pure _
  · refine ⟨_, List.mem_append_right _ (List.mem_singleton_self _), hn, rfl, rfl, Recruit.lanesIn_and_not _ _ _, fun hx => ?_⟩
    dsimp only
    rw [Ctl.suspendedIn_eq_none (by rwa [hr])]
    rfl
  · dsimp only
    rw [List.find?_append, hpath k x hx hh ha]
    rfl

end Start

/-! ### The stacks (R98, R110) -/

/-- The party with one more entry on its reconvergence stack. -/
def Group.pushEntry (g : Group) (x : REnt) : Group := { g with recon := x :: g.recon }

/-- The party without its top entry. -/
def Group.popEntry (g : Group) : Group := { g with recon := g.recon.tail }

/-- The party with one more return address. -/
def Group.pushCall (g : Group) (x : RAEnt) : Group := { g with ras := x :: g.ras }

/-- The party without its top return address. -/
def Group.popCall (g : Group) : Group := { g with ras := g.ras.tail }

/-- The party whose top entry has no pending arm. -/
def Group.clearPending (g : Group) : Group :=
  { g with recon := match g.recon with
      | e :: r => { e with pmask := 0, ppark := none } :: r
      | [] => [] }

section Stacks

variable {a : Acc} {r : Run} {g : Group}

/-- A push of an entry with a free place. -/
theorem pushRecon_room (h : r.st.ctl.Party a.uid a.who g) (hn : g.recon.length < 16) (n : REnt) : pushRecon a n r =
    (.ok (), (modGroup a.uid a.who (fun g => g.pushEntry n) r).2) := by
  rw [pushRecon, bind_run, getGroup_party h]
  dsimp only
  rw [if_pos hn]
  rfl

theorem pushRas_room (h : r.st.ctl.Party a.uid a.who g) (hn : g.ras.length < 8) (n : RAEnt) : pushRas a n r =
    (.ok (), (modGroup a.uid a.who (fun g => g.pushCall n) r).2) := by
  rw [pushRas, bind_run, getGroup_party h]
  dsimp only
  rw [if_pos hn]
  rfl

/-- A stack of which no record is spilled takes none back. -/
theorem refill_none {ras : Bool} (h : r.st.ctl.Party a.uid a.who g) (hn : lastSpilled ras g.spilled = none) :
    refill a ras r = (.ok (), r) := by
  rw [refill, bind_run, getS_run]
  dsimp only
  rw [h.party_eq, hn]
  rfl

theorem popRecon_none (h : r.st.ctl.Party a.uid a.who g) (hn : lastSpilled false g.spilled = none) : popRecon a r =
    (.ok (), (modGroup a.uid a.who Group.popEntry r).2) := by
  rw [popRecon, bind_run]
  exact refill_none (modGroup_party (f := Group.popEntry) h fun _ => rfl) hn

theorem popRas_none (h : r.st.ctl.Party a.uid a.who g) (hn : lastSpilled true g.spilled = none) : popRas a r =
    (.ok (), (modGroup a.uid a.who Group.popCall r).2) := by
  rw [popRas, bind_run]
  exact refill_none (modGroup_party (f := Group.popCall) h fun _ => rfl) hn

/-! ### Settling (R103) -/

theorem settle_succ (h : r.st.ctl.Party a.uid a.who g) : settle a r = settleN a (g.nr + 1 + 1) r := by
  rw [settle, bind_run, getGroup_party h]

/-- While a path lives the stack is settled. -/
theorem settle_live (h : r.st.ctl.Party a.uid a.who g) (hl : g.live ≠ []) : settle a r = (.ok (), r) := by
  have hl' : (!g.live.isEmpty) = true := by simpa using hl
  rw [settle_succ h, settleN, bind_run, getGroup_party h]
  dsimp only
  rw [if_pos hl']
  rfl

/-- The pending arm of the top entry starts. -/
def startPending (uid : Nat) (who : Who) (x : REnt) : M Unit := do
  modGroup uid who Group.clearPending
  startPath uid who x.ppc x.pmask x.pfmt none
  takeUp uid who x.ppark x.ppc

theorem settle_pending {x : REnt} {rest : List REnt} (h : r.st.ctl.Party a.uid a.who g) (hl : g.live = []) (hr : g.recon = x :: rest)
    (hk : x.kind ≠ .callv) (hp : x.pmask ≠ 0) : settle a r = (.ok (), (startPending a.uid a.who x r).2) := by
  have hk' : ¬(x.kind == .callv) = true := by simpa using hk
  rw [settle_succ h, settleN, bind_run, getGroup_party h]
  dsimp only
  rw [hl, hr]
  dsimp only
  rw [if_neg (by decide), if_pos hp, if_neg hk']
  rfl

/-- The top entry is popped and its lanes go on. -/
def startPopped (uid : Nat) (who : Who) (x : REnt) : M Unit := do
  modGroup uid who Group.popEntry
  startPath uid who (if x.kind == .callv then x.jpc else x.jpc + 8) x.jmask x.fcopy none

theorem settle_popped {x : REnt} {rest : List REnt} (h : r.st.ctl.Party a.uid a.who g) (hl : g.live = []) (hr : g.recon = x :: rest)
    (hp : x.pmask = 0) (hj : x.jmask ≠ 0) (hn : lastSpilled false g.spilled = none) :
    settle a r = (.ok (), (startPopped a.uid a.who x r).2) := by
  rw [settle_succ h, settleN, bind_run, getGroup_party h]
  dsimp only
  rw [hl, hr]
  dsimp only
  rw [if_neg (by decide), if_neg (not_not.2 hp), bind_run, popRecon_none h hn]
  dsimp only
  rw [if_neg hj]
  rfl

end Stacks

/-! ### What the starts leave -/

section Left

variable {r : Run} {uid : Nat} {who : Who} {g : Group} {x : REnt} {rest : List REnt}

theorem startPending_party (h : r.st.ctl.Party uid who g) (hr : g.recon = x :: rest) :
    ∃ g', (startPending uid who x r).2.st.ctl.Party uid who g' ∧ g'.recon = { x with pmask := 0, ppark := none } :: rest ∧
      g'.ras = g.ras ∧
      g'.Launched g.nextPid r.st.ctl.helperPlaces g.recruit x.ppc x.pmask x.pfmt := by
  unfold startPending
  rw [bind_run, bind_run]
  obtain ⟨g1, h1, hg⟩ := startPath_party (modGroup_party (f := Group.clearPending) h fun _ => rfl) x.ppc x.pmask x.pfmt none
  have hrecon : g1.recon = { x with pmask := 0, ppark := none } :: rest := hg.recon.trans (by simp only [Group.clearPending, hr])
  cases hk : x.ppark with
  | none => exact ⟨g1, h1, hrecon, hg.ras, hg.launched⟩
  | some k => exact ⟨_, modGroup_party h1 fun _ => rfl, hrecon, hg.ras, hg.launched.updPath _ fun _ => ⟨rfl, rfl, rfl, rfl⟩⟩

theorem startPopped_party (h : r.st.ctl.Party uid who g) (hr : g.recon = x :: rest) :
    ∃ g', (startPopped uid who x r).2.st.ctl.Party uid who g' ∧ g'.recon = rest ∧ g'.ras = g.ras ∧
      g'.Launched g.nextPid r.st.ctl.helperPlaces g.recruit
        (if x.kind == .callv then x.jpc else x.jpc + 8) x.jmask x.fcopy := by
  unfold startPopped
  rw [bind_run]
  obtain ⟨g1, h1, hg⟩ := startPath_party (modGroup_party (f := Group.popEntry) h fun _ => rfl)
    (if x.kind == .callv then x.jpc else x.jpc + 8) x.jmask x.fcopy none
  exact ⟨g1, h1, hg.recon.trans (congrArg List.tail hr), hg.ras, hg.launched⟩

theorem movesPaths_startPending (uid : Nat) (who : Who) (x : REnt) : MovesPaths (startPending uid who x) :=
  .bind (movesPaths_modGroup _ _ _) fun _ => .bind (movesPaths_startPath _ _ _ _ _ _) fun _ => movesPaths_takeUp _ _ _ _

theorem movesPaths_startPopped (uid : Nat) (who : Who) (x : REnt) : MovesPaths (startPopped uid who x) :=
  .bind (movesPaths_modGroup _ _ _) fun _ => movesPaths_startPath _ _ _ _ _ _

end Left

/-! ### An instruction that moves its path itself -/

section Jumps

variable {i : Instr} {f : Fields} {cur : Cur} {s : State}

/-- An attempt that succeeds and records what it changes: the path leaves its place at the start of a chain. -/
theorem exec_attempt_ok {m : Env → M (Got Unit)} {r1 : Run} (h : Executes i f cur s)
    (hi : exec i s = issue i f (fun e => do
      let x ← attempt (m e)
      return x.res .jump) s)
    (hm : m (envOf s cur f) { st := s, log := [] } = (.ok (), r1)) (ht : r1.Tied s) :
    exec i s = .next { r1.st with ctl := r1.st.ctl.leave cur.p Path.jumped } := by
  rw [hi, issue_of_executes h]
  refine runM_of_run (view := fun _ => ()) (n := modC (fun c => c.leave cur.p Path.jumped)) ?_ ht (records_modC _ r1)
  simp only [bind_run, attempt_ok hm]
  rfl

/-- An attempt that only moves paths once other parts of it have succeeded. -/
theorem exec_jumps_from {m : Env → M (Got Unit)} {n : M Unit} {r1 : Run} {g : Group} (h : Executes i f cur s)
    (hi : exec i s = issue i f (fun e => do
      let x ← attempt (m e)
      return x.res .jump) s)
    (hm : m (envOf s cur f) { st := s, log := [] } = (.ok (), (n r1).2)) (ht : r1.Tied s) (hn : MovesPaths n)
    (hg : (n r1).2.st.ctl.Party (envOf s cur f).uid (envOf s cur f).g.who g) :
    ∃ t, exec i s = .next t ∧ SameStores r1.st t ∧ t.groupOf cur.p = g.left cur.p Path.jumped := by
  refine ⟨_, exec_attempt_ok h hi hm ((hn _).2 s ht), hn.sameStores _, ?_⟩
  rw [envOf_uid h.stands, envOf_who h.stands] at hg
  exact Ctl.Party.groupOf (s := { (n r1).2.st with ctl := _ }) hg.left

/-- An attempt that only moves paths. -/
theorem exec_jumps {m : Env → M (Got Unit)} {n : M Unit} {g : Group} (h : Executes i f cur s)
    (hi : exec i s = issue i f (fun e => do
      let x ← attempt (m e)
      return x.res .jump) s)
    (hm : m (envOf s cur f) { st := s, log := [] } = (.ok (), (n { st := s, log := [] }).2)) (hn : MovesPaths n)
    (hg : (n { st := s, log := [] }).2.st.ctl.Party (envOf s cur f).uid (envOf s cur f).g.who g) :
    ∃ t, exec i s = .next t ∧ SameStores s t ∧ t.groupOf cur.p = g.left cur.p Path.jumped :=
  exec_jumps_from h hi hm rfl hn hg

theorem envOf_party (h : s.ctl.stands cur.p = true) : s.ctl.Party (envOf s cur f).uid (envOf s cur f).g.who (envOf s cur f).g := by
  rw [envOf_uid h, envOf_who h]
  exact (Ctl.shows_of_stands h).holds

theorem demote_party (h : s.ctl.stands cur.p = true) (log : List Upd) :
    (demote (envOf s cur f).uid (envOf s cur f).g.who (envOf s cur f).p.pid { st := s, log := log }).2.st.ctl.Party
      (envOf s cur f).uid (envOf s cur f).g.who ((envOf s cur f).g.demote (envOf s cur f).p.pid) := by
  rw [envOf_uid h, envOf_who h, envOf_pid h]
  obtain ⟨t, ht⟩ := demote_shows (r := { st := s, log := log }) (Ctl.shows_of_stands h)
  exact ht.holds

/-- Demotion leaves the numbers that paths get, the recruitment, the return addresses and the places of spilled records. -/
theorem Group.demote_keeps (g : Group) (pid : Nat) : (g.demote pid).nextPid = g.nextPid ∧ (g.demote pid).recruit = g.recruit ∧
    (g.demote pid).ras = g.ras ∧ (g.demote pid).spilled = g.spilled ∧ (g.demote pid).dsp = g.dsp := by
  rw [Group.demote_eq]
  exact ⟨rfl, rfl, rfl, rfl, rfl⟩

/-- A path of the group that has started stands in the state after its instruction. -/
theorem started_of_launched {t : State} {g : Group} {pc act fmt : Word} (hg : t.groupOf cur.p = g.left cur.p Path.jumped)
    (h : g.Launched (envOf s cur f).g.nextPid s.ctl.helperPlaces (envOf s cur f).g.recruit pc act fmt) :
    Started (envOf s cur f) t pc act fmt := by
  obtain ⟨q, hq, h1, h2, h3, h4, h5⟩ := h.updPath cur.p.pid (f := Path.jumped) fun _ => ⟨rfl, rfl, rfl, rfl⟩
  refine ⟨q, ?_, h1, h2, h3, h4, fun hx => h5 fun x hx' => ?_⟩
  · rw [show t.groupOf (envOf s cur f).cur.p = _ from hg]
    exact hq
  · obtain ⟨y, hy, rfl⟩ := List.mem_map.1 hx'
    exact hx y hy

/-- The party without its path of a number. -/
def Group.without (g : Group) (pid : Nat) : Group := { g with paths := g.paths.filter (fun p => p.pid != pid) }

theorem Group.live_without (g : Group) (pid : Nat) : (g.without pid).live = g.live.filter (fun p => p.pid != pid) := by
  rw [Group.live, Group.live, Group.without, List.filter_filter, List.filter_filter]
  simp only [Bool.and_comm]

theorem Env.alone_iff (e : Env) : e.alone ↔ (e.g.without e.p.pid).live = [] := by
  rw [Group.live_without, List.filter_eq_nil_iff]
  simp

theorem endPath_party {r : Run} {uid : Nat} {who : Who} {g : Group} (h : r.st.ctl.Party uid who g) (pid : Nat) :
    (endPath uid who pid r).2.st.ctl.Party uid who (g.without pid) := modGroup_party h fun _ => rfl

/-- A path that has ended is gone when its instruction has left its place. -/
theorem pathGone_of_without {t : State} {g : Group} (hg : t.groupOf cur.p = (g.without cur.p.pid).left cur.p Path.jumped) :
    PathGone cur t := by
  intro q hq
  rw [hg] at hq
  obtain ⟨q', hq', rfl⟩ := List.mem_map.1 hq
  have hne : q'.pid ≠ cur.p.pid := by simpa using (List.mem_filter.1 hq').2
  rw [if_neg (by simpa using hne)]
  exact hne

end Jumps

end Sys2Proof.Machine
end

section
/-! SUPPORT. Regions: `split`, `join` and `brk` (R99, R107 to R109). -/

namespace Sys2Proof.Machine

section Paths

variable {f : Fields} {cur : Cur} {s : State}

/-- The executing path after a demotion is as it was. -/
theorem find?_demote (h : s.ctl.stands cur.p = true) :
    ((envOf s cur f).g.demote (envOf s cur f).p.pid).paths.find? (fun q => q.pid == (envOf s cur f).p.pid) =
      some (envOf s cur f).p := by
  rw [envOf_pid h]
  obtain ⟨t, ht⟩ := demote_shows (r := { st := s, log := [] }) (Ctl.shows_of_stands h)
  exact (find?_eq_some_getD ht.path default).trans (congrArg some (Group.path_demote _ _))

theorem modPath_party {r : Run} {g : Group} (h : s.ctl.stands cur.p = true)
    (hg : r.st.ctl.Party (envOf s cur f).uid (envOf s cur f).g.who g) (q : Path → Path) :
    (modPath cur.p q r).2.st.ctl.Party (envOf s cur f).uid (envOf s cur f).g.who (g.updPath (envOf s cur f).p.pid q) := by
  rw [envOf_uid h, envOf_who h] at hg ⊢
  rw [envOf_pid h]
  exact modGroup_party hg fun _ => rfl

/-- The executing path as the state after its instruction shows it. -/
theorem pathOf_of_left {t : State} {g : Group} {x : Path} {q : Path → Path} (h : s.ctl.stands cur.p = true)
    (hg : t.groupOf cur.p = g.left cur.p q) (hq : ∀ x, (q x).pid = x.pid)
    (hx : g.paths.find? (fun q => q.pid == (envOf s cur f).p.pid) = some x) : t.pathOf cur.p = q x := by
  rw [envOf_pid h] at hx
  have hp := find?_map_ite (f := q) hx fun x => by rw [hq]
  rw [show t.pathOf cur.p = (t.groupOf cur.p).path cur.p.pid from rfl, hg]
  exact congrArg (Option.getD · default) hp

theorem pathOf_jumped {t : State} {g : Group} {x : Path} (h : s.ctl.stands cur.p = true)
    (hg : t.groupOf cur.p = g.left cur.p Path.jumped)
    (hx : g.paths.find? (fun q => q.pid == (envOf s cur f).p.pid) = some x) : t.pathOf cur.p = x.jumped :=
  pathOf_of_left h hg (fun _ => rfl) hx

theorem find?_envOf (h : s.ctl.stands cur.p = true) :
    (envOf s cur f).g.paths.find? (fun q => q.pid == (envOf s cur f).p.pid) = some (envOf s cur f).p := by
  rw [envOf_pid h]
  exact find?_eq_some_getD (Ctl.shows_of_stands h).path default

/-- What an instruction that goes on leaves as its effect left it. -/
theorem exec_completes_party {i : Instr} {body : Env → M Res} {res : Res} {r1 : Run} {g : Group} (h : Executes i f cur s)
    (hi : exec i s = issue i f body s) (hb : body (envOf s cur f) { st := s, log := [] } = (res, r1)) (ht : r1.Tied s)
    (hf : finish i (envOf s cur f) res = modC (fun c => c.leave cur.p ((envOf s cur f).after i.last none)))
    (hg : r1.st.ctl.Party (envOf s cur f).uid (envOf s cur f).g.who g) :
    ∃ t, exec i s = .next t ∧ SameStores r1.st t ∧ t.ctl.entries = r1.st.ctl.entries ∧ t.ctl.cur = none ∧
      t.groupOf cur.p = g.left cur.p ((envOf s cur f).after i.last none) := by
  refine ⟨_, exec_completes (lat := none) h hi hb ht hf, sameStores_of_stores rfl, rfl, rfl, ?_⟩
  rw [envOf_uid h.stands, envOf_who h.stands] at hg
  exact Ctl.Party.groupOf (s := { r1.st with ctl := _ }) hg.left

/-- An instruction that only moves paths and goes on to the next one. -/
theorem exec_passes {i : Instr} {n : Env → M Unit} {g : Group} (h : Executes i f cur s)
    (hi : exec i s = issue i f (fun e => do
      n e
      return .done) s)
    (hf : finish i (envOf s cur f) .done = modC (fun c => c.leave cur.p ((envOf s cur f).after i.last none)))
    (hn : MovesPaths (n (envOf s cur f)))
    (hg : (n (envOf s cur f) { st := s, log := [] }).2.st.ctl.Party (envOf s cur f).uid (envOf s cur f).g.who g) :
    ∃ t, exec i s = .next t ∧ SameStores s t ∧ t.groupOf cur.p = g.left cur.p ((envOf s cur f).after i.last none) := by
  obtain ⟨t, ht, hst, -, -, hgt⟩ := exec_completes_party h hi (bind_run _ _ _) ((hn _).2 s rfl) hf hg
  exact ⟨t, ht, (hn.sameStores _).trans hst, hgt⟩

end Paths

theorem Group.hasDual_demote (g : Group) (pid : Nat) : (g.demote pid).hasDual = g.hasDual := by
  unfold Group.demote
  cases g.live.find? (fun q => q.pid != pid) with
  | none => rfl
  | some o =>
    unfold Group.hasDual Group.putAside
    cases g.recon <;> rfl

/-- An instruction that runs in no helper code is not in any (R275). -/
theorem Executes.helper_none {i : Instr} {f : Fields} {cur : Cur} {s : State} {b : Nat} (h : Executes i f cur s)
    (hb : (formOf i).helper = some b) : (envOf s cur f).p.helper = none := by
  have hh := h.helper
  unfold helperFault at hh
  rw [hb] at hh
  simpa using hh

/-! ### `split` (R107) -/

/-- The lanes of the taken arm. -/
def Env.armTaken (e : Env) : Word := e.p.act &&& e.k (e.f.sa.toNat - 352)

/-- The lanes of the other arm. -/
def Env.armElse (e : Env) : Word := e.p.act &&& ~~~e.armTaken

/-- Where the other arm starts. -/
def Env.elsePc (e : Env) : Word := advPc (e.target 32 (wfld e.f.ext64 31 0))

/-- Both arms have lanes, and the stack holds a DUAL entry or not. -/
abbrev Env.bothArms (e : Env) (dual : Bool) : Prop := e.armElse ≠ 0 ∧ e.armTaken ≠ 0 ∧ dual = true

/-- The entry that a `split` pushes where the stack holds a DUAL entry or not. -/
def Env.splitEntry (e : Env) (dual : Bool) : REnt :=
  { jpc := advPc (e.target 32 (wfld e.f.ext64 63 32)), jmask := e.p.act, arr := 0, ppc := if e.bothArms dual then e.elsePc else 0,
    pmask := if e.bothArms dual then e.armElse else 0, pfmt := if e.bothArms dual then e.p.fmt else 0, fcopy := e.p.fmt,
    kind := if e.bothArms (!dual) then .dual else .ser, ppark := none }

/-- The executing path as the arm that goes on. -/
def Env.armPath (e : Env) (x : Path) : Path :=
  { x with pc := if e.armTaken = 0 then e.elsePc else e.cur.npc, act := if e.armTaken = 0 then e.armElse else e.armTaken }

/-- What a `split` with a free place does. -/
def Env.divide (e : Env) : M Unit := do
  demote e.uid e.g.who e.p.pid
  modGroup e.uid e.g.who (fun g => g.pushEntry (e.splitEntry e.g.hasDual))
  modPath e.cur.p e.armPath
  onlyIf (decide (e.bothArms (!e.g.hasDual))) (startPath e.uid e.g.who e.elsePc e.armElse e.p.fmt (some e.p))

theorem movesPaths_divide (e : Env) : MovesPaths e.divide :=
  .bind (movesPaths_demote _ _ _) fun _ => .bind (movesPaths_modGroup _ _ _) fun _ => .bind (movesPaths_modPath _ _) fun _ =>
    .onlyIf (movesPaths_startPath _ _ _ _ _ _)

section Split

variable {f : Fields} {cur : Cur} {s : State}

/-- A `split` with a free place only moves paths. -/
theorem exec_split (h : Executes (.split f) f cur s) (hn : (envOf s cur f).g.recon.length < 16) {g : Group}
    (hg : ((envOf s cur f).divide { st := s, log := [] }).2.st.ctl.Party (envOf s cur f).uid (envOf s cur f).g.who g) :
    ∃ t, exec (.split f) s = .next t ∧ SameStores s t ∧ t.groupOf cur.p = g.left cur.p Path.jumped := by
  refine exec_jumps h rfl ?_ (movesPaths_divide _) hg
  have hd := demote_party (f := f) h.stands []
  have hl : ((envOf s cur f).g.demote (envOf s cur f).p.pid).recon.length < 16 := by rwa [Group.length_recon_demote]
  rw [bind_run, bind_run, getGroup_party hd]
  dsimp only
  rw [Group.hasDual_demote, bind_run, pushRecon_room (a := (envOf s cur f).acc) hd hl]
  rfl

theorem divide_party (h : s.ctl.stands cur.p = true) (hh : (envOf s cur f).p.helper = none) : let e := envOf s cur f
    ∃ g, (e.divide { st := s, log := [] }).2.st.ctl.Party e.uid e.g.who g ∧
      g.recon = e.splitEntry e.g.hasDual :: e.g.demoted e.p.pid ∧
      g.paths.find? (fun q => q.pid == e.p.pid) = some (e.armPath e.p) ∧
      (e.bothArms (!e.g.hasDual) →
        g.Launched e.g.nextPid s.ctl.helperPlaces e.g.recruit e.elsePc e.armElse e.p.fmt) := by
  intro e
  have hd := demote_party (f := f) h []
  have hx := find?_demote (f := f) h
  have hrec := (movesPaths_demote e.uid e.g.who e.p.pid).helperPlaces { st := s, log := [] }
  obtain ⟨hnext, hrecruit, -⟩ := e.g.demote_keeps e.p.pid
  have hm := modPath_party h (modGroup_party (f := fun g => g.pushEntry (e.splitEntry e.g.hasDual)) hd fun _ => rfl) e.armPath
  have hx' := find?_map_ite (f := e.armPath) hx fun _ => rfl
  have hrecon : e.splitEntry e.g.hasDual :: (e.g.demote e.p.pid).recon = e.splitEntry e.g.hasDual :: e.g.demoted e.p.pid := by
    rw [Group.recon_demote]
  rw [Env.divide, bind_run, bind_run, bind_run, onlyIf_run]
  split
  · next hb =>
    obtain ⟨ha, ht, -⟩ := of_decide_eq_true hb
    obtain ⟨g', h', hg⟩ := startPath_party hm e.elsePc e.armElse e.p.fmt (some e.p)
    refine ⟨g', h', hg.recon.trans hrecon, hg.path _ _ hx' hh ?_, fun _ => ?_⟩
    · rw [show (e.armPath e.p).act = e.armTaken from if_neg ht]
      exact ht
    · rw [← hnext, ← hrecruit, ← show _ = s.ctl.helperPlaces from hrec]
      exact hg.launched
  · next hb => exact ⟨_, hm, hrecon, hx', fun h => absurd (decide_eq_true h) hb⟩

/-- The entry of a `split` in the order of R99. -/
theorem splitEntry_eq (e : Env) : let both := e.armTaken ≠ 0 ∧ e.armElse ≠ 0
    e.splitEntry e.g.hasDual =
      { jpc := advPc (e.target 32 (wfld e.f.ext64 63 32)), jmask := e.p.act, arr := 0,
        ppc := if both ∧ e.g.hasDual = true then e.elsePc else 0, pmask := if both ∧ e.g.hasDual = true then e.armElse else 0,
        pfmt := if both ∧ e.g.hasDual = true then e.p.fmt else 0, fcopy := e.p.fmt,
        kind := if both ∧ e.g.hasDual = false then .dual else .ser, ppark := none } := by
  have hd : e.bothArms e.g.hasDual ↔ (e.armTaken ≠ 0 ∧ e.armElse ≠ 0) ∧ e.g.hasDual = true := by
    rw [Env.bothArms, and_left_comm, and_assoc]
  have hs : e.bothArms (!e.g.hasDual) ↔ (e.armTaken ≠ 0 ∧ e.armElse ≠ 0) ∧ e.g.hasDual = false := by
    rw [Env.bothArms, Bool.not_eq_true', and_left_comm, and_assoc]
  simp only [Env.splitEntry, hd, hs]

/-- `split` (R107). -/
theorem splitDividesThePath : Claims.SplitDividesThePath := by
  intro f cur s h e hn tk r el both
  obtain ⟨g, hg, hrecon, hpath, hstart⟩ := divide_party h.stands (h.helper_none rfl)
  obtain ⟨t, ht, hst, hgt⟩ := exec_split h hn hg
  have hp := pathOf_jumped h.stands hgt hpath
  refine ⟨t, ht, hst, ?_, by rw [hp]; rfl, by rw [hp]; rfl, by rw [hp]; rfl, fun hb hd => ?_⟩
  · rw [hgt]
    exact hrecon.trans (congrArg (· :: _) (splitEntry_eq e))
  exact started_of_launched hgt (hstart ⟨hb.2, hb.1, by rw [hd]; rfl⟩)

end Split

/-! ### A path leaves its regions (R103) -/

/-- The party changes and the path ends. -/
def Env.ends (e : Env) (F : Group → Group) : M Unit := do
  modGroup e.uid e.g.who F
  endPath e.uid e.g.who e.p.pid

/-- The party changes, the path ends and the stack settles. -/
def Env.departs (e : Env) (F : Group → Group) : M (Got Unit) := do
  modGroup e.uid e.g.who F
  endPath e.uid e.g.who e.p.pid
  settle e.acc

theorem leavePath_eq (e : Env) (F : Group → Group) : e.leavePath F = attempt (e.departs F) := rfl

theorem movesPaths_ends (e : Env) (F : Group → Group) : MovesPaths (e.ends F) :=
  .bind (movesPaths_modGroup _ _ _) fun _ => movesPaths_endPath _ _ _

section Departs

variable {e : Env} {F : Group → Group} {r : Run} {g : Group}

theorem ends_party (h : r.st.ctl.Party e.uid e.g.who g) (hF : ∀ g, (F g).who = g.who) :
    (e.ends F r).2.st.ctl.Party e.uid e.g.who ((F g).without e.p.pid) := endPath_party (modGroup_party h hF) _

theorem departs_live (h : r.st.ctl.Party e.uid e.g.who g) (hF : ∀ g, (F g).who = g.who) (hl : ((F g).without e.p.pid).live ≠ []) :
    e.departs F r = (.ok (), (e.ends F r).2) := settle_live (a := e.acc) (ends_party h hF) hl

theorem departs_pending {x : REnt} {rest : List REnt} (h : r.st.ctl.Party e.uid e.g.who g) (hF : ∀ g, (F g).who = g.who)
    (hl : ((F g).without e.p.pid).live = []) (hr : (F g).recon = x :: rest) (hk : x.kind ≠ .callv) (hp : x.pmask ≠ 0) :
    e.departs F r = (.ok (), ((do e.ends F; startPending e.uid e.g.who x : M Unit) r).2) :=
  settle_pending (a := e.acc) (ends_party h hF) hl hr hk hp

theorem departs_popped {x : REnt} {rest : List REnt} (h : r.st.ctl.Party e.uid e.g.who g) (hF : ∀ g, (F g).who = g.who)
    (hl : ((F g).without e.p.pid).live = []) (hr : (F g).recon = x :: rest) (hp : x.pmask = 0) (hj : x.jmask ≠ 0)
    (hn : lastSpilled false (F g).spilled = none) :
    e.departs F r = (.ok (), ((do e.ends F; startPopped e.uid e.g.who x : M Unit) r).2) :=
  settle_popped (a := e.acc) (ends_party h hF) hl hr hp hj hn

end Departs

/-! ### `join` (R108) -/

section Join

variable {f : Fields} {cur : Cur} {s : State} {x : REnt} {rest : List REnt}

/-- A `join` at the join PC of the top entry. -/
theorem exec_join (h : Executes (.join f) f cur s) (hr : (envOf s cur f).g.recon = x :: rest) (hj : x.jpc = cur.pc) :
    exec (.join f) s = issue (.join f) f (fun e => do
      let y ← attempt (e.departs (fun g => g.arrive e.p.act))
      return y.res .jump) s := by
  refine issue_congr h ?_
  have hj' : ¬x.jpc ≠ (envOf s cur f).cur.pc := not_not.2 hj
  rw [hr]
  dsimp only
  rw [if_neg hj']
  rfl

/-- The top entry once the path's lanes have arrived. -/
def REnt.joined (x : REnt) (m : Word) : REnt := { x with arr := x.arr ||| m }

theorem recon_arrive {g : Group} (hr : g.recon = x :: rest) (m : Word) : (g.arrive m).recon = x.joined m :: rest := by
  rw [Group.arrive, hr]
  rfl

theorem next_inj {o : Host.Outcome State Fault Refusal} {t u : State} (h : o = .next t) (hu : o = .next u) : t = u := by
  rw [h] at hu
  injection hu

section Cases

variable (h : Executes (.join f) f cur s) (hr : (envOf s cur f).g.recon = x :: rest) (hj : x.jpc = cur.pc)
include h hr hj

/-- While the group's other path lives its arm only ends. -/
theorem join_beside (ha : ¬(envOf s cur f).alone) : ∃ t, exec (.join f) s = .next t ∧ SameStores s t ∧ PathGone cur t ∧
    (t.groupOf cur.p).recon = x.joined (envOf s cur f).p.act :: rest := by
  have hP := envOf_party (f := f) h.stands
  have hl := mt (envOf s cur f).alone_iff.2 ha
  obtain ⟨t, ht, hst, hgt⟩ := exec_jumps h (exec_join h hr hj) (departs_live hP (fun _ => rfl) hl) (movesPaths_ends _ _)
    (ends_party hP fun _ => rfl)
  refine ⟨t, ht, hst, pathGone_of_without (by rwa [envOf_pid h.stands] at hgt), ?_⟩
  rw [hgt]
  exact recon_arrive hr _

/-- The last live arm ends and the pending one starts. -/
theorem join_pending (ha : (envOf s cur f).alone) (hk : x.kind ≠ .callv) (hp : x.pmask ≠ 0) :
    ∃ t, exec (.join f) s = .next t ∧ SameStores s t ∧ Started (envOf s cur f) t x.ppc x.pmask x.pfmt ∧
      (t.groupOf cur.p).recon = { x.joined (envOf s cur f).p.act with pmask := 0, ppark := none } :: rest := by
  have hP := envOf_party (f := f) h.stands
  have hrec := (movesPaths_ends (envOf s cur f) (fun g => g.arrive (envOf s cur f).p.act)).helperPlaces { st := s, log := [] }
  have harr := recon_arrive hr (envOf s cur f).p.act
  obtain ⟨g', h', hrecon, -, hstart⟩ := startPending_party
    (ends_party (F := fun g => g.arrive (envOf s cur f).p.act) (r := { st := s, log := [] }) hP fun _ => rfl) harr
  obtain ⟨t, ht, hst, hgt⟩ := exec_jumps h (exec_join h hr hj)
    (departs_pending (F := fun g => g.arrive (envOf s cur f).p.act) hP (fun _ => rfl) ((envOf s cur f).alone_iff.1 ha) harr hk hp)
    (.bind (movesPaths_ends _ _) fun _ => movesPaths_startPending _ _ _) h'
  rw [hrec] at hstart
  exact ⟨t, ht, hst, started_of_launched hgt hstart, by rw [hgt]; exact hrecon⟩

/-- The last arm ends and the region completes. -/
theorem join_completes (ha : (envOf s cur f).alone) (hk : x.kind ≠ .callv) (hp : x.pmask = 0) (hjm : x.jmask ≠ 0)
    (hn : lastSpilled false (envOf s cur f).g.spilled = none) :
    ∃ t, exec (.join f) s = .next t ∧ SameStores s t ∧ Started (envOf s cur f) t (x.jpc + 8) x.jmask x.fcopy ∧
      (t.groupOf cur.p).recon = rest := by
  have hP := envOf_party (f := f) h.stands
  have hrec := (movesPaths_ends (envOf s cur f) (fun g => g.arrive (envOf s cur f).p.act)).helperPlaces { st := s, log := [] }
  have harr := recon_arrive hr (envOf s cur f).p.act
  have hpc : (if x.kind == .callv then x.jpc else x.jpc + 8) = x.jpc + 8 := if_neg (by simpa using hk)
  obtain ⟨g', h', hrecon, -, hstart⟩ := startPopped_party
    (ends_party (F := fun g => g.arrive (envOf s cur f).p.act) (r := { st := s, log := [] }) hP fun _ => rfl) harr
  obtain ⟨t, ht, hst, hgt⟩ := exec_jumps h (exec_join h hr hj)
    (departs_popped (F := fun g => g.arrive (envOf s cur f).p.act) hP (fun _ => rfl) ((envOf s cur f).alone_iff.1 ha) harr hp hjm hn)
    (.bind (movesPaths_ends _ _) fun _ => movesPaths_startPopped _ _ _) h'
  rw [hrec] at hstart
  exact ⟨t, ht, hst, started_of_launched hgt (hpc ▸ hstart), by rw [hgt]; exact hrecon⟩

end Cases

/-- `join` (R108), by what `settle` makes of the stack. -/
theorem joinEndsTheArm : Claims.JoinEndsTheArm := by
  intro f cur s x rest h e hr hj
  obtain ⟨us, hu⟩ := exec_next (i := .join f) (s := s) fun _ => by rw [h.cur_eq]; rfl
  refine ⟨_, hu, fun ha => ?_, fun ha hk hp => ?_, fun ha hk hp hjm hn => ?_⟩
  · obtain ⟨t, ht, hres⟩ := join_beside h hr hj ha
    exact next_inj hu ht ▸ hres
  · obtain ⟨t, ht, hres⟩ := join_pending h hr hj ha hk hp
    exact next_inj hu ht ▸ hres
  · obtain ⟨t, ht, hres⟩ := join_completes h hr hj ha hk hp hjm hn
    exact next_inj hu ht ▸ hres

end Join

/-! ### `brk` (R109) -/

/-- An entry of the stack after lanes have left n regions, j entries below the top. -/
def REnt.broken (x : REnt) (m : Word) (n j : Nat) : REnt :=
  if j + 1 < n then x.drop m else if j + 1 = n then x.joined m else x

theorem getElem?_brkStack (m : Word) (n : Nat) (l : List REnt) (j : Nat) :
    (brkStack m (n + 1) l)[j]? = l[j]?.map (fun x => x.broken m (n + 1) j) := by
  induction n generalizing l j with
  | zero =>
    cases l with
    | nil => rfl
    | cons x l =>
      cases j with
      | zero => rfl
      | succ j => simp [brkStack, REnt.broken]
  | succ n ih =>
    cases l with
    | nil => rfl
    | cons x l =>
      cases j with
      | zero => simp [brkStack, REnt.broken]
      | succ j => simp [brkStack, ih, REnt.broken]

section Brk

variable {f : Fields} {cur : Cur} {s : State}

/-- The party once lanes have left their regions. -/
def Env.breaks (e : Env) (g : Group) : Group := { g with recon := brkStack e.ex (scfld e.f 3 0 + 1) g.recon }

/-- The lanes that a `brk` leaves to the path. -/
def Env.staying (e : Env) : Word := e.p.act &&& ~~~e.ex

/-- The lanes leave and the path goes on in the others. -/
def Env.stays (e : Env) : M Unit := do
  modGroup e.uid e.g.who e.breaks
  modPath e.cur.p (fun p => { p with act := e.staying })

theorem movesPaths_stays (e : Env) : MovesPaths e.stays :=
  .bind (movesPaths_modGroup _ _ _) fun _ => movesPaths_modPath _ _

/-- A `brk` that nothing stops. -/
theorem exec_brk (h : Executes (.brk f) f cur s) (hx : (envOf s cur f).ex ≠ 0) (hn : scfld f 3 0 + 1 ≤ (envOf s cur f).g.nr)
    (ha : ∀ a, (envOf s cur f).g.ras.head? = some a → a.depth + (scfld f 3 0 + 1) ≤ (envOf s cur f).g.nr) :
    exec (.brk f) s = issue (.brk f) f (fun e =>
      if e.staying = 0 then do
        let y ← attempt (e.departs e.breaks)
        return y.res .jump
      else do
        modGroup e.uid e.g.who e.breaks
        modPath e.cur.p (fun p => { p with act := e.staying })
        return .done) s := by
  refine issue_congr h ?_
  have hc : ¬((envOf s cur f).g.ras.head?).any (fun a => decide ((envOf s cur f).g.nr < a.depth + (scfld f 3 0 + 1))) = true := by
    cases hr : (envOf s cur f).g.ras.head? with
    | none => simp
    | some a => simpa using ha a hr
  dsimp only
  rw [if_neg hx, if_neg (not_lt.2 hn), if_neg hc]
  rfl

section Leaves

variable (h : Executes (.brk f) f cur s) (hx : (envOf s cur f).ex ≠ 0) (hn : scfld f 3 0 + 1 ≤ (envOf s cur f).g.nr)
  (ha : ∀ a, (envOf s cur f).g.ras.head? = some a → a.depth + (scfld f 3 0 + 1) ≤ (envOf s cur f).g.nr)
include h hx hn ha

/-- All lanes leave, beside another live path: the path is gone. -/
theorem brk_all (hs : (envOf s cur f).staying = 0) (hl : ¬(envOf s cur f).alone) : ∃ t, exec (.brk f) s = .next t ∧ SameStores s t ∧
    (t.groupOf cur.p).recon = ((envOf s cur f).breaks (envOf s cur f).g).recon ∧ PathGone cur t := by
  have hP := envOf_party (f := f) h.stands
  have he : exec (.brk f) s = issue (.brk f) f (fun e => do
      let y ← attempt (e.departs e.breaks)
      return y.res .jump) s := (exec_brk h hx hn ha).trans (issue_congr h (if_pos hs))
  obtain ⟨t, ht, hst, hgt⟩ := exec_jumps h he (departs_live hP (fun _ => rfl) (mt (envOf s cur f).alone_iff.2 hl))
    (movesPaths_ends _ _) (ends_party hP fun _ => rfl)
  exact ⟨t, ht, hst, by rw [hgt]; rfl, pathGone_of_without (by rwa [envOf_pid h.stands] at hgt)⟩

/-- Lanes stay: the path goes on in them. -/
theorem brk_some (hs : (envOf s cur f).staying ≠ 0) : ∃ t, exec (.brk f) s = .next t ∧ SameStores s t ∧
    (t.groupOf cur.p).recon = ((envOf s cur f).breaks (envOf s cur f).g).recon ∧ (t.pathOf cur.p).act = (envOf s cur f).staying ∧
    (t.pathOf cur.p).pc = nextPc cur.pc cur.len := by
  have hP := envOf_party (f := f) h.stands
  have he : exec (.brk f) s = issue (.brk f) f (fun e => do
      e.stays
      return .done) s := (exec_brk h hx hn ha).trans (issue_congr h (if_neg hs))
  have hG := modPath_party (r := (modGroup (envOf s cur f).uid (envOf s cur f).g.who (envOf s cur f).breaks { st := s, log := [] }).2)
    h.stands (modGroup_party hP fun _ => rfl) (fun p => { p with act := (envOf s cur f).staying })
  obtain ⟨t, ht, hst, hgt⟩ := exec_passes (n := Env.stays) h he rfl (movesPaths_stays _) hG
  have hp := pathOf_of_left h.stands hgt (fun _ => rfl)
    (find?_map_ite (f := fun p => { p with act := (envOf s cur f).staying }) (find?_envOf (f := f) h.stands) fun _ => rfl)
  exact ⟨t, ht, hst, by rw [hgt]; rfl, by rw [hp]; rfl, by rw [hp]; rfl⟩

end Leaves

/-- `brk` (R109), by the lanes that stay. -/
theorem brkLeavesRegions : Claims.BrkLeavesRegions := by
  intro f cur s h e n hx hn ha hlive
  have hrec : ∀ j : Nat, (e.breaks e.g).recon[j]? = e.g.recon[j]?.map (fun x => x.broken e.ex n j) :=
    getElem?_brkStack e.ex (scfld f 3 0) e.g.recon
  by_cases hs : e.staying = 0
  · obtain ⟨t, ht, hst, hr, hgone⟩ := brk_all h hx hn ha hs (hlive.resolve_left (not_not.2 hs))
    exact ⟨t, ht, hst, fun j => hr ▸ hrec j, fun hne => absurd hs hne, fun _ => hgone⟩
  · obtain ⟨t, ht, hst, hr, hact, hpc⟩ := brk_some h hx hn ha hs
    exact ⟨t, ht, hst, fun j => hr ▸ hrec j, fun _ => ⟨hact, hpc⟩, fun h0 => absurd h0 hs⟩

end Brk

/-- Settles O18: after each of the three the party is what its stack operations make of it, and `settle` starts the next path. -/
theorem regionsDivideAndJoin : Obligations.RegionsDivideAndJoin :=
  ⟨splitDividesThePath, joinEndsTheArm, brkLeavesRegions⟩

end Sys2Proof.Machine
end

section
/-! SUPPORT. Calls and returns: `call`, `callv.u`, `ret` and `callv` (R110, R111). -/

namespace Sys2Proof.Machine

/-! ### A call or return of the whole path -/

/-- A live pair is divided, the party changes and the path goes on at an address. -/
def Env.transfers (e : Env) (F : Group → Group) (pc : Word) : M Unit := do
  demote e.uid e.g.who e.p.pid
  modGroup e.uid e.g.who F
  e.go pc

theorem movesPaths_transfers (e : Env) (F : Group → Group) (pc : Word) : MovesPaths (e.transfers F pc) :=
  .bind (movesPaths_demote _ _ _) fun _ => .bind (movesPaths_modGroup _ _ _) fun _ => movesPaths_modPath _ _

theorem Group.find?_updPath {g : Group} {k : Nat} {x : Path} {q : Path → Path} (h : g.paths.find? (fun p => p.pid == k) = some x)
    (hq : ∀ x, (q x).pid = x.pid) : (g.updPath k q).paths.find? (fun p => p.pid == k) = some (q x) :=
  find?_map_ite h fun x => by rw [hq]

section Transfers

variable {i : Instr} {f : Fields} {cur : Cur} {s : State} {F : Group → Group} {pc : Word}

theorem transfers_party (h : s.ctl.stands cur.p = true) (hF : ∀ g, (F g).who = g.who) : let e := envOf s cur f
    (e.transfers F pc { st := s, log := [] }).2.st.ctl.Party e.uid e.g.who
      ((F (e.g.demote e.p.pid)).updPath e.p.pid (fun p => { p with pc := pc })) :=
  modPath_party h (modGroup_party (demote_party (f := f) h []) hF) _

/-- Of an attempt that does only this: the party's stacks are what the change makes of them, and the path stands at the address. -/
theorem exec_transfers {m : Env → M (Got Unit)} (h : Executes i f cur s)
    (hi : exec i s = issue i f (fun e => do
      let x ← attempt (m e)
      return x.res .jump) s)
    (hm : m (envOf s cur f) { st := s, log := [] } = (.ok (), ((envOf s cur f).transfers F pc { st := s, log := [] }).2))
    (hF : ∀ g, (F g).who = g.who ∧ (F g).paths = g.paths ∧ (F g).recon = g.recon) : let e := envOf s cur f
    ∃ t, exec i s = .next t ∧ SameStores s t ∧ (t.groupOf cur.p).ras = (F (e.g.demote e.p.pid)).ras ∧
      (t.groupOf cur.p).recon = e.g.demoted e.p.pid ∧
      (t.pathOf cur.p).pc = pc ∧ (t.pathOf cur.p).act = e.p.act ∧ (t.pathOf cur.p).fmt = e.p.fmt := by
  intro e
  obtain ⟨t, ht, hst, hgt⟩ := exec_jumps h hi hm (movesPaths_transfers _ _ _) (transfers_party h.stands fun g => (hF g).1)
  have hx : (F (e.g.demote e.p.pid)).paths.find? (fun q => q.pid == e.p.pid) = some e.p := by
    rw [(hF _).2.1]
    exact find?_demote h.stands
  have hp := pathOf_jumped (f := f) h.stands hgt (Group.find?_updPath hx fun _ => rfl)
  refine ⟨t, ht, hst, by rw [hgt]; rfl, ?_, by rw [hp]; rfl, by rw [hp]; rfl, by rw [hp]; rfl⟩
  rw [hgt]
  exact ((hF _).2.2).trans (Group.recon_demote _ _)

end Transfers

/-! ### `call` and `callv.u` -/

/-- A call, with a free place. -/
theorem callTo_pushes {i : Instr} {f : Fields} {cur : Cur} {s : State} {X : Env → Word} (h : Executes i f cur s)
    (hi : exec i s = issue i f (fun e => do
      let y ← e.callTo (X e)
      return y.res .jump) s) (hn : (envOf s cur f).g.ras.length < 8) : let e := envOf s cur f
    ∃ t, exec i s = .next t ∧ SameStores s t ∧ (t.groupOf cur.p).ras = { pc := cur.npc, depth := e.g.nr } :: e.g.ras ∧
      (t.groupOf cur.p).recon = e.g.demoted e.p.pid ∧
      (t.pathOf cur.p).pc = X e ∧ (t.pathOf cur.p).act = e.p.act ∧ (t.pathOf cur.p).fmt = e.p.fmt := by
  intro e
  obtain ⟨-, -, hras, -⟩ := e.g.demote_keeps e.p.pid
  have hd := demote_party (f := f) h.stands []
  obtain ⟨t, ht, hst, hr, hrest⟩ := exec_transfers (F := fun g => g.pushCall { pc := cur.npc, depth := e.g.nr }) (pc := X e) h hi
    (by
      rw [bind_run, bind_run, getGroup_party hd]
      dsimp only
      rw [nr_demote, bind_run, pushRas_room (a := e.acc) hd (by rwa [hras])]
      rfl) fun _ => ⟨rfl, rfl, rfl⟩
  exact ⟨t, ht, hst, hr.trans (congrArg (_ :: ·) hras), hrest⟩

/-- `call` and `callv.u` (R110, R111). -/
theorem callsPushTheReturnAddress : Claims.CallsPushTheReturnAddress := by
  intro i f cur s x h e hx hn
  obtain ⟨rfl, rfl⟩ | ⟨rfl, rfl, h0, h4⟩ := hx
  · exact callTo_pushes (X := fun e => e.target 32 f.imm32.toNat) h rfl hn
  · refine callTo_pushes (X := fun e => e.opnd f.sa.toNat 0 false 0) h ?_ hn
    exact issue_congr h (if_neg (by simpa using ⟨h0, h4⟩))

/-! ### `ret` -/

/-- A party whose only live path executes has none to demote. -/
theorem Env.demote_of_alone {e : Env} (h : e.alone) : e.g.demote e.p.pid = e.g := by
  have hf : e.g.live.find? (fun q => q.pid != e.p.pid) = none := List.find?_eq_none.2 fun q hq => by simp [h q hq]
  rw [Group.demote, hf]
  rfl

section Ret

variable {f : Fields} {cur : Cur} {s : State} {a : RAEnt} {rest : List RAEnt}

theorem popRas_party {r : Run} {e : Env} {g : Group} (h : r.st.ctl.Party e.uid e.g.who g) (hn : lastSpilled true g.spilled = none) :
    popRas e.acc r = (.ok (), (modGroup e.uid e.g.who Group.popCall r).2) := popRas_none (a := e.acc) h hn

variable (h : Executes (.ret f) f cur s) (hr : (envOf s cur f).g.ras = a :: rest)
  (hn : lastSpilled true (envOf s cur f).g.spilled = none)
include h hr hn

/-- A return from a call of the whole path. -/
theorem ret_plain (ha : a.pc.getLsbD 0 = false) (hd : a.depth = (envOf s cur f).g.nr) : let e := envOf s cur f
    ∃ t, exec (.ret f) s = .next t ∧ SameStores s t ∧ (t.groupOf cur.p).ras = rest ∧
      (t.groupOf cur.p).recon = e.g.demoted e.p.pid ∧
      (t.pathOf cur.p).pc = a.pc ∧ (t.pathOf cur.p).act = e.p.act ∧ (t.pathOf cur.p).fmt = e.p.fmt := by
  intro e
  obtain ⟨-, -, hras, hsp, -⟩ := e.g.demote_keeps e.p.pid
  have hP := demote_party (f := f) h.stands []
  have hi : exec (.ret f) s = issue (.ret f) f (fun e => do
      let x ← attempt (do
        demote e.uid e.g.who e.p.pid
        match ← popRas e.acc with
        | .trap r => return .trap r
        | .wait => return .wait
        | .ok _ => do
          e.go a.pc
          return .ok ())
      return x.res .jump) s := by
    refine issue_congr h ?_
    have hd' : ¬a.depth ≠ (envOf s cur f).g.nr := not_not.2 hd
    rw [hr]
    dsimp only
    exact (if_neg (by rw [ha]; exact Bool.false_ne_true)).trans (if_neg hd')
  obtain ⟨t, ht, hst, hr', hrest⟩ := exec_transfers (F := Group.popCall) (pc := a.pc) h hi
    (by
      rw [bind_run, bind_run, popRas_party hP (by rwa [hsp])]
      rfl) fun _ => ⟨rfl, rfl, rfl⟩
  exact ⟨t, ht, hst, hr'.trans (by rw [Group.popCall, hras, hr]; rfl), hrest⟩

/-- A return from the last call of a CALLV entry. -/
theorem ret_last {x : REnt} {r : List REnt} (ha : a.pc.getLsbD 0 = true) (hx : (envOf s cur f).g.recon = x :: r)
    (hk : x.kind = .callv) (hal : (envOf s cur f).alone) (hp : x.pmask = 0) (hj : x.jmask ≠ 0)
    (hs : lastSpilled false (envOf s cur f).g.spilled = none) : let e := envOf s cur f
    ∃ t, exec (.ret f) s = .next t ∧ SameStores s t ∧ (t.groupOf cur.p).ras = rest ∧ (t.groupOf cur.p).recon = r ∧
      Started e t x.jpc x.jmask x.fcopy := by
  intro e
  have hP := demote_party (f := f) h.stands []
  rw [Env.demote_of_alone hal] at hP
  have hi : exec (.ret f) s = issue (.ret f) f (fun e => do
      let x ← attempt (do
        demote e.uid e.g.who e.p.pid
        match ← popRas e.acc with
        | .trap r => return .trap r
        | .wait => return .wait
        | .ok _ => e.leavePath (fun g => g.arrive e.p.act))
      return x.res .jump) s := by
    refine issue_congr h ?_
    have hk' : (x.kind == .callv) = true := by rw [hk]; rfl
    rw [hr, hx]
    dsimp only
    exact (if_pos ha).trans (if_pos hk')
  have hQ := modGroup_party (f := Group.popCall) hP fun _ => rfl
  have harr : ((e.g.popCall).arrive e.p.act).recon = x.joined e.p.act :: r := recon_arrive hx e.p.act
  obtain ⟨g', h', hrecon, hras, hstart⟩ := startPopped_party
    (ends_party (F := fun g => g.arrive e.p.act) hQ fun _ => rfl) harr
  obtain ⟨t, ht, hst, hgt⟩ := exec_jumps (n := do
      demote e.uid e.g.who e.p.pid
      modGroup e.uid e.g.who Group.popCall
      e.ends (fun g => g.arrive e.p.act)
      startPopped e.uid e.g.who (x.joined e.p.act)) h hi
    (by
      rw [bind_run, bind_run, popRas_party hP hn]
      dsimp only
      rw [leavePath_eq, attempt_ok (departs_popped (F := fun g => g.arrive e.p.act) hQ (fun _ => rfl) (e.alone_iff.1 hal) harr hp hj hs)]
      rfl)
    (.bind (movesPaths_demote _ _ _) fun _ => .bind (movesPaths_modGroup _ _ _) fun _ => .bind (movesPaths_ends _ _) fun _ =>
      movesPaths_startPopped _ _ _) h'
  refine ⟨t, ht, hst, ?_, by rw [hgt]; exact hrecon, ?_⟩
  · rw [hgt]
    exact hras.trans (congrArg List.tail hr)
  · have hrec : (e.ends (fun g => g.arrive e.p.act) (modGroup e.uid e.g.who Group.popCall
        (demote e.uid e.g.who e.p.pid { st := s, log := [] }).2).2).2.st.ctl.helperPlaces = s.ctl.helperPlaces :=
      ((movesPaths_ends _ _).helperPlaces _).trans (((movesPaths_modGroup _ _ _).helperPlaces _).trans
        ((movesPaths_demote _ _ _).helperPlaces _))
    rw [hrec, if_pos (by rw [REnt.joined, hk]; rfl)] at hstart
    exact started_of_launched hgt hstart

end Ret

/-- `ret` (R110, R111). -/
theorem retPopsTheReturnAddress : Claims.RetPopsTheReturnAddress :=
  fun _ _ _ _ _ h hr hn => ⟨ret_plain h hr hn, fun _ _ ha hx hk hal hp hj hs => ret_last h hr hn ha hx hk hal hp hj hs⟩

end Sys2Proof.Machine
end

section
/-! SUPPORT. What a request of device memory and its translation leave as it is (R232 to R252): all but bytes,
translations, tiles, page moves and what the host is told. -/

namespace Sys2Proof.Machine

/-- The control state without what a request of device memory changes: translations, tiles with their lines and their seals, page
moves and what the host is told. -/
def Ctl.aside (c : Ctl) : Ctl :=
  { c with host := Ctl.init.host, tlbs := [], ats := [], cached := [], tiles := [], groups := [], tree := [], roots := [], moves := [] }

/-- Every register, and the control state without what a request of device memory changes. -/
def State.aside (s : State) : (Sparse 32 × Sparse 32 × Sparse 32 × Sparse 64 × Sparse 64 × Sparse 64) × Ctl :=
  ((s.v, s.vi, s.a, s.w, s.k, s.csr), s.ctl.aside)

/-- A part of a meaning changes bytes, and of the control state what a request of device memory changes. -/
abbrev Steady {α : Type} (m : M α) : Prop := Keeps State.aside m

theorem Steady.modC {f : Ctl → Ctl} (h : ∀ c, (f c).aside = c.aside) : Steady (modC f) :=
  Keeps.modC fun s => by simp only [State.aside, h]

theorem KeepsAt.setC_aside {c : Ctl} {r : Run} (h : c.aside = r.st.ctl.aside) : KeepsAt State.aside (Machine.setC c) r :=
  .setC (by simp only [State.aside, h])

theorem aside_updBytes (l : Loc) (bs : List Byte) (s : State) : (applyAll s (updBytes l bs)).aside = s.aside := by
  induction bs generalizing s l with
  | nil => rfl
  | cons b bs ih =>
    rw [updBytes, applyAll_cons, ih]
    obtain ⟨sp, k⟩ := l
    cases sp <;> rfl

theorem steady_storeN (l : Loc) (x n : Nat) : Steady (storeN l x n) := fun _ => .emits (aside_updBytes _ _ _)

theorem steady_report (q : Report) : Steady (report q) := Steady.modC fun _ => rfl

theorem steady_cleanTile (t : Nat) : Steady (cleanTile t) := Steady.modC fun _ => rfl

theorem steady_dropLine (t : Nat) : Steady (dropLine t) := Steady.modC fun _ => rfl

theorem steady_resealTiles (mine : Tile → Bool) : Steady (resealTiles mine) := .getS fun _ => Steady.modC fun _ => rfl

theorem steady_quarantineFailing (g : Nat) : Steady (quarantineFailing g) :=
  .getC fun _ => .forEach fun _ => .bind (Steady.modC fun _ => rfl) fun _ => steady_report _

theorem steady_checkBelow (g : Nat) : Steady (checkBelow g) := .getC fun _ => .forEach steady_quarantineFailing

theorem Ctl.aside_setTile (c : Ctl) (x : Tile) : (c.setTile x).aside = c.aside := rfl

theorem Ctl.aside_setNode (c : Ctl) (x : TreeNode) : (c.setNode x).aside = c.aside := rfl

theorem Ctl.aside_trees (c : Ctl) (t : List TreeNode) (g : List SealGroup) :
    ({ c with tree := t, groups := g } : Ctl).aside = c.aside := rfl

theorem Ctl.aside_writeCounters (c : Ctl) (g : Nat) : (c.writeCounters g).aside = c.aside := by
  unfold Ctl.writeCounters
  exact (Ctl.aside_trees _ _ _).trans ((Ctl.aside_setNode _ _).trans ((Ctl.aside_setNode _ _).trans rfl))

theorem steady_writeback (t : Nat) : Steady (writeback t) := by
  intro r
  refine .getC ?_
  split
  · exact .pure ()
  · refine .ite (steady_cleanTile t r) (.ite ?_ (.ite ?_ (.ite ?_ ?_)))
    · exact Keeps.bind (steady_dropLine t) (fun _ => steady_report _) r
    · exact Keeps.bind (steady_dropLine t) (fun _ => .bind (Steady.modC fun c => c.aside_setTile _) fun _ => steady_report _) r
    · exact .setC_aside rfl
    · exact Keeps.bind (steady_checkBelow _) (fun _ => .bind (Steady.modC fun c => (Ctl.aside_writeCounters _ _).trans (c.aside_setTile _))
        fun _ => .bind (steady_resealTiles _) fun _ => steady_cleanTile t) r

theorem steady_fillTile (slot t : Nat) (write : Bool) : Steady (fillTile slot t write) := by
  intro r
  have hfill : KeepsAt State.aside (do setC (r.st.ctl.fill t slot write); return Sealed.ok) r :=
    .bind (.setC_aside rfl) (.pure _)
  exact .getC (.ite (.pure _) (.ite hfill (.ite (.pure _) (.ite hfill (.pure _)))))

theorem steady_sealTry (slot pa : Nat) (write : Bool) : Steady (sealTry slot pa write) := by
  refine .getC fun c => .ite (.pure _) (.ite (.pure _) (.ite (.pure _) ?_))
  split
  · refine .ite ?_ ?_
    · exact .bind (.onlyIf (Steady.modC fun _ => rfl)) fun _ => .pure _
    · exact .bind (.onlyIf (steady_writeback _)) fun _ => .getC fun d =>
        .ite (.pure _) (.bind (steady_dropLine _) fun _ => steady_fillTile _ _ _)
  · exact steady_fillTile _ _ _

theorem steady_sealAccess (slot pa : Nat) (write : Bool) : Steady (sealAccess slot pa write) :=
  .bind (steady_sealTry _ _ _) fun _ => .getC fun _ => .bind (.onlyIf (Steady.modC fun _ => rfl)) fun _ => .pure _

theorem steady_setAD (slot at_ e new : Nat) : Steady (setAD slot at_ e new) := by
  refine .ite (.pure _) (.bind (steady_sealAccess _ _ _) fun a => ?_)
  cases a with
  | ok => exact .bind (steady_storeN _ _ _) fun _ => .pure _
  | fail sub => exact .pure _
  | wait => exact .pure _

theorem steady_hostTranslate (rctx va : Nat) (write : Bool) : Steady (hostTranslate rctx va write) := by
  intro r
  refine .getC ?_
  split
  · exact .pure _
  · dsimp only
    split
    · exact .pure _
    · exact .bind (.setC_aside rfl) (.pure _)

theorem steady_leafAccess (rctx va e s : Nat) (n : Need) : Steady (leafAccess rctx va e s n) :=
  .ite (steady_hostTranslate _ _ _) (.ite (.pure _) (.pure _))

theorem steady_sealWalk (slot : Nat) (s : State) (va lv tbl : Nat) : Steady (sealWalk slot s va lv tbl) := by
  induction lv generalizing tbl with
  | zero => exact .pure _
  | succ lv ih =>
    refine .bind (steady_sealAccess _ _ _) fun a => ?_
    cases a with
    | ok => exact .ite (.pure _) (ih _)
    | fail sub => exact .pure _
    | wait => exact .pure _

theorem steady_sealedWalk (rctx va : Nat) : Steady (sealedWalk rctx va) := by
  refine .getS fun s => .bind (steady_sealWalk _ _ _ _ _) fun a => ?_
  cases a <;> exact .pure _

theorem steady_walkAccess (eng : EngineId) (rctx va : Nat) (user : Bool) (n : Need) : Steady (walkAccess eng rctx va user n) := by
  refine .bind (steady_sealedWalk _ _) fun a => ?_
  split
  · exact .pure _
  · exact .pure _
  · split
    · exact .pure _
    · refine .getC fun c => .bind (steady_setAD _ _ _ _) fun a => ?_
      cases a with
      | ok => exact .bind (Steady.modC fun _ => rfl) fun _ => steady_leafAccess _ _ _ _ _
      | fail sub => exact .pure _
      | wait => exact .pure _

theorem steady_translateNow (eng : EngineId) (rctx va : Nat) (user : Bool) (n : Need) : Steady (translateNow eng rctx va user n) := by
  refine .ite (.pure _) (.getC fun c => ?_)
  split
  · dsimp only
    split
    · exact .pure _
    · exact .ite (steady_leafAccess _ _ _ _ _) (steady_walkAccess _ _ _ _ _)
  · exact steady_walkAccess _ _ _ _ _

theorem steady_translate (eng : EngineId) (rctx va : Nat) (user : Bool) (n : Need) : Steady (translate eng rctx va user n) :=
  .getC fun _ => .ite (.pure _) (steady_translateNow _ _ _ _ _)

theorem steady_reach (a : Acc) (va n : Nat) (need : Need) : Steady (reach a va n need) := by
  refine .getC fun c => .bind (steady_translate _ _ _ _ _) fun x => ?_
  cases x with
  | ok l =>
    refine .getC fun d => .ite (.pure _) ?_
    split
    · refine .getS fun s => ?_
      split <;> exact .pure _
    · refine .bind (steady_sealAccess _ _ _) fun a => ?_
      cases a <;> exact .pure _
  | fault c b => exact .pure _
  | wait => exact .pure _

end Sys2Proof.Machine
end

section
/-! SUPPORT. `callv` (R111): the entry that it pushes and the call that follows. -/

namespace Sys2Proof.Machine

section Steady

variable {α : Type} {m : M α} {r : Run}

theorem Steady.regs (h : Steady m) (r : Run) : SameRegs r.st (m r).2.st := by
  have he := congrArg Prod.fst (h r).1
  simp only [State.aside, Prod.mk.injEq] at he
  exact he

theorem Steady.teams (h : Steady m) (r : Run) : (m r).2.st.ctl.teams = r.st.ctl.teams :=
  congrArg (fun x => x.2.teams) (h r).1

theorem Steady.party {uid : Nat} {who : Who} {g : Group} (h : Steady m) (hg : r.st.ctl.Party uid who g) :
    (m r).2.st.ctl.Party uid who g := hg.congr (h.teams r)

theorem Steady.helperPlaces (h : Steady m) (r : Run) : (m r).2.st.ctl.helperPlaces = r.st.ctl.helperPlaces :=
  congrArg (fun x => x.2.helperPlaces) (h r).1

theorem steady_readCall (a : Acc) (pc : Word) : Steady (readCall a pc) := by
  refine .bind (steady_reach _ _ _ _) fun x => ?_
  cases x with
  | ok l => exact .getS fun _ => .pure _
  | trap q => exact .pure _
  | wait => exact .pure _

end Steady

/-! ### The lowest target -/

/-- The lowest of the targets of lanes. -/
def lowestTarget (ts : List (Nat × Word)) (x : Word) : Word := ts.foldl (fun m x => if x.2.toNat < m.toNat then x.2 else m) x

theorem lowestTarget_le (ts : List (Nat × Word)) (x : Word) :
    (lowestTarget ts x).toNat ≤ x.toNat ∧ ∀ t ∈ ts, (lowestTarget ts x).toNat ≤ t.2.toNat := by
  induction ts generalizing x with
  | nil => exact ⟨le_rfl, fun t ht => absurd ht List.not_mem_nil⟩
  | cons t ts ih =>
    obtain ⟨h1, h2⟩ := ih (if t.2.toNat < x.toNat then t.2 else x)
    have hle : (if t.2.toNat < x.toNat then t.2 else x).toNat ≤ x.toNat ∧
        (if t.2.toNat < x.toNat then t.2 else x).toNat ≤ t.2.toNat := by
      split <;> omega
    exact ⟨h1.trans hle.1, List.forall_mem_cons.2 ⟨h1.trans hle.2, h2⟩⟩

theorem lowestTarget_mem (ts : List (Nat × Word)) (x : Word) :
    lowestTarget ts x = x ∨ ∃ t ∈ ts, t.2 = lowestTarget ts x := by
  induction ts generalizing x with
  | nil => exact .inl rfl
  | cons t ts ih =>
    by_cases ht : t.2.toNat < x.toNat
    · have he : lowestTarget (t :: ts) x = lowestTarget ts t.2 := congrArg (List.foldl _ · ts) (if_pos ht)
      rw [he]
      obtain h | ⟨u, hu, h⟩ := ih t.2
      · exact .inr ⟨t, List.mem_cons_self, h.symm⟩
      · exact .inr ⟨u, List.mem_cons_of_mem _ hu, h⟩
    · have he : lowestTarget (t :: ts) x = lowestTarget ts x := congrArg (List.foldl _ · ts) (if_neg ht)
      rw [he]
      exact (ih x).imp_right fun ⟨u, hu, h⟩ => ⟨u, List.mem_cons_of_mem _ hu, h⟩

/-- Where there are lanes one of them holds the lowest target. -/
theorem exists_lowestTarget {ts : List (Nat × Word)} (h : ts ≠ []) : ∃ t ∈ ts, t.2 = lowestTarget ts allOnes := by
  refine (lowestTarget_mem ts allOnes).elim (fun he => ?_) id
  obtain ⟨t, ht⟩ := List.exists_mem_of_ne_nil _ h
  refine ⟨t, ht, BitVec.eq_of_toNat_eq (le_antisymm ?_ ((lowestTarget_le ts allOnes).2 t ht))⟩
  rw [he]
  exact Nat.le_of_lt_succ t.2.isLt

/-! ### The call of the lowest target -/

/-- The lanes that the next call takes out of the top entry's pending ones. -/
def Group.callLanes (m : Word) (g : Group) : Group :=
  { g with recon := match g.recon with
      | e :: r => { e with pmask := e.pmask &&& ~~~m } :: r
      | [] => [] }

/-- The next call of an entry, at the lowest of these targets. -/
def startCall (uid : Nat) (who : Who) (x : REnt) (depth : Nat) (ts : List (Nat × Word)) : M Unit := do
  let m := lowestTarget ts allOnes
  let cm := maskOf ((ts.filter (fun t => t.2 == m)).map (·.1))
  modGroup uid who (fun g => g.pushCall { pc := x.ppc ||| 1, depth := depth })
  modGroup uid who (Group.callLanes cm)
  startPath uid who m cm x.fcopy none

theorem movesPaths_startCall (uid : Nat) (who : Who) (x : REnt) (depth : Nat) (ts : List (Nat × Word)) :
    MovesPaths (startCall uid who x depth ts) :=
  .bind (movesPaths_modGroup _ _ _) fun _ => .bind (movesPaths_modGroup _ _ _) fun _ => movesPaths_startPath _ _ _ _ _ _

section Call

variable {a : Acc} {r r1 : Run} {g : Group} {x : REnt} {rest : List REnt} {cw : Word}

/-- The targets of an entry's pending lanes. -/
def callTargets (s : State) (a : Acc) (x : REnt) (gw sa : Nat) : List (Nat × Word) :=
  (lanesOf x.pmask gw).map (fun l => (l, callTarget s a.uid a.who sa l))

/-- The next call of the top entry, with a free place and its word read again. -/
theorem callvStep_room (h : r.st.ctl.Party a.uid a.who g) (hr : g.recon = x :: rest)
    (hc : readCall a x.ppc r = (.ok cw, r1)) (hn : g.ras.length < 8) :
    callvStep a r = (.ok (), (startCall a.uid a.who x g.nr (callTargets r.st a x g.width (wfld cw 39 31)) r1).2) := by
  have h1 : r1.st.ctl.Party a.uid a.who g := by
    have := (steady_readCall a x.ppc).party h
    rwa [hc] at this
  rw [callvStep, bind_run, getS_run]
  dsimp only
  rw [h.party_eq, hr]
  dsimp only [List.head?_cons]
  rw [bind_run, hc]
  dsimp only
  rw [bind_run, pushRas_room h1 hn]
  rfl

theorem startCall_party {uid : Nat} {who : Who} (h : r.st.ctl.Party uid who g) (hr : g.recon = x :: rest) (depth : Nat)
    (ts : List (Nat × Word)) : let m := lowestTarget ts allOnes
    let cm := maskOf ((ts.filter (fun t => t.2 == m)).map (·.1))
    ∃ g', (startCall uid who x depth ts r).2.st.ctl.Party uid who g' ∧ g'.recon = { x with pmask := x.pmask &&& ~~~cm } :: rest ∧
      g'.ras = { pc := x.ppc ||| 1, depth := depth } :: g.ras ∧
      g'.Launched g.nextPid r.st.ctl.helperPlaces g.recruit m cm x.fcopy := by
  intro m cm
  obtain ⟨g', h', hg⟩ := startPath_party (modGroup_party (f := Group.callLanes cm)
    (modGroup_party (f := fun g => g.pushCall { pc := x.ppc ||| 1, depth := depth }) h fun _ => rfl) fun _ => rfl) m cm x.fcopy none
  refine ⟨g', h', hg.recon.trans ?_, hg.ras, hg.launched⟩
  simp only [Group.callLanes, Group.pushCall, hr]

end Call

/-! ### `callv` -/

theorem lt_of_gwMask {gw l : Nat} (h : (gwMask gw).getLsbD l = true) : l < gw := by
  rw [gwMask, wd, BitVec.getLsbD_ofNat, Nat.testBit_two_pow_sub_one] at h
  exact of_decide_eq_true (Bool.and_eq_true_iff.1 h).2

/-- The entry that a `callv` pushes. -/
def Env.callEntry (e : Env) : REnt :=
  { jpc := e.cur.npc, jmask := e.p.act, arr := e.p.act &&& ~~~e.ex, ppc := e.cur.pc, pmask := e.ex, pfmt := 0,
    fcopy := e.p.fmt, kind := .callv, ppark := none }

/-- The path of a `callv` ends and leaves its entry. -/
def Env.enters (e : Env) : M Unit := do
  demote e.uid e.g.who e.p.pid
  modGroup e.uid e.g.who (fun g => g.pushEntry e.callEntry)
  endPath e.uid e.g.who e.p.pid

theorem movesPaths_enters (e : Env) : MovesPaths e.enters :=
  .bind (movesPaths_demote _ _ _) fun _ => .bind (movesPaths_modGroup _ _ _) fun _ => movesPaths_endPath _ _ _

section Callv

variable {f : Fields} {cur : Cur} {s : State}

/-- An executing lane is one of the group's. -/
theorem lanesOf_envOf_ne_nil (h : (envOf s cur f).ex ≠ 0) : lanesOf (envOf s cur f).ex (envOf s cur f).gw ≠ [] := by
  obtain ⟨l, hl⟩ : ∃ l, (envOf s cur f).ex.getLsbD l = true := by
    by_contra hn
    exact h (BitVec.eq_of_getLsbD_eq fun l _ => by simpa using not_exists.1 hn l)
  refine List.ne_nil_of_mem (a := l) (List.mem_filter.2 ⟨List.mem_range.2 (lt_of_gwMask ?_), hl⟩)
  rw [show (envOf s cur f).ex = _ &&& gwMask (envOf s cur f).gw from rfl, BitVec.getLsbD_and] at hl
  exact (Bool.and_eq_true _ _ ▸ hl).2

/-- The source of a `callv` is a pair of lane registers. -/
theorem callv_source (h : Executes (.callv f) f cur s) : f.sa.toNat < 256 := by
  have hf : (_ ++ (need (f.mod == 0 && f.sc == 0) 7 ++ vForm f.sa.toNat true) : List Nat) = [] := h.faults_eq
  obtain ⟨-, hv⟩ := List.append_eq_nil_iff.1 (List.append_eq_nil_iff.1 hf).2
  unfold vForm at hv
  split at hv
  · assumption
  · split at hv <;> cases hv

/-- A `callv` whose lanes all hold a code address. -/
theorem exec_callv (h : Executes (.callv f) f cur s) (hx : (envOf s cur f).ex ≠ 0)
    (ht : ∀ l ∈ lanesOf (envOf s cur f).ex (envOf s cur f).gw, (envOf s cur f).opnd f.sa.toNat l true 0 ≠ 0 ∧
      ((envOf s cur f).opnd f.sa.toNat l true 0).toNat % 4 = 0) :
    exec (.callv f) s = issue (.callv f) f (fun e => do
      let x ← attempt (do
        demote e.uid e.g.who e.p.pid
        match ← pushRecon e.acc e.callEntry with
        | .trap r => return .trap r
        | .wait => return .wait
        | .ok _ => do
          endPath e.uid e.g.who e.p.pid
          callvStep e.acc)
      return x.res .jump) s := by
  refine issue_congr h ?_
  have hf : (lanesOf (envOf s cur f).ex (envOf s cur f).gw).filter
      (fun l => ((envOf s cur f).opnd f.sa.toNat l true 0).toNat == 0 || ((envOf s cur f).opnd f.sa.toNat l true 0).toNat % 4 != 0) =
      [] := by
    refine List.filter_eq_nil_iff.2 fun l hl => ?_
    obtain ⟨h0, h4⟩ := ht l hl
    have hz : ((envOf s cur f).opnd f.sa.toNat l true 0).toNat ≠ 0 := fun hz => h0 (BitVec.eq_of_toNat_eq hz)
    simp only [h4, beq_eq_false_iff_ne.2 hz]
    decide
  obtain ⟨l, ls, hls⟩ := List.exists_cons_of_ne_nil (lanesOf_envOf_ne_nil hx)
  dsimp only
  rw [hf, hls]
  rfl

/-- The group once the path of a `callv` has ended. -/
def Env.entered (e : Env) : Group := ((e.g.demote e.p.pid).pushEntry e.callEntry).without e.p.pid

theorem enters_party (h : s.ctl.stands cur.p = true) : ((envOf s cur f).enters { st := s, log := [] }).2.st.ctl.Party
    (envOf s cur f).uid (envOf s cur f).g.who (envOf s cur f).entered :=
  endPath_party (modGroup_party (f := fun g => g.pushEntry (envOf s cur f).callEntry) (demote_party (f := f) h [])
    fun _ => rfl) (envOf s cur f).p.pid

theorem nr_entered (e : Env) : e.entered.nr = e.g.nr + 1 := by
  have h : e.entered.nr = (e.g.demote e.p.pid).nr + 1 := Nat.add_right_comm _ _ _
  rw [h, nr_demote]

/-- The targets of the executing lanes. -/
def Env.calls (e : Env) : List (Nat × Word) := (lanesOf e.ex e.gw).map (fun l => (l, e.opnd e.f.sa.toNat l true 0))

/-- The path ends, its word is read again and the lowest target is called. -/
def Env.callsLowest (e : Env) : M Unit := startCall e.uid e.g.who e.callEntry (e.g.nr + 1) e.calls

/-- The target of a lane is read from its registers. -/
theorem callTarget_eq {t : State} {sa : Nat} (hv : t.v = s.v) (hh : (envOf s cur f).p.helper = none) (hsa : sa < 256) (l : Nat) :
    callTarget t (envOf s cur f).uid (envOf s cur f).g.who sa l = (envOf s cur f).opnd sa l true 0 := by
  have hvp : (envOf s cur f).vp = (envOf s cur f).g.who.idx := by rw [Env.vp, hh]; rfl
  rw [Env.opnd, if_pos hsa, if_pos rfl, Env.v, Env.v, hvp, callTarget, hv]
  rfl

theorem callTargets_eq {t : State} (h : Executes (.callv f) f cur s) (hv : t.v = s.v) :
    callTargets t (envOf s cur f).acc (envOf s cur f).callEntry (envOf s cur f).entered.width f.sa.toNat = (envOf s cur f).calls := by
  have hw : (envOf s cur f).entered.width = (envOf s cur f).gw := by
    rw [Env.entered, Group.demote_eq]
    rfl
  rw [callTargets, hw]
  exact List.map_congr_left fun l _ => congrArg (Prod.mk l) (callTarget_eq hv (h.helper_none rfl) (callv_source h) l)

/-- The lanes of one target. -/
theorem calls_filter (e : Env) (m : Word) : (e.calls.filter (fun t => t.2 == m)).map (·.1) =
    (lanesOf e.ex e.gw).filter (fun l => e.opnd e.f.sa.toNat l true 0 == m) := by
  rw [Env.calls, List.filter_map, List.map_map]
  exact List.map_id _

variable {cw : Word} {r1 : Run}

/-- A `callv` with free places, whose word can be read again. -/
theorem callv_steps (h : Executes (.callv f) f cur s) (hrl : (envOf s cur f).g.recon.length < 16)
    (hral : (envOf s cur f).g.ras.length < 8)
    (hc : readCall (envOf s cur f).acc cur.pc ((envOf s cur f).enters { st := s, log := [] }).2 = (.ok cw, r1))
    (hw : wfld cw 39 31 = f.sa.toNat) :
    (do
      demote (envOf s cur f).uid (envOf s cur f).g.who (envOf s cur f).p.pid
      match ← pushRecon (envOf s cur f).acc (envOf s cur f).callEntry with
      | .trap r => return .trap r
      | .wait => return .wait
      | .ok _ => do
        endPath (envOf s cur f).uid (envOf s cur f).g.who (envOf s cur f).p.pid
        callvStep (envOf s cur f).acc : M (Got Unit)) { st := s, log := [] } = (.ok (), ((envOf s cur f).callsLowest r1).2) := by
  obtain ⟨-, -, hras, -⟩ := (envOf s cur f).g.demote_keeps (envOf s cur f).p.pid
  have hd := demote_party (f := f) h.stands []
  have hP := enters_party (f := f) h.stands
  have hv : ((envOf s cur f).enters { st := s, log := [] }).2.st.v = s.v := ((movesPaths_enters _).sameStores _).2.1
  have hs := callvStep_room (a := (envOf s cur f).acc) hP rfl hc (hras ▸ hral)
  rw [bind_run, bind_run, pushRecon_room (a := (envOf s cur f).acc) hd (by rwa [Group.length_recon_demote])]
  dsimp only
  rw [hw, nr_entered, callTargets_eq h hv] at hs
  exact hs

/-- The group after the call, which the path of the lowest target starts. -/
theorem callsLowest_party (h : s.ctl.stands cur.p = true)
    (hc : readCall (envOf s cur f).acc cur.pc ((envOf s cur f).enters { st := s, log := [] }).2 = (.ok cw, r1)) :
    let e := envOf s cur f
    let m := lowestTarget e.calls allOnes
    let cm := maskOf ((lanesOf e.ex e.gw).filter (fun l => e.opnd f.sa.toNat l true 0 == m))
    ∃ g, (e.callsLowest r1).2.st.ctl.Party e.uid e.g.who g ∧
      g.recon = { e.callEntry with pmask := e.ex &&& ~~~cm } :: e.g.demoted e.p.pid ∧
      g.ras = { pc := cur.pc ||| 1, depth := e.g.nr + 1 } :: e.g.ras ∧
      g.Launched e.g.nextPid s.ctl.helperPlaces e.g.recruit m cm e.p.fmt := by
  intro e m cm
  obtain ⟨hnext, hrecruit, hras, -⟩ := e.g.demote_keeps e.p.pid
  have hcm : maskOf ((e.calls.filter (fun t => t.2 == m)).map (·.1)) = cm := congrArg maskOf (calls_filter e m)
  have hP := (steady_readCall e.acc cur.pc).party (enters_party (f := f) h)
  have hrec := (steady_readCall e.acc cur.pc).helperPlaces (e.enters { st := s, log := [] }).2
  rw [show readCall e.acc cur.pc (e.enters { st := s, log := [] }).2 = _ from hc] at hP hrec
  obtain ⟨g, hg, hrecon, hgras, hstart⟩ := startCall_party hP rfl (e.g.nr + 1) e.calls
  rw [hcm] at hrecon hstart
  refine ⟨g, hg, ?_, ?_, ?_⟩
  · rw [hrecon, ← Group.recon_demote]
    rfl
  · rw [hgras, ← hras]
    rfl
  · rw [← hnext, ← hrecruit, ← show _ = s.ctl.helperPlaces from (movesPaths_enters e).helperPlaces { st := s, log := [] }, ← hrec]
    exact hstart

/-- `callv` (R111). -/
theorem callvCallsTheLowestTarget : Claims.CallvCallsTheLowestTarget := by
  intro f cur s s0 s1 cw h e entry target ls hx htg hrl hral hR hC hw
  obtain ⟨log0, hr0⟩ := hR []
  replace hr0 : (e.enters { st := s, log := [] }).2.st = s0 := congrArg (fun x => x.2.st) hr0
  obtain ⟨r1, hc, hr1, ht1⟩ := hC.run (steady_readCall _ _).records hr0 ((movesPaths_enters e _).2 s rfl)
  obtain ⟨g, hg, hrecon, hras, hstart⟩ := callsLowest_party h.stands hc
  obtain ⟨t, ht, hst, hgt⟩ := exec_jumps_from (n := e.callsLowest) h (exec_callv h hx htg) (callv_steps h hrl hral hc hw) ht1
    (movesPaths_startCall _ _ _ _ _) hg
  obtain ⟨u, hu, hmu⟩ := exists_lowestTarget (ts := e.calls) (fun h0 => lanesOf_envOf_ne_nil hx (List.map_eq_nil_iff.1 h0))
  refine ⟨t, lowestTarget e.calls allOnes, ht, hr1 ▸ hst.1, ?_, ?_, fun l hl => ?_, ?_, ?_, started_of_launched hgt hstart⟩
  · have hs0 := (movesPaths_enters e).sameStores { st := s, log := [] }
    have hs1 := (steady_readCall e.acc cur.pc).regs (e.enters { st := s, log := [] }).2
    rw [hc] at hs1
    exact hs0.2.trans (hs1.trans hst.2)
  · obtain ⟨l, hl, rfl⟩ := List.mem_map.1 hu
    exact ⟨l, hl, hmu⟩
  · exact (lowestTarget_le e.calls allOnes).2 _ (List.mem_map.2 ⟨l, hl, rfl⟩)
  · rw [hgt]
    exact hrecon
  · rw [hgt]
    exact hras

end Callv

/-- Settles O19: a call and a return move the path as `transfers` says; a `callv` ends it, and the settling stack starts the calls. -/
theorem callsAndReturns : Obligations.CallsAndReturns :=
  ⟨callsPushTheReturnAddress, retPopsTheReturnAddress, callvCallsTheLowestTarget⟩

end Sys2Proof.Machine
end

section
/-! SUPPORT. The spill stack: `spush` and `spop` (R113, R115). -/

namespace Sys2Proof.Machine

/-! ### What the lanes' accesses leave -/

theorem steady_reachEach (eng : EngineId) (rctx : Nat) (user : Bool) (n : Need) (xs : List (Nat × Nat)) :
    Steady (reachEach eng rctx user n xs) := by
  induction xs with
  | nil => exact .pure _
  | cons x xs ih =>
    refine .bind (steady_translate _ _ _ _ _) fun y => .bind ih fun _ => ?_
    cases y <;> exact .pure _

theorem steady_reachLanes (e : Env) (xs : List (Nat × Nat)) (n : Need) : Steady (e.reachLanes xs n) := by
  refine .bind (steady_reachEach _ _ _ _ _) fun _ => .ite (.pure _) ?_
  split <;> exact .pure _

/-! ### A posted entry -/

/-- The stores and the entries of the pending queues. -/
def State.storesEntries (s : State) : State × List Entry := (s.stores, s.ctl.entries)

theorem keeps_storesEntries_modC {f : Ctl → Ctl} (h : ∀ c, (f c).entries = c.entries) : Keeps State.storesEntries (modC f) :=
  Keeps.modC fun s => by simp only [State.storesEntries, h]; rfl

theorem keeps_storesEntries_demote (uid : Nat) (who : Who) (pid : Nat) : Keeps State.storesEntries (demote uid who pid) := by
  refine .bind (.getC fun _ => .pure _) fun g => ?_
  split
  · exact .pure _
  · next o _ =>
    refine .bind (keeps_storesEntries_modC fun _ => rfl) fun _ =>
      .bind (.getC fun _ => .forEach fun _ => keeps_storesEntries_modC fun _ => rfl) fun _ =>
      .bind (keeps_storesEntries_modC fun _ => rfl) fun _ => ?_
    cases o.helper with
    | none => exact .pure _
    | some id => exact keeps_storesEntries_modC fun _ => rfl

/-- A part of a meaning only posts one entry of the path, of this kind and with these elements. -/
def Env.Posts (e : Env) (m : M Unit) (act : Act) (els : List Elem) : Prop :=
  ∀ r, ∃ n x, (m r).2.st = r.st.appended n [x] ∧ e.owns x ∧ x.act = act ∧ x.els = els

section Posts

variable {e : Env}

theorem posts_reads (hh : e.p.helper = none) (xs : List (Nat × Loc × Nat)) (n : Nat) (sgn sb : Bool) (cnt : Option Nat) :
    e.Posts (e.postReads xs n sgn sb cnt) .read (xs.map (fun x =>
      { lane := x.1, loc := x.2.1, n := n, vs := 0, va := x.2.2, data := 0, data2 := 0, sink := e.sinkFor x.1 (8 * n) sgn sb })) := by
  intro r
  rw [Env.postReads, bind_run, Env.append, hh]
  exact ⟨_, _, rfl, ⟨rfl, rfl, rfl, rfl, rfl⟩, rfl, rfl⟩

theorem posts_writes (hh : e.p.helper = none) (xs : List (Nat × Loc × Nat × Nat)) (n : Nat) :
    e.Posts (e.postWrites xs n) .write ((highest xs).map (fun x =>
      { lane := x.1, loc := x.2.1, n := n, vs := 0, va := x.2.2.1, data := wd x.2.2.2, data2 := 0, sink := .none })) := by
  intro r
  rw [Env.postWrites, bind_run, Env.append, hh]
  exact ⟨_, _, rfl, ⟨rfl, rfl, rfl, rfl, rfl⟩, rfl, rfl⟩

/-- Which lanes' stores stand depends on their locations only. -/
theorem highest_map {α β : Type} (F : Nat × Loc × α → β) (xs : List (Nat × Loc × α)) :
    highest (xs.map (fun x => (x.1, x.2.1, F x))) = (highest xs).map (fun x => (x.1, x.2.1, F x)) := by
  induction xs with
  | nil => rfl
  | cons x xs ih =>
    have h : (xs.map (fun x => (x.1, x.2.1, F x))).any (fun y => y.2.1 == x.2.1) = xs.any (fun y => y.2.1 == x.2.1) := List.any_map
    rw [List.map_cons, highest, highest, ih, h]
    split
    · rfl
    · rfl

theorem entriesOf_of_helper (hh : e.p.helper = none) (els : List Elem) : e.entriesOf els = [els] :=
  if_neg fun h => by rw [hh] at h; exact Bool.false_ne_true h.1

end Posts

/-! ### A record moves -/

/-- The party with a moved DSP. -/
def Group.moveDsp (dsp : Word → Word) (g : Group) : Group := { g with dsp := dsp g.dsp }

/-- A live pair is divided, entries are posted and DSP moves. -/
def Env.spills (e : Env) (post : M Unit) (dsp : Word → Word) : M Unit := do
  demote e.uid e.g.who e.p.pid
  post
  modGroup e.uid e.g.who (Group.moveDsp dsp)

section Spills

variable {i : Instr} {f : Fields} {cur : Cur} {s : State} {r : Run} {post : M Unit} {act : Act} {els : List Elem} {dsp : Word → Word}

theorem demote_party_of_teams (h : s.ctl.stands cur.p = true) (ht : r.st.ctl.teams = s.ctl.teams) :
    (demote (envOf s cur f).uid (envOf s cur f).g.who (envOf s cur f).p.pid r).2.st.ctl.Party
      (envOf s cur f).uid (envOf s cur f).g.who ((envOf s cur f).g.demote (envOf s cur f).p.pid) := by
  rw [envOf_uid h, envOf_who h, envOf_pid h]
  obtain ⟨t, hs⟩ := demote_shows ((Ctl.shows_of_stands h).congr ht)
  exact hs.holds

/-- The group and the entries after a record has moved. -/
theorem spills_leaves (h : s.ctl.stands cur.p = true) (ht : r.st.ctl.teams = s.ctl.teams) (hp : (envOf s cur f).Posts post act els) :
    let e := envOf s cur f
    let u := (e.spills post dsp r).2.st
    SameStores r.st u ∧ u.ctl.Party e.uid e.g.who ((e.g.demote e.p.pid).moveDsp dsp) ∧
      ∃ x, u.ctl.entries = r.st.ctl.entries ++ [x] ∧ e.owns x ∧ x.act = act ∧ x.els = els := by
  intro e u
  have hk := (keeps_storesEntries_demote e.uid e.g.who e.p.pid r).1
  have hP := demote_party_of_teams (f := f) h ht
  obtain ⟨n, x, hx, hown⟩ := hp (demote e.uid e.g.who e.p.pid r).2
  have hm : (post (demote e.uid e.g.who e.p.pid r).2).2.st.ctl.Party e.uid e.g.who (e.g.demote e.p.pid) := by
    rw [hx]
    exact hP.congr rfl
  refine ⟨?_, modGroup_party (f := Group.moveDsp dsp) hm fun _ => rfl, x, ?_, hown⟩
  · refine sameStores_of_stores ((show u.stores = (post (demote e.uid e.g.who e.p.pid r).2).2.st.stores from rfl).trans ?_)
    rw [hx]
    exact congrArg Prod.fst hk
  · refine (show u.ctl.entries = (post (demote e.uid e.g.who e.p.pid r).2).2.st.ctl.entries from rfl).trans ?_
    rw [hx]
    exact congrArg (· ++ [x]) (congrArg Prod.snd hk)

/-- An instruction that moves a record once the accesses of its lanes translate. -/
theorem exec_spills {body : Env → M Res} (h : Executes i f cur s) (hi : exec i s = issue i f body s)
    (hb : body (envOf s cur f) { st := s, log := [] } = (.done, ((envOf s cur f).spills post dsp r).2)) (ht : r.Tied s)
    (hr : Records post) (hteams : r.st.ctl.teams = s.ctl.teams) (hp : (envOf s cur f).Posts post act els)
    (hf : finish i (envOf s cur f) .done = modC (fun c => c.leave cur.p ((envOf s cur f).after i.last none))) :
    let e := envOf s cur f
    ∃ (t : State) (x : Entry), exec i s = .next t ∧ SameStores r.st t ∧ GoesOn cur s t ∧ (t.groupOf cur.p).dsp = dsp e.g.dsp ∧
      (t.groupOf cur.p).recon = e.g.demoted e.p.pid ∧ t.ctl.entries = r.st.ctl.entries ++ [x] ∧ e.owns x ∧ x.act = act ∧
      x.els = els := by
  intro e
  obtain ⟨hst, hP, x, hx, hown⟩ := spills_leaves (dsp := dsp) h.stands hteams hp
  have hrec : Records (e.spills post dsp) :=
    .bind (movesPaths_demote _ _ _).records fun _ => .bind hr fun _ => (movesPaths_modGroup _ _ _).records
  obtain ⟨t, hn, hs, hentries, hcur, hgt⟩ := exec_completes_party h hi hb ((hrec r).2 s ht) hf hP
  have hpath := pathOf_of_left (f := f) h.stands hgt (fun _ => rfl) (find?_demote h.stands)
  refine ⟨t, x, hn, hst.trans hs, ⟨hcur, by rw [hpath]; rfl, by rw [hpath]; rfl, by rw [hpath]; rfl⟩, ?_, ?_, hentries.trans hx,
    hown⟩
  · rw [hgt]
    exact congrArg dsp (e.g.demote_keeps e.p.pid).2.2.2.2
  · rw [hgt]
    exact Group.recon_demote _ _

end Spills

/-! ### `spush` and `spop` -/

theorem records_postWrites (e : Env) (hh : e.p.helper = none) (xs : List (Nat × Loc × Nat × Nat)) (n : Nat) :
    Records (e.postWrites xs n) := by
  refine .bind records_freshId fun _ => ?_
  rw [Env.append, hh]
  exact .bind records_freshId fun _ => records_modC _

theorem records_postReads (e : Env) (hh : e.p.helper = none) (xs : List (Nat × Loc × Nat)) (n : Nat) (sgn sb : Bool)
    (cnt : Option Nat) : Records (e.postReads xs n sgn sb cnt) := by
  refine .bind records_freshId fun _ => ?_
  rw [Env.append, hh]
  exact .bind records_freshId fun _ => records_modC _

section Records

variable {f : Fields} {cur : Cur} {s s1 : State} {os : List (Nat × Loc)}

/-- On no lane a record stays where it is. -/
theorem spill_none {i : Instr} (hi : i = .spush f ∨ i = .spop f) (h : Executes i f cur s) (hx : (envOf s cur f).ex = 0) :
    ∃ t, exec i s = .next t ∧ OnlyGoesOn i (envOf s cur f) s t := by
  obtain rfl | rfl := hi
  · exact ⟨_, exec_completes (body := fun _ => pure .done) (lat := none) h (issue_congr h (if_pos hx)) rfl rfl rfl, rfl⟩
  · exact ⟨_, exec_completes (body := fun _ => pure .done) (lat := none) h (issue_congr h (if_pos hx)) rfl rfl rfl, rfl⟩

/-- The state once the accesses of the lanes translate. -/
theorem reaches_run {xs : List (Nat × Nat)} {n : Need} (h : (envOf s cur f).Reaches xs n os s1) :
    ∃ r1, attempt ((envOf s cur f).reachLanes xs n) { st := s, log := [] } = (.ok os, r1) ∧ r1.st = s1 ∧ r1.Tied s ∧
      r1.st.ctl.teams = s.ctl.teams := by
  have hs := steady_reachLanes (envOf s cur f) xs n
  obtain ⟨r1, hr, hst, ht⟩ := Runs.run h hs.records (r := { st := s, log := [] }) rfl rfl
  have hteams := hs.teams { st := s, log := [] }
  rw [hr] at hteams
  exact ⟨r1, attempt_ok hr, hst, ht, hteams⟩

/-- A `spush` with room. -/
theorem spush_posts (h : Executes (.spush f) f cur s) (hx : (envOf s cur f).ex ≠ 0) : let e := envOf s cur f
    let z := e.spillSize f.sa.toNat
    let xs := e.spillLanes f.sa.toNat e.g.dsp.toNat z.2
    e.g.dsp.toNat + z.1 + e.g.cb ≤ (s.csrOf e.uid e.g.who.idx 5).toNat →
    e.Reaches xs { rd := false, wr := true, x := false } os s1 → s1.ctl.refusedWrites e.t s1 xs = [] →
    ∃ (t : State) (x : Entry), exec (.spush f) s = .next t ∧ SameStores s1 t ∧ GoesOn cur s t ∧
      (t.groupOf cur.p).dsp = e.g.dsp + wd z.1 ∧ (t.groupOf cur.p).recon = e.g.demoted e.p.pid ∧
      t.ctl.entries = s1.ctl.entries ++ [x] ∧ e.owns x ∧ x.act = .write ∧
      x.els = (highest (joinLocs os xs)).map (fun x =>
        { lane := x.1, loc := x.2.1, n := z.2, vs := 0, va := x.2.2,
          data := wd ((e.opnd f.sa.toNat x.1 (z.2 == 8) 0).toNat % 2 ^ (8 * z.2)), data2 := 0, sink := .none }) := by
  intro e z xs hroom hR href
  obtain ⟨r1, hr, rfl, ht, hteams⟩ := reaches_run hR
  have hh := h.helper_none (b := 0x63) rfl
  have hp := posts_writes hh ((joinLocs os xs).map (fun x =>
    (x.1, x.2.1, x.2.2, (e.opnd f.sa.toNat x.1 (z.2 == 8) 0).toNat % 2 ^ (8 * z.2)))) z.2
  rw [highest_map (fun x => (x.2.2, (e.opnd f.sa.toNat x.1 (z.2 == 8) 0).toNat % 2 ^ (8 * z.2))), List.map_map] at hp
  refine exec_spills (dsp := fun d => d + wd z.1) h rfl ?_ ht (records_postWrites e hh _ _) hteams hp rfl
  dsimp only [xs, z, e] at hr href
  dsimp only
  rw [if_neg hx]
  refine (congrFun (if_neg (not_lt.2 hroom)) _).trans ?_
  rw [bind_run, hr]
  dsimp only
  rw [bind_run, getC_run, bind_run, getS_run]
  dsimp only
  rw [href]
  rfl

/-- A `spop` of a record that the stack holds. -/
theorem spop_posts (h : Executes (.spop f) f cur s) (hx : (envOf s cur f).ex ≠ 0) : let e := envOf s cur f
    let z := e.spillSize f.dst.toNat
    let xs := e.spillLanes f.dst.toNat (e.g.dsp.toNat - z.1) z.2
    (s.csrOf e.uid e.g.who.idx 4).toNat + z.1 ≤ e.g.dsp.toNat →
    e.Reaches xs { rd := true, wr := false, x := false } os s1 →
    ∃ (t : State) (x : Entry), exec (.spop f) s = .next t ∧ SameStores s1 t ∧ GoesOn cur s t ∧
      (t.groupOf cur.p).dsp = e.g.dsp - wd z.1 ∧ (t.groupOf cur.p).recon = e.g.demoted e.p.pid ∧
      t.ctl.entries = s1.ctl.entries ++ [x] ∧ e.owns x ∧ x.act = .read ∧
      x.els = (joinLocs os xs).map (fun x =>
        { lane := x.1, loc := x.2.1, n := z.2, vs := 0, va := x.2.2, data := 0, data2 := 0,
          sink := e.sinkFor x.1 (8 * z.2) false true }) := by
  intro e z xs hroom hR
  obtain ⟨r1, hr, rfl, ht, hteams⟩ := reaches_run hR
  have hh := h.helper_none (b := 0x63) rfl
  refine exec_spills (dsp := fun d => d - wd z.1) h rfl ?_ ht (records_postReads e hh _ _ _ _ _) hteams
    (posts_reads hh (joinLocs os xs) z.2 false true none) rfl
  dsimp only [xs, z, e] at hr
  dsimp only
  rw [if_neg hx]
  refine (congrFun (if_neg (not_lt.2 hroom)) _).trans ?_
  rw [bind_run, hr]
  rfl

end Records

/-- Settles O21: one entry of the record's lanes is posted, and DSP moves by the record's size. -/
theorem spillStackMovesRecords : Obligations.SpillStackMovesRecords := by
  intro f cur s s1 os e d
  refine ⟨fun i hi h hx => spill_none hi h hx, ?_, ?_⟩
  · intro z xs h hx hroom hR href
    obtain ⟨t, x, ht, hst, hgo, hdsp, hrec, hen, hown, hact, hels⟩ := spush_posts h hx hroom hR href
    refine ⟨t, [x], ht, hst, hgo, hdsp, hrec, hen, List.forall_mem_singleton.2 ⟨hown, hact⟩, ?_⟩
    rw [entriesOf_of_helper (h.helper_none (b := 0x63) rfl), List.map_singleton, hels]
  · intro z xs h hx hroom hR
    obtain ⟨t, x, ht, hst, hgo, hdsp, hrec, hen, hown, hact, hels⟩ := spop_posts h hx hroom hR
    refine ⟨t, [x], ht, hst, hgo, hdsp, hrec, hen, List.forall_mem_singleton.2 ⟨hown, hact⟩, ?_⟩
    rw [entriesOf_of_helper (h.helper_none (b := 0x63) rfl), List.map_singleton, hels]

end Sys2Proof.Machine
end

section
/-! SUPPORT. Instructions that go on once they have written their uniform register (R8, R45), whatever else of the machine they have
changed. -/

namespace Sys2Proof.Machine

section Effects

variable {i : Instr} {f : Fields} {cur : Cur} {s t : State} {d : Ctl} {t1 : Team} {g1 : Group} {last : Bool}
  {lat : Option (List Word)} {body : Env → M Res} {r1 : Run} {x : Word}

/-- A path whose lanes and formats its instruction has left goes on, whatever else of its group has changed. -/
theorem goesOn_of_shows (h : d.Shows cur.p t1 g1) (ht : t.ctl = d.leave cur.p ((envOf s cur f).after last lat))
    (ha : (g1.path cur.p.pid).act = (s.pathOf cur.p).act) (hf : (g1.path cur.p.pid).fmt = (s.pathOf cur.p).fmt) :
    GoesOn cur s t := by
  rw [GoesOn, pathOf_left h ht]
  exact ⟨by rw [ht]; rfl, rfl, ha, hf⟩

/-- A path goes on after an instruction that has left the teams alone. -/
theorem goesOn_of_teams (hs : s.ctl.stands cur.p = true) (hd : d.teams = s.ctl.teams)
    (ht : t.ctl = d.leave cur.p ((envOf s cur f).after last lat)) : GoesOn cur s t :=
  goesOn_of_shows ((Ctl.shows_of_stands hs).congr hd) ht rfl rfl

/-- Two meanings that run alike where an instruction executes are the same step of it. -/
theorem issue_congr_run (h : Executes i f cur s) {m n : Env → M Res}
    (he : m (envOf s cur f) { st := s, log := [] } = n (envOf s cur f) { st := s, log := [] }) : issue i f m s = issue i f n s := by
  rw [issue_of_executes h, issue_of_executes h]
  exact runM_congr (by rw [bind_run, bind_run, he])

/-- Lane and uniform registers of a machine whose stores are in canonical form. -/
theorem State.wf.vw (h : s.wf) : s.v.wf = true ∧ s.w.wf = true := by
  obtain ⟨-, ⟨hv, -, -, hw, -, -⟩, -⟩ := h
  exact ⟨hv, hw⟩

/-- The updates of a uniform destination write one uniform register, unless it is suppressed. -/
theorem applyAll_putWd (e : Env) (s : State) (x : Word) : applyAll s (e.putWd x) =
    { s with w := if e.f.ws then s.w else s.w.set (wKey e.uid e.home (wIndex (e.f.dst.toNat - 256) e.pl)) x } := by
  unfold Env.putWd
  split
  · rfl
  · rfl

theorem wroteW_of_putWd {e : Env} {u : State} (hw : s.w.wf = true) (hu : SameRegs s u) (ht : SameRegs (applyAll u (e.putWd x)) t) :
    WroteW e s t x := by
  rw [applyAll_putWd] at ht
  obtain ⟨tv, tvi, ta, tw, tk, tcsr⟩ := ht
  obtain ⟨uv, uvi, ua, uw, uk, ucsr⟩ := hu
  rw [uw] at tw
  refine ⟨fun hws => ?_, fun key hkey => ?_, tv.trans uv, tvi.trans uvi, ta.trans ua, tk.trans uk, tcsr.trans ucsr⟩
  · rw [State.wreg, tw, hws]
    exact Sparse.get_set_self _ _ _ hw
  · rw [tw]
    split
    · rfl
    · next hws => exact Sparse.get_set_ne _ _ _ _ (hkey.resolve_left hws)

/-- An instruction whose body leaves teams and registers alone until it writes its uniform destination, and completes. -/
theorem exec_writesWd (h : Executes i f cur s) (hs : s.wf) (hi : exec i s = issue i f body s)
    (hb : body (envOf s cur f) { st := s, log := [] } = (do
      emits ((envOf s cur f).putWd x)
      return .done : M Res) r1)
    (ht : r1.Tied s) (hteams : r1.st.ctl.teams = s.ctl.teams) (hregs : SameRegs s r1.st) :
    ∃ t, exec i s = .next t ∧ GoesOn cur s t ∧ SameBytes r1.st t ∧ WroteW (envOf s cur f) s t x ∧
      t.ctl.allocs = r1.st.ctl.allocs := by
  have hr : Records (emits ((envOf s cur f).putWd x)) := fun _ => .emits rfl
  have hst : (emits ((envOf s cur f).putWd x) r1).2.st = _ :=
    (congrArg (fun q => q.2.st) (emits_run _ r1)).trans (applyAll_putWd _ _ _)
  refine ⟨_, exec_completes (lat := none) h hi (hb.trans (bind_run _ _ _)) ((hr r1).2 s ht) rfl, ?_, ?_, ?_, ?_⟩
  · exact goesOn_of_teams h.stands (by rw [hst]; exact hteams) rfl
  · rw [hst]; exact ⟨rfl, rfl, rfl, rfl, rfl⟩
  · refine wroteW_of_putWd hs.vw.2 hregs ?_
    rw [applyAll_putWd, ← hst]
    exact ⟨rfl, rfl, rfl, rfl, rfl, rfl⟩
  · rw [hst]; rfl

/-- An instruction that only writes its uniform destination. -/
theorem exec_onlyWd (h : Executes i f cur s) (hs : s.wf) (hi : exec i s = issue i f body s)
    (hb : body (envOf s cur f) { st := s, log := [] } = (do
      emits ((envOf s cur f).putWd x)
      return .done : M Res) { st := s, log := [] }) :
    ∃ t, exec i s = .next t ∧ GoesOn cur s t ∧ SameBytes s t ∧ WroteW (envOf s cur f) s t x := by
  obtain ⟨t, ht, hgo, hby, hw, -⟩ := exec_writesWd h hs hi hb rfl rfl ⟨rfl, rfl, rfl, rfl, rfl, rfl⟩
  exact ⟨t, ht, hgo, hby, hw⟩

end Effects

end Sys2Proof.Machine
end

section
/-! SUPPORT. Regions of the die pool: `palloc` and `pfree` (R123, R133, R134). -/

namespace Sys2Proof.Machine

/-! ### Bytes of a region -/

theorem SameBytes.mem {s t : State} (h : SameBytes s t) (sp : Space) : t.mem sp = s.mem sp := by
  obtain ⟨hdm, hdp, htm, hhm, hrm⟩ := h
  cases sp
  · exact htm
  · exact hdp
  · exact hdm
  · exact hhm
  · exact hrm

/-- A wiped span reads zero, and every other byte stands. -/
theorem get_wipe (s : State) (sp' : Space) (lo hi : Nat) (sp : Space) (key : Nat) :
    ((applyUpd s (.wipe sp' lo hi)).mem sp).get key = if sp = sp' ∧ lo ≤ key ∧ key < hi then 0 else (s.mem sp).get key := by
  rw [show (applyUpd s (.wipe sp' lo hi)).mem sp = _ from State.mem_setMem s sp sp' _]
  by_cases h : sp = sp'
  · subst h
    rw [if_pos rfl, Sparse.get_clear]
    simp only [true_and]
  · rw [if_neg h, if_neg (fun hk => h hk.1)]

/-! ### A region is handed out (R133) -/

section Palloc

variable {f : Fields} {cur : Cur} {s : State}

/-- A region becomes live: its bytes and its selvage are zeroed, and no operand buffer holds an earlier value of them. -/
def openRegion (a : Alloc) : M Unit := do
  modC (fun c => { c.sweepFreed with allocs := c.sweepFreed.allocs ++ [a] })
  emit (.wipe .dp (a.die * 2 ^ 27 + a.base - 256) (a.die * 2 ^ 27 + a.base + a.size + 256))
  modC (fun c => c.dropOpAt (dpLoc a.die a.base) a.size)

theorem openRegion_run (a : Alloc) (r : Run) : let u := (openRegion a r).2
    (∀ s, r.Tied s → u.Tied s) ∧ u.st.ctl.teams = r.st.ctl.teams ∧ SameRegs r.st u.st ∧ a ∈ u.st.ctl.allocs ∧
      ∀ sp key, (u.st.mem sp).get key =
        if sp = .dp ∧ a.die * 2 ^ 27 + a.base - 256 ≤ key ∧ key < a.die * 2 ^ 27 + a.base + a.size + 256 then 0
        else (r.st.mem sp).get key := by
  intro u
  have hr : Records (openRegion a) := .bind (records_modC _) fun _ => .bind (fun _ => .emits (us := [_]) rfl) fun _ => records_modC _
  exact ⟨(hr r).2, rfl, ⟨rfl, rfl, rfl, rfl, rfl, rfl⟩, List.mem_append_right _ (List.mem_singleton.2 rfl), fun sp key =>
    get_wipe { r.st with ctl := _ } .dp _ _ sp key⟩

theorem keeps_of_undrawn {s u : State} (h : u.undrawn = s.undrawn) : u.ctl.teams = s.ctl.teams ∧ SameStores s u :=
  ⟨congrArg (fun x => x.ctl.teams) h, sameStores_of_stores (congrArg (fun x => x.stores) h)⟩

/-- The places among which a `palloc` that asks for a bytes chooses. -/
def Env.poolPlaces (e : Env) (c : Ctl) (a : Nat) : List Nat :=
  c.poolFits e.t.die (roundUp a 256) (if 4096 ≤ a then 4096 else 256) c.reserveBase

/-- A `palloc` of a bytes gets none: it asks for nothing or too much, or exceeds the quota. -/
abbrev Env.refusesPool (e : Env) (c : Ctl) (a : Nat) : Prop :=
  a = 0 ∨ 0x08000000 < a ∨ (c.ctx e.t.rctx).dpQuota < c.poolUsed e.t.rctx e.t.die + roundUp a 256 + 512

/-- The region that a `palloc` of a bytes hands out at a place. -/
def Env.regionAt (e : Env) (a base : Nat) : Alloc :=
  { die := e.t.die, base := base, size := roundUp a 256, rctx := e.t.rctx, live := true, freedAt := 0 }

/-- A `palloc` that answers without handing out a region. -/
def Env.answersWd (e : Env) (x : Word) : M Res := do
  emits (e.putWd x)
  return .done

/-- A `palloc` of a bytes hands out a region at one of these places, drawn freely. -/
def Env.opensOneOf (e : Env) (a b : Nat) (rest : List Nat) : M Res := do
  let k ← drawBelow (rest.length + 1)
  openRegion (e.regionAt a ((b :: rest).getD k b))
  e.answersWd (poolAddr e.t.die ((b :: rest).getD k b))

/-- A `palloc` that asks for a bytes. -/
def Env.asksFor (e : Env) (c : Ctl) (a : Nat) : M Res :=
  if e.refusesPool c a then e.answersWd 0
  else match e.poolPlaces c a with
    | [] => e.answersWd 0
    | b :: rest => e.opensOneOf a b rest

theorem Env.asksFor_nothing {e : Env} {c : Ctl} {a : Nat} (h : e.refusesPool c a ∨ e.poolPlaces c a = []) :
    e.asksFor c a = e.answersWd 0 := by
  by_cases hq : e.refusesPool c a
  · exact if_pos hq
  · rw [Env.asksFor, if_neg hq, h.resolve_left hq]

theorem Env.asksFor_region {e : Env} {c : Ctl} {a b : Nat} {rest : List Nat} (h : ¬e.refusesPool c a)
    (hp : e.poolPlaces c a = b :: rest) : e.asksFor c a = e.opensOneOf a b rest := by
  rw [Env.asksFor, if_neg h, hp]

theorem exec_palloc (h : Executes (.palloc f) f cur s) (hm : f.mod.getLsbD 0 = false) :
    exec (.palloc f) s = issue (.palloc f) f (fun e => e.asksFor s.ctl (e.usrc f.sa.toNat).toNat) s := by
  refine issue_congr_run h ((congrFun (if_neg (by rw [hm]; exact Bool.false_ne_true)) _).trans ?_)
  by_cases hq : (envOf s cur f).refusesPool s.ctl ((envOf s cur f).usrc f.sa.toNat).toNat
  · rw [Env.asksFor_nothing (.inl hq)]
    exact congrFun (if_pos hq) _
  · refine (congrFun (if_neg hq) _).trans ?_
    cases hp : (envOf s cur f).poolPlaces s.ctl ((envOf s cur f).usrc f.sa.toNat).toNat with
    | nil =>
      rw [Env.asksFor_nothing (.inr hp)]
      rw [Env.poolPlaces] at hp
      rw [hp]
      rfl
    | cons b rest =>
      rw [Env.asksFor_region hq hp]
      rw [Env.poolPlaces] at hp
      rw [hp]
      rfl

theorem palloc_reservation (h : Executes (.palloc f) f cur s) (hs : s.wf) (hm : f.mod.getLsbD 0 = true) : let e := envOf s cur f
    ∃ t, exec (.palloc f) s = .next t ∧ GoesOn cur s t ∧ SameBytes s t ∧
      WroteW e s t (if e.t.hdr.dpool = 0 then 0 else poolAddr e.t.die e.t.resv) :=
  exec_onlyWd h hs rfl (congrFun (if_pos hm) _)

/-- A `palloc` that asks for nothing, too much or more than there is answers 0. -/
theorem palloc_answers (h : Executes (.palloc f) f cur s) (hs : s.wf) (hm : f.mod.getLsbD 0 = false) : let e := envOf s cur f
    let a := (e.usrc f.sa.toNat).toNat
    e.refusesPool s.ctl a ∨ e.poolPlaces s.ctl a = [] →
    ∃ t, exec (.palloc f) s = .next t ∧ GoesOn cur s t ∧ SameBytes s t ∧ WroteW e s t 0 :=
  fun hr => exec_onlyWd h hs (exec_palloc h hm) (congrFun (Env.asksFor_nothing hr) _)

/-- A `palloc` that finds a place. -/
theorem palloc_opens (h : Executes (.palloc f) f cur s) (hs : s.wf) (hm : f.mod.getLsbD 0 = false) : let e := envOf s cur f
    let a := (e.usrc f.sa.toNat).toNat
    ¬e.refusesPool s.ctl a → e.poolPlaces s.ctl a ≠ [] →
    ∃ (t : State) (base : Nat), exec (.palloc f) s = .next t ∧ GoesOn cur s t ∧ WroteW e s t (poolAddr e.t.die base) ∧
      base ∈ e.poolPlaces s.ctl a ∧ e.regionAt a base ∈ t.ctl.allocs ∧
      ∀ sp key, (t.mem sp).get key =
        if sp = .dp ∧ e.t.die * 2 ^ 27 + base - 256 ≤ key ∧ key < e.t.die * 2 ^ 27 + base + roundUp a 256 + 256 then 0
        else (s.mem sp).get key := by
  intro e a hq hne
  obtain ⟨b, rest, hp⟩ := List.exists_cons_of_ne_nil hne
  have hk := drawBelow_lt (Nat.succ_pos rest.length) { st := s, log := [] }
  have hd := onlyDraws_drawBelow (rest.length + 1) { st := s, log := [] }
  obtain ⟨k, r1, hdraw⟩ : ∃ k r1, drawBelow (rest.length + 1) { st := s, log := [] } = (k, r1) := ⟨_, _, rfl⟩
  rw [hdraw] at hk
  rw [KeepsAt, hdraw] at hd
  obtain ⟨hteams, hby, hregs⟩ := keeps_of_undrawn hd.1
  obtain ⟨htied, hteams2, hregs2, hmem, hget⟩ := openRegion_run (e.regionAt a ((b :: rest).getD k b)) r1
  have hrun : e.asksFor s.ctl a { st := s, log := [] } =
      e.answersWd (poolAddr e.t.die ((b :: rest).getD k b)) (openRegion (e.regionAt a ((b :: rest).getD k b)) r1).2 := by
    rw [Env.asksFor_region hq hp, Env.opensOneOf, bind_run, hdraw]
    rfl
  obtain ⟨t, ht, hgo, hsb, hw, hall⟩ := exec_writesWd h hs (exec_palloc h hm) hrun (htied s (hd.2 s rfl)) (hteams2.trans hteams)
    (hregs.trans hregs2)
  refine ⟨t, _, ht, hgo, hw, ?_, hall ▸ hmem, fun sp key => ?_⟩
  · rw [hp, List.getD_eq_getElem _ _ hk]
    exact List.getElem_mem hk
  · rw [hsb.mem, hget, hby.mem]
    rfl

end Palloc

/-! ### A region is given back (R134) -/

/-- After a change of paths that keeps their numbers, the same ones have a number. -/
theorem comp_pid {f : Path → Path} (hf : ∀ q, (f q).pid = q.pid) (n : Nat) :
    (fun q : Path => q.pid == n) ∘ f = fun q => q.pid == n :=
  funext fun q => by rw [Function.comp_apply, hf]

theorem Ctl.Shows.mapPaths {c d : Ctl} {p : PathId} {t : Team} {g : Group} {f : Path → Path} (h : c.Shows p t g)
    (hf : ∀ q, (f q).pid = q.pid) (hd : d.teams = c.teams.map (·.mapPaths f)) :
    d.Shows p (t.mapPaths f) { g with paths := g.paths.map f } := by
  refine ⟨hd ▸ List.find?_map.trans (congrArg (Option.map _) h.team), ?_, h.who, ?_⟩
  · have hp := h.party
    cases hw : p.who with
    | bobbin =>
      rw [hw] at hp
      exact congrArg (Option.map _) hp
    | group n =>
      rw [hw] at hp
      exact List.find?_map.trans (congrArg (Option.map _) hp)
  · rw [List.any_map, comp_pid hf]
    exact h.path

theorem Group.path_mapPaths {g : Group} {f : Path → Path} {n : Nat} (hf : ∀ q, (f q).pid = q.pid)
    (h : g.paths.any (fun q => q.pid == n) = true) : ({ g with paths := g.paths.map f } : Group).path n = f (g.path n) := by
  rw [Group.path, List.find?_map, comp_pid hf, Group.path, find?_eq_some_getD h default]
  rfl

/-- A path that waits on a barrier word in these bytes takes a trap instead, unless its wait has ended already. -/
def Path.doomIn (l : Loc) (n sub : Nat) (p : Path) : Path :=
  match p.park with
  | some k =>
    (match k.kind with
     | .barrier w _ _ =>
       if l.touches n w 16 && !k.released && k.doom.isNone then
         { p with park := some { k with doom := some (mkTrap 10 sub k.ex) } } else p
     | _ => p)
  | none => p

theorem doomWaiters_teams (l : Loc) (n sub : Nat) (r : Run) :
    (doomWaiters l n sub r).2.st.ctl.teams = r.st.ctl.teams.map (·.mapPaths (Path.doomIn l n sub)) := rfl

/-- A path whose wait ends in a trap changes in nothing but its park. -/
theorem Path.doomIn_eq (l : Loc) (n sub : Nat) (p : Path) : p.doomIn l n sub = { p with park := (p.doomIn l n sub).park } := by
  unfold Path.doomIn
  split
  · split
    · split
      · rfl
      · rfl
    · rfl
  · rfl

section Pfree

variable {f : Fields} {cur : Cur} {s : State}

/-- A region is live no more, and no word in it is bound. -/
def Ctl.closeRegion (c : Ctl) (r : Alloc) (id : Nat) : Ctl :=
  Ctl.loseJobs { c with
    allocs := c.allocs.map (fun x => if x == r then { x with live := false, freedAt := id } else x)
    bars := c.bars.filter (fun b => !b.loc.touches 16 (dpLoc r.die r.base) r.size) } (dpLoc r.die r.base) r.size

theorem Ctl.not_mem_closeRegion {c : Ctl} {r : Alloc} (id : Nat) (h : r.live = true) : r ∉ (c.closeRegion r id).allocs := by
  intro hm
  obtain ⟨x, -, hx⟩ := List.mem_map.1 hm
  split at hx
  · exact absurd (hx ▸ h : Alloc.live { x with live := false, freedAt := id } = true) Bool.false_ne_true
  · next hne => exact hne (beq_iff_eq.2 hx)

/-- The effect of a `pfree`. -/
def frees (r : Alloc) : M Unit := do
  let id ← freshId
  modC (fun c => c.closeRegion r id)
  doomWaiters (dpLoc r.die r.base) r.size 0x13

/-- The live region of the context on the path's die that lies at an address. -/
def Env.regionNamed (e : Env) (c : Ctl) (a : Nat) : Option Alloc :=
  c.allocs.find? (fun x => x.live && x.rctx == e.t.rctx && poolAddr x.die x.base == wd (a % 2 ^ 32) && x.die == e.t.die)

theorem exec_pfree {r : Alloc} (h : Executes (.pfree f) f cur s)
    (hr : (envOf s cur f).regionNamed s.ctl ((envOf s cur f).usrc f.sa.toNat).toNat = some r)
    (hb : ∀ o ∈ s.ctl.entries, o.isBar = true → ∀ x ∈ o.els, x.loc.touches x.n (dpLoc r.die r.base) r.size = false) :
    exec (.pfree f) s = issue (.pfree f) f (fun _ => do
      frees r
      return .done) s := by
  refine issue_congr_run h ?_
  rw [bind_run, getC_run]
  dsimp only
  rw [Env.regionNamed] at hr
  rw [hr]
  have hbusy : s.ctl.entries.any (fun o => o.isBar && o.els.any (fun x => x.loc.touches x.n (dpLoc r.die r.base) r.size)) = false :=
    List.any_eq_false.2 fun o ho hx => by
      simp only [Bool.and_eq_true, List.any_eq_true] at hx
      obtain ⟨hbar, y, hy, ht⟩ := hx
      exact absurd ((hb o ho hbar y hy).symm.trans ht) Bool.false_ne_true
  refine (congrFun (if_neg (by rw [hbusy]; exact Bool.false_ne_true)) _).trans ?_
  rfl

theorem pfree_closes {r : Alloc} (h : Executes (.pfree f) f cur s)
    (hr : (envOf s cur f).regionNamed s.ctl ((envOf s cur f).usrc f.sa.toNat).toNat = some r)
    (hb : ∀ o ∈ s.ctl.entries, o.isBar = true → ∀ x ∈ o.els, x.loc.touches x.n (dpLoc r.die r.base) r.size = false) :
    ∃ t, exec (.pfree f) s = .next t ∧ GoesOn cur s t ∧ SameStores s t ∧ r ∉ t.ctl.allocs ∧
      ∀ b ∈ t.ctl.bars, b.loc.touches 16 (dpLoc r.die r.base) r.size = false := by
  have hlive : r.live = true := by
    have hf := List.find?_some hr
    simp only [Bool.and_eq_true] at hf
    obtain ⟨⟨⟨hl, -⟩, -⟩, -⟩ := hf
    exact hl
  have hk : CtlOnly (frees r) :=
    .bind (.getC fun _ => .bind (fun _ => .setC rfl) fun _ => .pure _) fun _ => .bind (ctlOnly_modC _) fun _ => ctlOnly_modC _
  have hpid : ∀ q : Path, (q.doomIn (dpLoc r.die r.base) r.size 0x13).pid = q.pid := fun q => by rw [Path.doomIn_eq]
  have hs := Ctl.shows_of_stands h.stands
  have hpath := Group.path_mapPaths (f := Path.doomIn (dpLoc r.die r.base) r.size 0x13) hpid hs.path
  refine ⟨_, exec_completes (lat := none) h (exec_pfree h hr hb) (bind_run _ _ _) ((hk _).2 s rfl) rfl, ?_,
    sameStores_of_stores (hk { st := s, log := [] }).1, Ctl.not_mem_closeRegion _ hlive, fun b hb => ?_⟩
  · refine goesOn_of_shows (hs.mapPaths hpid (doomWaiters_teams _ _ _ _)) rfl ?_ ?_
    · rw [hpath, Path.doomIn_eq]; rfl
    · rw [hpath, Path.doomIn_eq]; rfl
  · simpa using (List.mem_filter.1 hb).2

end Pfree

/-- Settles O23: `palloc` answers what its operand and the free runs of the pool decide, and `pfree` closes the region that it
names. -/
theorem poolRegionsComeAndGo : Obligations.PoolRegionsComeAndGo := by
  intro f cur s hs e a n al
  refine ⟨fun h hm => palloc_reservation h hs hm, fun h hm h0 hmax hquota hfits => ?_,
    fun h hm hr => palloc_answers h hs hm ((or_assoc.trans (or_congr_right or_assoc)).2 hr), fun r h hr hb => pfree_closes h hr hb⟩
  have hok : ¬e.refusesPool s.ctl a := fun hr => hr.elim h0 fun hr => hr.elim hmax.not_gt hquota.not_gt
  exact palloc_opens h hs hm hok hfits

end Sys2Proof.Machine
end

section
/-! SUPPORT. What an instruction appends to the pending queues of its path (R211, R219). -/

namespace Sys2Proof.Machine

theorem forEach_onlyIf {α : Type} (c : α → Bool) (f : α → M Unit) (l : List α) :
    forEach l (fun a => onlyIf (c a) (f a)) = forEach (l.filter c) f := by
  induction l with
  | nil => rfl
  | cons a l ih =>
    rw [List.filter_cons, forEach, ih]
    cases c a with
    | true => rfl
    | false => rfl

theorem records_append (e : Env) (mk : Entry → Entry) (act : Act) (ins : Nat) (els : List Elem) :
    Records (e.append mk act ins els) :=
  .ite (.forEach fun _ => .onlyIf (.bind records_freshId fun _ => records_modC _)) (.bind records_freshId fun _ => records_modC _)

/-- The elements that helper l of helper code brings. -/
def elsOf (els : List Elem) (l : Nat) : List Elem := els.filter (fun x => x.lane == l)

theorem Env.entriesOf_helpers {e : Env} {els : List Elem} (h : e.p.helper.isSome ∧ (e.f.u = false ∨ els = [])) :
    e.entriesOf els = ((lanesOf e.ex e.gw).filter (fun l => els.isEmpty || !(elsOf els l).isEmpty)).map (elsOf els) :=
  (if_pos h).trans List.filter_map

/-- The entries of an instruction are those of `entriesOf`, in the path's pending queue. -/
theorem append_appends (e : Env) {mk : Entry → Entry}
    (hmk : ∀ x, (mk x).els = x.els ∧ (mk x).act = x.act ∧ (e.owns x → e.owns (mk x)))
    (act : Act) (ins : Nat) (els : List Elem) (r : Run) :
    ∃ n new, (e.append mk act ins els r).2.st = r.st.appended n new ∧ new.map (·.els) = e.entriesOf els ∧
      ∀ x ∈ new, e.owns x ∧ x.act = act := by
  have hown : ∀ n els, e.owns (mk (e.entry n ins act els)) := fun _ _ => (hmk _).2.2 ⟨rfl, rfl, rfl, rfl, rfl⟩
  by_cases hh : e.p.helper.isSome ∧ (e.f.u = false ∨ els = [])
  · have hc : (e.p.helper.isSome && !(e.f.u && !els.isEmpty)) = true := by
      rcases hh with ⟨hp, hu | hn⟩
      · simp [hp, hu]
      · simp [hp, hn]
    rw [Env.append, if_pos hc, Env.entriesOf_helpers hh, forEach_onlyIf]
    obtain ⟨n, new, hst, hnew⟩ := forEach_appends
      (f := fun l => do
        let id ← freshId
        appendEntry { mk (e.entry id ins act (elsOf els l)) with hl := some l })
      (P := fun l x => (e.owns x ∧ x.act = act) ∧ x.els = elsOf els l)
      (fun l r => ⟨_, _, rfl, ⟨hown _ _, (hmk _).2.1⟩, (hmk _).1⟩)
      ((lanesOf e.ex e.gw).filter (fun l => els.isEmpty || !(elsOf els l).isEmpty)) r
    obtain ⟨hall, hels⟩ := (List.forall₂_and_left _ _).1 hnew.flip
    have hmap := List.forall₂_map_left_iff.2 (List.forall₂_map_right_iff.2 hels)
    rw [List.forall₂_eq_eq_eq] at hmap
    exact ⟨n, new, hst, hmap, hall⟩
  · have hc : ¬(e.p.helper.isSome && !(e.f.u && !els.isEmpty)) = true := fun hc => hh (by
      simp only [Bool.and_eq_true, Bool.not_eq_true', Bool.and_eq_false_iff, Bool.not_eq_false', List.isEmpty_iff] at hc
      exact hc)
    rw [Env.append, if_neg hc, Env.entriesOf, if_neg hh]
    exact ⟨_, [_], rfl, congrArg (fun x => [x]) (hmk _).1, List.forall_mem_singleton.2 ⟨hown _ _, (hmk _).2.1⟩⟩

end Sys2Proof.Machine
end

section
/-! SUPPORT. Recorded hits of a party (R128), and zeros that land in registers (R131, R175). -/

namespace Sys2Proof.Machine

/-! ### Recorded hits -/

/-- The party with a hit of a lane recorded: the first hit of a lane is kept, a further one sets MULT. -/
def Group.hitBy (lane : Nat) (w : Word) (copy : Bool) (g : Group) : Group :=
  if g.hits.any (fun h => h.lane == lane) then
    { g with hits := g.hits.map (fun h => if h.lane == lane then { h with mult := true, copy := h.copy || copy } else h) }
  else { g with hits := g.hits ++ [{ lane := lane, word := w, mult := false, copy := copy }] }

/-- The lanes of which a party has recorded a hit. -/
def Group.hitLanes (g : Group) : List Nat := g.hits.map (·.lane)

section Hits

variable {lane : Nat} {w : Word} {copy : Bool} {g : Group}

theorem Group.hitBy_who (g : Group) : (g.hitBy lane w copy).who = g.who := by
  unfold Group.hitBy
  split <;> rfl

theorem Group.hitBy_paths (g : Group) : (g.hitBy lane w copy).paths = g.paths := by
  unfold Group.hitBy
  split <;> rfl

theorem Group.mem_hitLanes_hitBy {m : Nat} : m ∈ (g.hitBy lane w copy).hitLanes ↔ m = lane ∨ m ∈ g.hitLanes := by
  unfold Group.hitBy
  split
  · next h =>
    have hsame : Group.hitLanes { g with hits := g.hits.map (fun h =>
        if h.lane == lane then { h with mult := true, copy := h.copy || copy } else h) } = g.hitLanes := by
      rw [Group.hitLanes, List.map_map]
      refine List.map_congr_left fun x _ => ?_
      rw [Function.comp_apply]
      split <;> rfl
    rw [hsame]
    refine ⟨.inr, fun hm => hm.elim (fun he => ?_) id⟩
    obtain ⟨x, hx, hl⟩ := List.any_eq_true.1 h
    exact he ▸ List.mem_map.2 ⟨x, hx, beq_iff_eq.1 hl⟩
  · rw [Group.hitLanes, List.map_append, List.mem_append, or_comm]
    exact or_congr_left List.mem_singleton

end Hits

theorem Team.party?_updParty_ne {t : Team} {who who' : Who} {f : Group → Group} (hne : who' ≠ who)
    (hw : ∀ g, (f g).who = g.who) :     (t.updParty who f).party? who' = t.party? who' := by
  cases who with
  | bobbin =>
    cases who' with
    | bobbin => exact absurd rfl hne
    | group m => rfl
  | group n =>
    cases who' with
    | bobbin => rfl
    | group m =>
      have hcomp : (fun g : Group => g.who == .group m) ∘ (fun g => if g.who == .group n then f g else g) =
          fun g => g.who == .group m := funext fun g => by
        rw [Function.comp_apply]
        split
        · rw [hw]
        · rfl
      refine List.find?_map.trans ?_
      rw [hcomp]
      show Option.map _ (t.party? (.group m)) = _
      cases hg : t.party? (.group m) with
      | none => rfl
      | some g =>
        have hwho : g.who = .group m := beq_iff_eq.1 (List.find?_some hg :)
        exact congrArg some (if_neg (by rw [hwho]; simpa using hne))

/-- A path still stands with its party when some party of its team changes: that party, or another one. -/
theorem Ctl.Shows.updAny {c : Ctl} {p : PathId} {t : Team} {g : Group} (h : c.Shows p t g) (who : Who) {f : Group → Group}
    (hw : ∀ g, (f g).who = g.who) (hp : ∀ g, (f g).paths = g.paths) :
    (c.updTeam p.team (fun t => t.updParty who f)).Shows p (t.updParty who f) (if who = p.who then f g else g) := by
  by_cases he : who = p.who
  · rw [if_pos he, he]
    exact h.updParty hw (by rw [hp]; exact h.path)
  · rw [if_neg he]
    refine h.updTeam (f := fun t => t.updParty who f) (fun t => by cases who <;> rfl) ?_ h.who h.path
    exact (Team.party?_updParty_ne (Ne.symm he) hw).trans h.party

theorem recordHit_shows (who : Who) (lane : Nat) (w : Word) (copy : Bool) {r : Run} {p : PathId} {t : Team} {g : Group}
    (h : r.st.ctl.Shows p t g) : (recordHit p.team who lane w copy r).2.st.ctl.Shows p (t.updParty who (Group.hitBy lane w copy))
      (if who = p.who then g.hitBy lane w copy else g) :=
  h.updAny who Group.hitBy_who Group.hitBy_paths

theorem keeps_storesEntries_recordHit (uid : Nat) (who : Who) (lane : Nat) (w : Word) (copy : Bool) :
    Keeps State.storesEntries (recordHit uid who lane w copy) := keeps_storesEntries_modC fun _ => rfl

/-- After hits of several lanes have been recorded in a party, the path stands in its own, which holds them if it is that one. -/
theorem recordHits_shows {α : Type} (who : Who) (lane : α → Nat) (w : α → Word) (copy : Bool) {p : PathId}
    (xs : List α) {r : Run} {t : Team} {g : Group} (h : r.st.ctl.Shows p t g) :
    ∃ t' g', (forEach xs (fun x => recordHit p.team who (lane x) (w x) copy) r).2.st.ctl.Shows p t' g' ∧ g'.paths = g.paths ∧
      (xs = [] → g'.hits = g.hits) ∧ (∀ m ∈ g.hitLanes, m ∈ g'.hitLanes) ∧ (who = p.who → ∀ x ∈ xs, lane x ∈ g'.hitLanes) := by
  induction xs generalizing r t g with
  | nil => exact ⟨t, g, h, rfl, fun _ => rfl, fun _ hm => hm, fun _ x hx => absurd hx List.not_mem_nil⟩
  | cons x xs ih =>
    obtain ⟨t2, g2, h2, hpaths, -, hkeep, hnew⟩ := ih (recordHit_shows who (lane x) (w x) copy h)
    refine ⟨t2, g2, h2, hpaths.trans ?_, fun hn => absurd hn (List.cons_ne_nil _ _), fun m hm => hkeep m ?_, fun he y hy => ?_⟩
    · split
      · exact Group.hitBy_paths _
      · rfl
    · split
      · exact Group.mem_hitLanes_hitBy.2 (.inr hm)
      · exact hm
    · rcases List.mem_cons.1 hy with rfl | hy
      · refine hkeep _ ?_
        rw [if_pos he]
        exact Group.mem_hitLanes_hitBy.2 (.inl rfl)
      · exact hnew he y hy

/-! ### Zeros that land -/

/-- An update that writes zero to a lane register or a uniform one. -/
def Upd.IsZero (u : Upd) : Prop := (∃ key, u = .reg32 .v key 0) ∨ ∃ key, u = .reg64 .w key 0

/-- Zeros change lane and uniform registers only, whatever the control state. -/
theorem applyAll_zeros {us : List Upd} (h : ∀ u ∈ us, u.IsZero) (s : State) (c : Ctl) :
    applyAll { s with ctl := c } us = { s with v := (applyAll s us).v, w := (applyAll s us).w, ctl := c } := by
  induction us generalizing s with
  | nil => rfl
  | cons u us ih =>
    have ih := ih fun x hx => h x (List.mem_cons_of_mem _ hx)
    obtain ⟨key, rfl⟩ | ⟨key, rfl⟩ := h u List.mem_cons_self
    · exact ih (applyUpd s (.reg32 .v key 0))
    · exact ih (applyUpd s (.reg64 .w key 0))

theorem get_set_zero {n : Nat} {m : Sparse n} (h : m.wf = true) (k j : Nat) : (m.set j 0).get k = if k = j then 0 else m.get k := by
  split
  · next he => exact he ▸ Sparse.get_set_self _ _ _ h
  · next hne => exact Sparse.get_set_ne _ _ _ _ hne

/-- What lane and uniform registers read after zeros have been written. -/
theorem get_applyAll_zeros {us : List Upd} (h : ∀ u ∈ us, u.IsZero) {s : State} (hv : s.v.wf = true) (hw : s.w.wf = true)
    (key : Nat) :
    ((applyAll s us).v.get key = if .reg32 .v key 0 ∈ us then 0 else s.v.get key) ∧
      ((applyAll s us).w.get key = if .reg64 .w key 0 ∈ us then 0 else s.w.get key) := by
  induction us generalizing s with
  | nil => exact ⟨rfl, rfl⟩
  | cons u us ih =>
    have hus : ∀ x ∈ us, x.IsZero := fun x hx => h x (List.mem_cons_of_mem _ hx)
    rw [applyAll_cons]
    obtain ⟨k, rfl⟩ | ⟨k, rfl⟩ := h u List.mem_cons_self
    · obtain ⟨h1, h2⟩ := ih (s := applyUpd s (.reg32 .v k 0)) hus (Sparse.wf_set _ _ _ hv) hw
      rw [h1, h2, applyUpd_v_v, applyUpd_v_w, get_set_zero hv]
      simp only [List.mem_cons, Upd.reg32.injEq, reduceCtorEq, and_true, true_and, false_or]
      simp only [or_comm (a := key = k), ite_or]
    · obtain ⟨h1, h2⟩ := ih (s := applyUpd s (.reg64 .w k 0)) hus hv (Sparse.wf_set _ _ _ hw)
      rw [h1, h2, applyUpd_w_v, applyUpd_w_w, get_set_zero hw]
      simp only [List.mem_cons, Upd.reg64.injEq, reduceCtorEq, and_true, true_and, false_or]
      simp only [or_comm (a := key = k), ite_or]

/-- The updates of a zero that lands where a sink names, of a team that is there. -/
def Sink.zeros (uid : Nat) : Sink → List Upd
  | .reg r _ =>
    if r.code < 256 then
      if r.w = 64 then [.reg32 .v (vKey uid r.vp r.lane r.code) 0, .reg32 .v (vKey uid r.vp r.lane (r.code + 1)) 0]
      else [.reg32 .v (vKey uid r.vp r.lane r.code) 0]
    else [.reg64 .w (wKey uid r.wp (wIndex (r.code - 256) r.pl)) 0]
  | .none => []

theorem Sink.isZero_of_mem {uid : Nat} {k : Sink} {u : Upd} (h : u ∈ k.zeros uid) : u.IsZero := by
  cases k with
  | none => exact absurd h List.not_mem_nil
  | reg r n =>
    unfold Sink.zeros at h
    dsimp only at h
    split at h
    · split at h
      · rcases List.mem_pair.1 h with rfl | rfl
        · exact .inl ⟨_, rfl⟩
        · exact .inl ⟨_, rfl⟩
      · exact .inl ⟨_, List.mem_singleton.1 h⟩
    · exact .inr ⟨_, List.mem_singleton.1 h⟩

theorem updSink_zero (uid : Nat) (r : RegSink) (n : Bool) : updSink uid r 0 = (Sink.reg r n).zeros uid := by
  have hy : (if r.sgn then wrapInt 64 (sextNat r.w (0 : Word).toNat) else (0 : Word).toNat % 2 ^ r.w) = 0 := by
    simp [sextNat, wrapInt]
  unfold updSink Sink.zeros
  rw [hy]
  rfl

theorem landSink_zero {uid : Nat} (k : Sink) {r : Run} (h : r.st.ctl.hasTeam uid = true) :
    (landSink uid k 0 r).2.st = applyAll r.st (k.zeros uid) := by
  rw [landSink_run]
  cases k with
  | none => rfl
  | reg d n => rw [State.landed, if_pos h, updSink_zero]

theorem forEach_landSink_zero {uid : Nat} (ks : List Sink) {r : Run} (h : r.st.ctl.hasTeam uid = true) :
    (forEach ks (fun k => landSink uid k 0) r).2.st = applyAll r.st (ks.flatMap (Sink.zeros uid)) := by
  induction ks generalizing r with
  | nil => rfl
  | cons k ks ih =>
    have hk := landSink_zero k h
    rw [forEach, bind_run, ih, hk, List.flatMap_cons, applyAll_append]
    rw [hk, show applyAll r.st _ = _ from applyAll_zeros (fun u hu => Sink.isZero_of_mem hu) r.st r.st.ctl]
    exact h

end Sys2Proof.Machine
end

section
/-! SUPPORT. Accesses of the scratchpads (R119 to R131) and `tmprobe` (R132). -/

namespace Sys2Proof.Machine

/-! ### What the form says of the destination (R130) -/

theorem dstForm_nil {f : Fields} {pair : Bool} (h : dstForm f pair = []) (hws : f.ws = false) :
    (f.u = false → f.dst.toNat < 256) ∧ (f.u = true → 256 ≤ f.dst.toNat) := by
  unfold dstForm at h
  rw [hws] at h
  simp only [Bool.false_eq_true, if_false] at h
  split at h
  · next hlt =>
    have hu : f.u = false := by simpa [need_eq_nil] using (List.append_eq_nil_iff.1 h).1
    exact ⟨fun _ => hlt, fun ht => absurd (hu.symm.trans ht) Bool.false_ne_true⟩
  · next hge =>
    refine ⟨fun hu => ?_, fun _ => not_lt.1 hge⟩
    split at h
    · exact absurd (hu.symm.trans (need_eq_nil.1 h)) Bool.false_ne_true
    · split at h <;> cases h

theorem spForm_dst {f : Fields} {w : Nat} {data faults : List Nat} (h : (spForm f w true data faults).faults = [])
    (hws : f.ws = false) :
    (f.u = false → f.dst.toNat < 256) ∧ (f.u = true → 256 ≤ f.dst.toNat) := by
  have hd := (List.append_eq_nil_iff.1 h).2
  simp only [if_true, hws, Bool.false_eq_true, if_false] at hd
  exact dstForm_nil hd hws

section Access

variable {i : Instr} {f : Fields} {cur : Cur} {s : State} {e : Env} {r : SpRule}

/-- A form that reads has a lane register as its destination with U = 0, a uniform one with U = 1. -/
theorem spRule_dst (h : Executes i f cur s) (hr : spRule (envOf s cur f) i = some r) (hrd : r.rd = true) (hws : f.ws = false) :
    (f.u = false → f.dst.toNat < 256) ∧ (f.u = true → 256 ≤ f.dst.toNat) := by
  have hf := h.fields_eq
  have hform := h.faults_eq
  cases i with
  | lds g | ldp g | atms op g =>
    cases hf
    exact spForm_dst hform hws
  | sts g | stp g =>
    cases hr
    cases hrd
  | _ => cases hr

/-! ### The instructions -/

theorem eight_intWidth (t : Nat) : 8 * (intWidth t / 8) = intWidth t := by
  rw [intWidth, Nat.mul_div_cancel_left _ (by decide)]

theorem eight_typeWidth (t : Nat) : 8 * (typeWidth t / 8) = typeWidth t := by
  unfold typeWidth
  split
  · exact eight_intWidth t
  · split
    · rfl
    · split <;> rfl

/-- A scratchpad access as a rule gives it. -/
def Env.spBody (e : Env) (r : SpRule) (flags : Bool) : M Res :=
  e.spAccess r.sp r.n r.wr r.act flags (8 * r.n) r.sgn r.rd r.dat

theorem exec_of_spRule (h : Executes i f cur s) (hr : spRule (envOf s cur f) i = some r) :
    ∃ flags, exec i s = issue i f (fun e => e.spBody r flags) s := by
  have hf := h.fields_eq
  cases i with
  | lds g | ldp g | sts g | stp g =>
    cases hf
    cases hr
    refine ⟨false, issue_congr h ?_⟩
    dsimp only [Env.spBody, spRule.load, spRule.store]
    rw [eight_intWidth]
    rfl
  | atms op g =>
    cases hf
    cases hr
    refine ⟨op.toNat == 8, issue_congr h ?_⟩
    dsimp only [Env.spBody]
    rw [eight_typeWidth]
  | _ => cases hr

/-! ### The access (R131) -/

/-- Nothing stops the access of these lanes (R125 to R127, R131, R136, R141, R289). -/
structure Env.SpClear (e : Env) (c : Ctl) (r : SpRule) (xs : List SpLane) : Prop where
  aligned : ∀ x ∈ xs, x.off % r.n = 0
  inside : ∀ x ∈ xs, ∀ b, x.cls ≠ .out b
  free : r.wr = true → ∀ d ∈ dataLanes xs, c.boundByte d.2 r.n = false ∧ c.ringHeader d.2 r.n = false
  goes : spPark c e.t (r.sp == 1) r.wr (dataLanes xs) r.n = none

theorem outside_none {xs : List SpLane} (h : ∀ x ∈ xs, ∀ b, x.cls ≠ .out b) : outside xs = none := by
  have hn : ∀ b, xs.filter (fun x => x.cls == .out b) = [] := fun b =>
    List.filter_eq_nil_iff.2 fun x hx hc => h x hx b (beq_iff_eq.1 hc)
  unfold outside
  dsimp only
  rw [hn, hn]

theorem onlyWrites_nil {α : Type} {wr : Bool} {p : α → Bool} {l : List α} (h : wr = true → ∀ x ∈ l, p x = false) :
    (if wr then l.filter p else []) = [] := by
  cases wr with
  | false => rfl
  | true => exact List.filter_eq_nil_iff.2 fun x hx hp => absurd ((h rfl x hx).symm.trans hp) Bool.false_ne_true

/-- Where the lanes' results land. -/
def Env.selvSinks (e : Env) (r : SpRule) (xs : List SpLane) : List Sink :=
  (selvLanes xs).map (fun x => e.sinkFor x.lane (8 * r.n) r.sgn false)

/-- The selvage lanes' hits, and the zeros that they read. -/
def Env.spSelvage (e : Env) (r : SpRule) (xs : List SpLane) : M Unit := do
  forEach (selvLanes xs) (fun x => recordHit e.uid (whoOf e.home) x.lane (hitWord r.sp x.off) false)
  onlyIf r.rd (forEach (e.selvSinks r xs) (fun k => landSink e.uid k 0))

/-- The elements of the data lanes: of stores to one place the highest lane's. -/
def SpRule.els (r : SpRule) (e : Env) (ds : List (SpLane × Loc)) : List Elem :=
  if r.act == .write then lastAt (ds.map (fun d => r.elem e d.1 d.2)) else ds.map (fun d => r.elem e d.1 d.2)

/-- The data lanes' accesses are posted. -/
def Env.spPosts (e : Env) (r : SpRule) (flags : Bool) (ds : List (SpLane × Loc)) : M Unit :=
  onlyIf (!ds.isEmpty) (do
    let ins ← freshId
    e.append (fun x => { x with flags := flags }) r.act ins (r.els e ds))

/-- An access that nothing stops records the hits, lands zeros in the selvage lanes and posts the data lanes' accesses. -/
theorem spBody_run {flags : Bool} {q : Run} (h : e.SpClear q.st.ctl r (e.spLanes r.sp r.n)) :
    e.spBody r flags q = (.done, (do
      e.spSelvage r (e.spLanes r.sp r.n)
      e.spPosts r flags (dataLanes (e.spLanes r.sp r.n)) : M Unit) q |>.2) := by
  have hal : (e.spLanes r.sp r.n).filter (fun x => x.off % r.n != 0) = [] :=
    List.filter_eq_nil_iff.2 fun x hx ho => absurd (h.aligned x hx) (bne_iff_ne.1 ho)
  have hbound := onlyWrites_nil fun hw d hd => (h.free hw d hd).1
  have hring := onlyWrites_nil fun hw d hd => (h.free hw d hd).2
  unfold Env.spBody Env.spAccess
  dsimp only
  rw [hal]
  dsimp only
  rw [outside_none h.inside]
  dsimp only
  rw [bind_run, getC_run]
  dsimp only
  rw [hbound]
  dsimp only
  rw [hring]
  dsimp only
  rw [h.goes, Env.spSelvage, Env.selvSinks, forEach_map, Env.spPosts]
  cases dataLanes (e.spLanes r.sp r.n) with
  | nil => rfl
  | cons d ds => rfl


/-! ### What the selvage lanes leave -/

theorem eq_of_stores {s t : State} (h : t.stores = s.stores) : t = { s with ctl := t.ctl } :=
  congrArg (fun x : State => { x with ctl := t.ctl }) h

theorem Ctl.Shows.hasTeam {c : Ctl} {p : PathId} {t : Team} {g : Group} (h : c.Shows p t g) : c.hasTeam p.team = true :=
  List.any_eq_true.2 ⟨t, List.mem_of_find?_eq_some h.team, beq_iff_eq.2 h.uid_eq⟩

/-- The zeros that the selvage lanes read. -/
def Env.selvZeros (e : Env) (r : SpRule) (xs : List SpLane) : List Upd :=
  if r.rd then (e.selvSinks r xs).flatMap (Sink.zeros e.uid) else []

theorem Env.isZero_selvZeros {xs : List SpLane} : ∀ u ∈ e.selvZeros r xs, u.IsZero := by
  intro u hu
  unfold Env.selvZeros at hu
  split at hu
  · obtain ⟨k, -, hk⟩ := List.mem_flatMap.1 hu
    exact Sink.isZero_of_mem hk
  · exact absurd hu List.not_mem_nil

/-- Of the stores the selvage lanes change lane and uniform registers only, by their zeros; their hits are recorded. -/
theorem spSelvage_leaves (h : s.ctl.stands cur.p = true) (r : SpRule) (xs : List SpLane) : let e := envOf s cur f
    ∃ c t1 g1, (e.spSelvage r xs { st := s, log := [] }).2.st =
        { s with v := (applyAll s (e.selvZeros r xs)).v, w := (applyAll s (e.selvZeros r xs)).w, ctl := c } ∧
      c.entries = s.ctl.entries ∧ c.Shows cur.p t1 g1 ∧ g1.paths = e.g.paths ∧ (selvLanes xs = [] → g1.hits = e.g.hits) ∧
      (whoOf e.home = e.g.who → ∀ x ∈ selvLanes xs, x.lane ∈ g1.hitLanes) := by
  intro e
  obtain ⟨t1, g1, hg1, hpaths, hnil, -, hhits⟩ := recordHits_shows (r := { st := s, log := [] }) (whoOf e.home) SpLane.lane
    (fun x => hitWord r.sp x.off) false (selvLanes xs) (Ctl.shows_of_stands h)
  have hkeep := (Keeps.forEach (l := selvLanes xs) fun x : SpLane =>
    keeps_storesEntries_recordHit cur.p.team (whoOf e.home) x.lane (hitWord r.sp x.off) false) { st := s, log := [] }
  obtain ⟨u, hu⟩ : ∃ u, (forEach (selvLanes xs) (fun x => recordHit cur.p.team (whoOf e.home) x.lane (hitWord r.sp x.off) false)
    { st := s, log := [] }).2 = u := ⟨_, rfl⟩
  rw [KeepsAt, hu] at hkeep
  rw [hu] at hg1
  have hst : u.st = { s with ctl := u.st.ctl } := eq_of_stores (congrArg Prod.fst hkeep.1)
  refine ⟨u.st.ctl, t1, g1, ?_, congrArg Prod.snd hkeep.1, hg1, hpaths, hnil, fun hw => hhits (hw.trans (envOf_who h))⟩
  rw [← applyAll_zeros Env.isZero_selvZeros, ← hst, Env.spSelvage, bind_run, envOf_uid h, hu, onlyIf_run,
    Env.selvZeros, envOf_uid h]
  cases r.rd with
  | false => rfl
  | true => exact forEach_landSink_zero _ hg1.hasTeam

theorem lastAt_ne_nil {l : List Elem} (h : l ≠ []) : lastAt l ≠ [] := by
  induction l with
  | nil => exact absurd rfl h
  | cons x l ih =>
    unfold lastAt
    split
    · next hx =>
      refine ih fun hn => ?_
      rw [hn] at hx
      cases hx
    · exact List.cons_ne_nil _ _

/-- The entries that the data lanes make. -/
theorem spPosts_appends (e : Env) (r : SpRule) (flags : Bool) (ds : List (SpLane × Loc)) (q : Run) :
    ∃ n new, (e.spPosts r flags ds q).2.st = q.st.appended n new ∧ (∀ x ∈ new, e.owns x ∧ x.act = r.act) ∧
      (ds = [] → new = []) ∧ (ds ≠ [] → new.map (·.els) = e.entriesOf (r.els e ds)) := by
  rw [Env.spPosts, onlyIf_run]
  cases ds with
  | nil =>
    exact ⟨q.st.ctl.nextId, [], by simp [State.appended], fun x hx => absurd hx List.not_mem_nil, fun _ => rfl,
      fun h => absurd rfl h⟩
  | cons d ds =>
    obtain ⟨n, new, hst, hels, hown⟩ := append_appends e (mk := fun x => { x with flags := flags })
      (fun _ => ⟨rfl, rfl, id⟩) r.act (freshId q).1 (r.els e (d :: ds)) (freshId q).2
    exact ⟨n, new, hst, hown, fun h => absurd h (List.cons_ne_nil _ _), fun _ => hels⟩

theorem records_spAccess (e : Env) (r : SpRule) (flags : Bool) (xs : List SpLane) (ds : List (SpLane × Loc)) : Records (do
    e.spSelvage r xs
    e.spPosts r flags ds) :=
  .bind (.bind (.forEach fun _ => records_modC _) fun _ => .onlyIf (.forEach fun _ => (keeps_landSink _ _ _).records)) fun _ =>
    .onlyIf (.bind records_freshId fun _ => records_append _ _ _ _ _)

/-- What a scratchpad access that nothing stops leaves, with the entries it posts (R131). -/
structure Env.SpLeaves (e : Env) (r : SpRule) (xs : List SpLane) (s t : State) (new : List Entry) : Prop where
  stores : t = { s with v := (applyAll s (e.selvZeros r xs)).v, w := (applyAll s (e.selvZeros r xs)).w, ctl := t.ctl }
  entries : t.ctl.entries = s.ctl.entries ++ new
  owned : ∀ x ∈ new, e.owns x ∧ x.act = r.act
  noData : dataLanes xs = [] → new = []
  data : dataLanes xs ≠ [] → new.map (·.els) = e.entriesOf (r.els e (dataLanes xs))
  noSelvage : selvLanes xs = [] → (t.groupOf e.cur.p).hits = e.g.hits
  hits : whoOf e.home = e.g.who → ∀ x ∈ selvLanes xs, x.lane ∈ (t.groupOf e.cur.p).hitLanes

theorem exec_spAccess (h : Executes i f cur s) (hr : spRule (envOf s cur f) i = some r) : let e := envOf s cur f
    let xs := e.spLanes r.sp r.n
    e.SpClear s.ctl r xs →
    ∃ (t : State) (new : List Entry), exec i s = .next t ∧ GoesOn cur s t ∧ e.SpLeaves r xs s t new := by
  intro e xs hc
  obtain ⟨flags, hi⟩ := exec_of_spRule h hr
  obtain ⟨c, t1, g1, hst, hent, hg1, hpaths, hnone, hhits⟩ := spSelvage_leaves (f := f) h.stands r xs
  obtain ⟨n, new, hst2, hown, hnil, hels⟩ := spPosts_appends e r flags (dataLanes xs) (e.spSelvage r xs { st := s, log := [] }).2
  rw [hst] at hst2
  obtain ⟨q, hq⟩ : ∃ q, (e.spPosts r flags (dataLanes xs) (e.spSelvage r xs { st := s, log := [] }).2).2 = q := ⟨_, rfl⟩
  rw [hq] at hst2
  have hb : e.spBody r flags { st := s, log := [] } = (.done, q) := (spBody_run hc).trans (by rw [bind_run, hq])
  have ht : q.Tied s := hq ▸ (records_spAccess e r flags xs (dataLanes xs) { st := s, log := [] }).2 s rfl
  have hshows : q.st.ctl.Shows cur.p t1 g1 := by
    rw [hst2]
    exact hg1.congr rfl
  have hpath : g1.path cur.p.pid = e.g.path cur.p.pid := by rw [Group.path, hpaths, Group.path]
  have hleft := shows_left (t := { q.st with ctl := q.st.ctl.leave cur.p (e.after i.last none) }) hshows rfl
  refine ⟨_, new, exec_completes (lat := none) h hi hb ht rfl, goesOn_of_shows hshows rfl ?_ ?_,
    { stores := by rw [hst2]; rfl
      entries := (congrArg (fun x => x.ctl.entries) hst2).trans (congrArg (· ++ new) hent)
      owned := hown
      noData := hnil
      data := hels
      noSelvage := fun hn => (congrArg Group.hits hleft.groupOf).trans (hnone hn)
      hits := fun hw x hx => (congrArg Group.hitLanes hleft.groupOf).symm ▸ hhits hw x hx }⟩
  · rw [hpath]; rfl
  · rw [hpath]; rfl

/-! ### Which registers read zero -/

theorem mem_selvLanes {xs : List SpLane} {x : SpLane} : x ∈ selvLanes xs ↔ x ∈ xs ∧ x.cls = .selv := by
  rw [selvLanes, List.mem_filter, beq_iff_eq]

theorem mem_selvZeros {xs : List SpLane} {u : Upd} : u ∈ e.selvZeros r xs ↔
    r.rd = true ∧ ∃ x ∈ xs, x.cls = .selv ∧ u ∈ (e.sinkFor x.lane (8 * r.n) r.sgn false).zeros e.uid := by
  unfold Env.selvZeros
  cases r.rd with
  | false => simp
  | true => simp [Env.selvSinks, mem_selvLanes, and_assoc]

/-- The lane registers of a destination in which a zero lands. -/
theorem mem_zeros_v {l w key : Nat} {sgn sb : Bool} : .reg32 .v key 0 ∈ (e.sinkFor l w sgn sb).zeros e.uid ↔
    e.f.ws = false ∧ e.f.dst.toNat < 256 ∧
      (key = vKey e.uid e.vp l e.f.dst.toNat ∨ w = 64 ∧ key = vKey e.uid e.vp l (e.f.dst.toNat + 1)) := by
  unfold Env.sinkFor Sink.zeros
  cases e.f.ws with
  | true => simp
  | false =>
    by_cases hd : e.f.dst.toNat < 256
    · by_cases hw : w = 64
      · simp [hd, hw]
      · simp [hd, hw]
    · simp [hd]

/-- The uniform register of a destination in which a zero lands. -/
theorem mem_zeros_w {l w key : Nat} {sgn sb : Bool} : .reg64 .w key 0 ∈ (e.sinkFor l w sgn sb).zeros e.uid ↔
    e.f.ws = false ∧ 256 ≤ e.f.dst.toNat ∧ key = wKey e.uid e.home (wIndex (e.f.dst.toNat - 256) e.pl) := by
  unfold Env.sinkFor Sink.zeros
  cases e.f.ws with
  | true => simp
  | false =>
    by_cases hd : e.f.dst.toNat < 256
    · by_cases hw : w = 64
      · simp [hd, hw]
      · simp [hd, hw]
    · simp [hd, not_lt.1 hd]

theorem selvZeros_eq_nil {xs : List SpLane}
    (h : r.rd = false ∨ e.f.ws = true ∨ ∀ x ∈ xs, x.cls ≠ .selv) : e.selvZeros r xs = [] := by
  refine List.eq_nil_iff_forall_not_mem.2 fun u hu => ?_
  obtain ⟨hrd, x, hx, hselv, hz⟩ := mem_selvZeros.1 hu
  rcases h with h | h | h
  · exact Bool.false_ne_true (h.symm.trans hrd)
  · rw [Env.sinkFor, if_pos h] at hz
    exact List.not_mem_nil hz
  · exact h x hx hselv

end Access

/-- Lane and uniform registers after a scratchpad access. -/
theorem selvZeros_reads {e : Env} {r : SpRule} {xs : List SpLane} {s t : State} (hs : s.wf)
    (hv : t.v = (applyAll s (e.selvZeros r xs)).v) (hw : t.w = (applyAll s (e.selvZeros r xs)).w) :
    (∀ key, (∀ x ∈ xs, x.cls = .selv → key ≠ vKey e.uid e.vp x.lane e.f.dst.toNat ∧
        (8 * r.n = 64 → key ≠ vKey e.uid e.vp x.lane (e.f.dst.toNat + 1))) → t.v.get key = s.v.get key) ∧
      (∀ key, key ≠ wKey e.uid e.home (wIndex (e.f.dst.toNat - 256) e.pl) → t.w.get key = s.w.get key) ∧
      (r.rd = true → e.f.ws = false → ∀ x ∈ xs, x.cls = .selv →
        (e.f.dst.toNat < 256 → e.laneAfter t e.f.dst.toNat x.lane (8 * r.n == 64) = 0) ∧
          (256 ≤ e.f.dst.toNat → t.wreg e.uid e.home (e.f.dst.toNat - 256) e.pl = 0)) := by
  have hget := get_applyAll_zeros (us := e.selvZeros r xs) Env.isZero_selvZeros hs.vw.1 hs.vw.2
  refine ⟨fun key hk => ?_, fun key hk => ?_, fun hrd hws x hx hselv => ⟨fun hd => ?_, fun hd => ?_⟩⟩
  · rw [hv, (hget key).1, if_neg]
    intro hm
    obtain ⟨-, x, hx, hselv, hz⟩ := mem_selvZeros.1 hm
    obtain ⟨-, -, he | ⟨h64, he⟩⟩ := mem_zeros_v.1 hz
    · exact (hk x hx hselv).1 he
    · exact (hk x hx hselv).2 h64 he
  · rw [hw, (hget key).2, if_neg]
    intro hm
    obtain ⟨-, x, -, -, hz⟩ := mem_selvZeros.1 hm
    exact hk (mem_zeros_w.1 hz).2.2
  · have hlo := mem_selvZeros.2 ⟨hrd, x, hx, hselv, mem_zeros_v.2 ⟨hws, hd, .inl rfl⟩⟩
    have hlo' : t.v.get (vKey e.uid e.vp x.lane e.f.dst.toNat) = 0 := by rw [hv, (hget _).1, if_pos hlo]
    unfold Env.laneAfter
    dsimp only
    rw [hlo']
    split
    · next h64 =>
      have hhi := mem_selvZeros.2 ⟨hrd, x, hx, hselv, mem_zeros_v.2 ⟨hws, hd, .inr ⟨beq_iff_eq.1 h64, rfl⟩⟩⟩
      rw [hv, (hget _).1, if_pos hhi]
      rfl
    · rfl
  · rw [State.wreg, hw, (hget _).2, if_pos (mem_selvZeros.2 ⟨hrd, x, hx, hselv, mem_zeros_w.2 ⟨hws, hd, rfl⟩⟩)]

theorem scratchpadAccesses_posted : Sys2Proof.Claims.ScratchpadAccessesArePosted := by
  intro i f cur s r h e xs ds hr hs hal hin hfree hpark
  obtain ⟨t, new, ht, hgo, hl⟩ := exec_spAccess h hr { aligned := hal, inside := hin, free := hfree, goes := hpark }
  have hst := hl.stores
  have hv := congrArg State.v hst
  have hw := congrArg State.w hst
  obtain ⟨hvk, hwk, hz⟩ := selvZeros_reads hs hv hw
  have hsame : r.rd = false ∨ f.ws = true ∨ (∀ x ∈ xs, x.cls ≠ .selv) → t.v = s.v ∧ t.w = s.w := fun hn => by
    rw [hv, hw, selvZeros_eq_nil hn]
    exact ⟨rfl, rfl⟩
  refine ⟨t, new, ht, hgo, by rw [hst]; exact ⟨rfl, rfl, rfl, rfl, rfl⟩, by rw [hst], by rw [hst], by rw [hst], by rw [hst],
    hl.entries, hl.owned, hl.noData, hl.data, hvk, hwk, fun hn => hsame (hn.imp_right .inl), fun hn => ?_, fun x hx hselv hwho => ?_,
    fun hrd hws hu x hx hselv => (hz hrd hws x hx hselv).1 ((spRule_dst h hr hrd hws).1 hu),
    fun hrd hws hu x hx hselv => (hz hrd hws x hx hselv).2 ((spRule_dst h hr hrd hws).2 hu)⟩
  · obtain ⟨hv', hw'⟩ := hsame (.inr (.inr hn))
    exact ⟨hv', hw', hl.noSelvage (List.filter_eq_nil_iff.2 fun x hx hc => hn x hx (beq_iff_eq.1 hc))⟩
  · obtain ⟨y, hy, hlane⟩ := List.mem_map.1 (hl.hits hwho x (mem_selvLanes.2 ⟨hx, hselv⟩))
    exact ⟨y, hy, hlane⟩

/-! ### `tmprobe` (R132) -/

theorem getLsbD_foldl_or (ls : List Nat) (m : Word) {i : Nat} (hi : i < 64) :
    (ls.foldl (fun m l => m ||| wd (2 ^ l)) m).getLsbD i = (m.getLsbD i || decide (i ∈ ls)) := by
  induction ls generalizing m with
  | nil => simp
  | cons l ls ih =>
    rw [List.foldl_cons, ih, BitVec.getLsbD_or, wd, BitVec.getLsbD_ofNat, Nat.testBit_two_pow]
    simp [hi, Bool.or_assoc, eq_comm]

/-- The bits of a mask of lanes. -/
theorem getLsbD_maskOf (ls : List Nat) {i : Nat} (hi : i < 64) : (maskOf ls).getLsbD i = decide (i ∈ ls) := by
  rw [maskOf, getLsbD_foldl_or _ _ hi]
  simp

/-- A line of the window is present unless a job fills it, and pinned while a pass reads it; other lines are present and unpinned. -/
theorem probeBit_eq (e : Env) (q : Bool) (line : Nat) : let l := line % 2 ^ 26
    e.probeBit q line =
      if 64 * l < e.t.hdr.tmem * 256 then (if q then e.s.ctl.pinned (tmLoc e.uid (64 * l)) else !e.s.ctl.absent e.uid l) else !q := by
  intro l
  rw [Env.probeBit, Nat.mul_comm]

theorem tmprobe_reads : Sys2Proof.Claims.TmprobeReadsLineStates := by
  intro f cur s h hs e
  obtain ⟨t, ht, hgo, hby, hw⟩ := exec_onlyWd h hs rfl rfl
  refine ⟨t, _, ht, hw, hby, hgo, fun i hi => ?_⟩
  rw [getLsbD_maskOf _ hi]
  simp only [List.mem_filter, List.mem_range, hi, true_and, Bool.decide_eq_true]
  exact probeBit_eq _ _ _

/-- Settles O22: a scratchpad access posts its data lanes and zeroes its selvage lanes, and each bit of a `tmprobe` is the state of
its line. -/
theorem scratchpadAccesses : Obligations.ScratchpadAccesses := ⟨scratchpadAccesses_posted, tmprobe_reads⟩

end Sys2Proof.Machine
end
